-- ==== Sys2Proof/Word.lean ====
section
/-! DEFINITION. The word types of the machine (R30, R47, R49): what the manual treats as bits. -/

namespace Sys2Proof

/-- One byte of memory. -/
abbrev Byte := BitVec 8
/-- A scalar register, 64 bits (R47). -/
abbrev Word := BitVec 64
/-- A vector register or a latch, 1,024 bits (R47, R49). -/
abbrev VWord := BitVec 1024
/-- A predicate register, 128 bits, one for each byte lane (R47). -/
abbrev PWord := BitVec 128
/-- A tile word, 32 bits (R47, R162). -/
abbrev TWord := BitVec 32
/-- A granule tag, 16 bits (R20, R229). -/
abbrev Tag := BitVec 16

end Sys2Proof
end

