-- ==== Sys2Proof/Config.lean ====
section
/-! DEFINITION. What an implementation fixes and the free values: constants without a body,
so that nothing can be proved of the value they take (logs 8, 9 and 10). -/

namespace Sys2Proof

/-- A free natural number: a duration, or how far an engine has come (logs 8, 10). -/
opaque Config.freeNat : Nat → Nat

/-- Free bits of any width (log 8). -/
opaque Config.freeBits (w : Nat) : Nat → BitVec w

/-- Bytes of a value, the lowest first. -/
def Config.bytes (n v : Nat) : List Byte := (List.range n).map (fun i => BitVec.ofNat 8 (v / 256 ^ i))

/-- The AES-256-GCM tag of the bytes under a key and a nonce, a standard outside the text (log 9). -/
opaque Config.gcmTagBits (key nonce : List Nat) (data : List Byte) : BitVec 128

/-- The counter-mode keystream of AES-256-GCM under a key and a nonce, byte by byte (log 9). -/
opaque Config.gcmStream (key nonce : List Nat) : Nat → Byte

/-- SHA-384 as a function of a byte string (log 9). -/
opaque Config.sha384Bits : List Byte → BitVec 384

/-- The first 512 bits of HKDF-SHA-384 of a key and a label: the longest key taken (R336; log 9). -/
opaque Config.hkdfBits (key label : List Nat) : BitVec 512

/-- The ECDH secret of a tenant's attested session (R357; log 9). -/
opaque Config.sessionSecret (session : Nat) : List Nat

/-- The ECDH secret of two devices, and the key number of their link after so many rekeys (R358; log 9). -/
opaque Config.linkSecret (a b keys : Nat) : List Nat

/-- ECDSA signature of a report under the device key on brainpoolP384r1 (log 9). -/
opaque Config.signBits : List Byte → BitVec 768

/-- The 16 bytes of a tag. -/
def Config.gcmTag (key nonce : List Nat) (data : List Byte) : List Byte :=
  Config.bytes 16 (Config.gcmTagBits key nonce data).toNat

/-- Bytes under the keystream: GCM enciphers and deciphers by the same exclusive or (log 9). -/
def Config.gcmEnc (key nonce : List Nat) (data : List Byte) : List Byte :=
  ((List.range data.length).zip data).map (fun e => e.2 ^^^ Config.gcmStream key nonce e.1)

/-- Deciphering, which is enciphering again. -/
def Config.gcmDec (key nonce : List Nat) (data : List Byte) : List Byte := Config.gcmEnc key nonce data

/-- The 48 bytes of a digest. -/
def Config.sha384 (data : List Byte) : List Byte := Config.bytes 48 (Config.sha384Bits data).toNat

/-- The first n bytes of a derived key, 32 of an AES key, 64 of the two "xts" keys. -/
def Config.hkdfN (n : Nat) (key label : List Nat) : List Nat :=
  (Config.bytes n (Config.hkdfBits key label).toNat).map BitVec.toNat
def Config.hkdf : List Nat → List Nat → List Nat := Config.hkdfN 32

/-- The 96 bytes of a signature. -/
def Config.sign (data : List Byte) : List Byte := Config.bytes 96 (Config.signBits data).toNat

/-- Sirlen's check of a firmware package: does an ECDSA brainpoolP384r1 signature stand over its SHA-384 (R392; log 9)? -/
opaque Config.verifies (digest signature : Nat) : Bool

/-- A bundle of a firmware's supervisor store (log 14). -/
opaque Config.firmware (fw bundle : Nat) : BitVec 256

end Sys2Proof
end

