-- ==== Sys2Proof/Syntax.lean ====
section
/-! DEFINITION. The instructions: one constructor for each row of the opcode table.
Slot operations (R56 to R65) and vault commands (R70) carry the fields of their words;
the events, which have no words, carry the number of what they act on. -/

namespace Sys2Proof

/-- A source operand of the register and immediate formats (R42). -/
inductive Src where
  /-- the register of the operation's source type with this number -/
  | reg (n : Nat)
  /-- bypass latch l1 to l7 -/
  | lat (k : Nat)
  deriving DecidableEq, Repr

/-- The steps of the part. In slot operations `d` is the destination, `nb` the nowb bit (R43),
`a` and `b` the sources, `m` the mod field of R59 and `w` the width code of R41. -/
inductive Instr where
  -- control slot (R56)
  | nop
  | br (t : Nat)
  | brc (s c t : Nat)
  | brl (d t : Nat)
  | brx (s : Nat)
  | zloop (s e : Nat)
  | close
  | waitc (s n : Nat)
  | waitt (s : Nat)
  | syncd (l : Nat)
  | setfmt (s t : Nat)
  /-- predicate, zero bit for each of slot positions 3, 4 and 5, and the keep mask (R147) -/
  | setmsk (m3 z3 m4 z4 m5 z5 keep : Nat)
  | spawn (q e : Nat)
  | tcall (rec xf tier nb nx : Nat)
  | tret
  | finopen (d : Nat)
  | finwait (f : Nat)
  | trap (n : Nat)
  | svc (n : Nat)
  | eret
  | mfs (d r : Nat)
  | mts (s r : Nat)
  | halt
  | hdr (sla exa slb exb slc exc : Nat)
  -- S class (R58)
  | mov (d : Nat) (nb : Bool) (a : Src)
  | movi (d : Nat) (i : Int)
  | movhi (d : Nat) (i : Int)
  | add (d : Nat) (nb : Bool) (a b : Src)
  | addi (d : Nat) (a : Src) (i : Int)
  | sub (d : Nat) (nb : Bool) (a b : Src)
  | mul (d : Nat) (nb : Bool) (a b : Src)
  | mulh (d : Nat) (nb : Bool) (a b : Src) (m : Nat)
  | div (d : Nat) (nb : Bool) (a b : Src) (m : Nat)
  | rem (d : Nat) (nb : Bool) (a b : Src) (m : Nat)
  | and (d : Nat) (nb : Bool) (a b : Src)
  | or (d : Nat) (nb : Bool) (a b : Src)
  | xor (d : Nat) (nb : Bool) (a b : Src)
  | andn (d : Nat) (nb : Bool) (a b : Src)
  | shl (d : Nat) (nb : Bool) (a b : Src)
  | shr (d : Nat) (nb : Bool) (a b : Src)
  | sar (d : Nat) (nb : Bool) (a b : Src)
  | clz (d : Nat) (nb : Bool) (a : Src)
  | popc (d : Nat) (nb : Bool) (a : Src)
  | bfx (d : Nat) (nb : Bool) (a b : Src) (m : Nat)
  | bfi (d : Nat) (nb : Bool) (a b : Src)
  | min (d : Nat) (nb : Bool) (a b : Src) (m : Nat)
  | max (d : Nat) (nb : Bool) (a b : Src) (m : Nat)
  | cmp (d : Nat) (nb : Bool) (a b : Src) (m : Nat)
  | sel (d : Nat) (nb : Bool) (a b : Src)
  | fadd (d : Nat) (nb : Bool) (a b : Src) (m : Nat)
  | fmul (d : Nat) (nb : Bool) (a b : Src) (m : Nat)
  | ffma (d : Nat) (nb : Bool) (a b : Src) (m : Nat)
  | fcmp (d : Nat) (nb : Bool) (a b : Src)
  /-- `s` is the conversion selector of R141 -/
  | fcvt (d : Nat) (nb : Bool) (a : Src) (s m : Nat)
  -- F class (R60)
  | fexp2 (d : Nat) (nb : Bool) (a : Src)
  | flog2 (d : Nat) (nb : Bool) (a : Src)
  | frcp (d : Nat) (nb : Bool) (a : Src)
  | frsq (d : Nat) (nb : Bool) (a : Src)
  | fsqrt (d : Nat) (nb : Bool) (a : Src)
  | fsin (d : Nat) (nb : Bool) (a : Src)
  | fcos (d : Nat) (nb : Bool) (a : Src)
  | ftanh (d : Nat) (nb : Bool) (a : Src)
  | fsigm (d : Nat) (nb : Bool) (a : Src)
  | fdiv (d : Nat) (nb : Bool) (a b : Src)
  -- V class (R61)
  | vadd (d : Nat) (nb : Bool) (a b : Src) (w : Nat)
  | vsub (d : Nat) (nb : Bool) (a b : Src) (w : Nat)
  | vmul (d : Nat) (nb : Bool) (a b : Src) (w : Nat)
  | vfma (d : Nat) (nb : Bool) (a b : Src) (w : Nat)
  | vfnma (d : Nat) (nb : Bool) (a b : Src) (w : Nat)
  | vmin (d : Nat) (nb : Bool) (a b : Src) (w : Nat)
  | vmax (d : Nat) (nb : Bool) (a b : Src) (w : Nat)
  | vabs (d : Nat) (nb : Bool) (a : Src) (w : Nat)
  | vneg (d : Nat) (nb : Bool) (a : Src) (w : Nat)
  | vand (d : Nat) (nb : Bool) (a b : Src) (w : Nat)
  | vor (d : Nat) (nb : Bool) (a b : Src) (w : Nat)
  | vxor (d : Nat) (nb : Bool) (a b : Src) (w : Nat)
  | vandn (d : Nat) (nb : Bool) (a b : Src) (w : Nat)
  | vshl (d : Nat) (nb : Bool) (a b : Src) (w : Nat)
  | vshr (d : Nat) (nb : Bool) (a b : Src) (w : Nat)
  | vsar (d : Nat) (nb : Bool) (a b : Src) (w : Nat)
  /-- `c` is the condition and `p` the destination predicate (R66) -/
  | vcmp (c p : Nat) (nb : Bool) (a b : Src) (w : Nat)
  | vsel (d : Nat) (nb : Bool) (a b : Src) (w : Nat)
  | vmov (d : Nat) (nb : Bool) (a : Src) (w : Nat)
  | vbcast (d : Nat) (nb : Bool) (a : Src) (w : Nat)
  | vextr (d : Nat) (nb : Bool) (a b : Src) (w : Nat)
  | vins (d : Nat) (nb : Bool) (a b : Src) (w : Nat)
  | vpermz (d : Nat) (nb : Bool) (a b : Src) (w : Nat)
  | vrot (d : Nat) (nb : Bool) (a b : Src) (w : Nat)
  | viota (d : Nat) (nb : Bool) (a : Src) (w : Nat)
  | vredadd (d : Nat) (nb : Bool) (a : Src) (w : Nat)
  | vredmax (d : Nat) (nb : Bool) (a : Src) (w : Nat)
  | vredmin (d : Nat) (nb : Bool) (a : Src) (w : Nat)
  | vmaxi (d : Nat) (nb : Bool) (a : Src) (w : Nat)
  | vmini (d : Nat) (nb : Bool) (a : Src) (w : Nat)
  | vcvt (d : Nat) (nb : Bool) (a : Src) (w : Nat)
  | vqnt (d : Nat) (nb : Bool) (a b : Src) (w : Nat)
  | vperm (d : Nat) (nb : Bool) (a b : Src) (w : Nat)
  | vdqnt (d : Nat) (nb : Bool) (a b : Src) (w : Nat)
  | vpack (d : Nat) (nb : Bool) (a b : Src) (w : Nat)
  | vunpk (d : Nat) (nb : Bool) (a b : Src) (w : Nat)
  | vscale (d : Nat) (nb : Bool) (a b : Src) (w : Nat)
  | vclamp (d : Nat) (nb : Bool) (a b : Src) (w : Nat)
  | pand (d : Nat) (nb : Bool) (a b : Src)
  | por (d : Nat) (nb : Bool) (a b : Src)
  | pxor (d : Nat) (nb : Bool) (a b : Src)
  | pnot (d : Nat) (nb : Bool) (a : Src)
  | pcnt (d : Nat) (nb : Bool) (a : Src)
  /-- `c` is the count, 0 to 127 (R66, R161) -/
  | pset (d : Nat) (nb : Bool) (c : Nat)
  -- M class (R62)
  | ldw (bw xc wt : Nat)
  | ldws (bw br xc wt : Nat)
  | swpw
  | mma (t b xc xr ty : Nat)
  | mmaz (t b xc xr ty : Nat)
  | trd (t xs v : Nat)
  | twr (t xs v : Nat)
  | tst (t b xc xr ty : Nat)
  | tzero (t : Nat)
  | outer (t ba bb rt ty : Nat)
  -- L class (R63)
  | ld (d : Nat) (nb : Bool) (k c : Nat)
  | st (v k c : Nat)
  | vld (d : Nat) (nb : Bool) (k c w : Nat)
  | vst (v k c w : Nat)
  | vldx (d : Nat) (nb : Bool) (k : Nat) (i : Src) (w : Nat)
  | vstx (v k : Nat) (i : Src) (w : Nat)
  | ldt (d : Nat) (nb : Bool) (k c : Nat)
  | vldt (d : Nat) (nb : Bool) (k c w : Nat)
  | vldz (d : Nat) (nb : Bool) (k c w : Nat)
  | boxsub (mm d p s c : Nat)
  | boxinf (d : Nat) (nb : Bool) (k sel : Nat)
  /-- source 16 is "none" (R343) -/
  | boxmov (d s : Nat)
  | fence (scope m : Nat)
  | pub (a : Src)
  -- E class (R64)
  | cpy (bd bs xt tr ch cmp asap rm : Nat)
  | gath (bd bs bi : Nat)
  | scac (bh bi bv r op bin : Nat)
  | fold (bd bs dim rt v bin : Nat)
  | scan (bd bs dim rt v ex bc carry : Nat)
  | zip (bd ba bb rt v : Nat)
  | vrun (bv xp prog : Nat)
  | vstop (bv : Nat)
  | rbfill (n : Nat)
  | dlvset (bc xe xp xn : Nat)
  | dlvwait (bc xd : Nat)
  -- X class (R65)
  | send (ms peer b xc : Nat)
  | recv (ms peer b xc : Nat)
  | recvop (ms peer b xc op rt : Nat)
  | coll (bd bs bq sc bin rm : Nat)
  | ttarm (xb tt : Nat)
  | lsend (bd bs bc : Nat)
  | xstat (d sel port : Nat)
  -- vault commands (R70, R258); `g` is the gap
  | vaultHalt (g : Nat)
  | act (g pc bg bk row : Nat)
  | rd (g pc bg bk col pl u : Nat)
  | rda (g pc bg bk col pl u : Nat)
  | wr (g pc bg bk col pl u : Nat)
  | wra (g pc bg bk col pl u : Nat)
  | pre (g pc bg bk : Nat)
  | prea (g pc : Nat)
  | refpb (g pc bg bk : Nat)
  | refab (g pc : Nat)
  | wait (g n : Nat)
  | loop (g dist cnt : Nat)
  | jump (g tgt : Nat)
  | start (g dt : Nat)
  | vopen (g n : Nat)
  | tagw (g pl u : Nat)
  -- events of a core (`n` is the sequencer)
  | resultWriteback (n : Nat)
  | tileBusyClear (n : Nat)
  | weightFillComplete (n : Nat)
  | fmtShadowEnd (n : Nat)
  | maskSelectorUpdate (n : Nat)
  | zloopLevelExit (n : Nat)
  | waitcExpiry (n : Nat)
  | waittExpiry (n : Nat)
  | overrunFault (n : Nat)
  | trapEntry (n : Nat)
  -- far requests (`r` a request, `v` a vault)
  | farRequestArrival (r : Nat)
  | foreignRequestService (v : Nat)
  | farLdReply (r : Nat)
  -- engine operations (`o` an operation)
  | engineOpStart (o : Nat)
  | cpyDeparture (o : Nat)
  | cpyTransferEnd (o : Nat)
  | cpyCompletion (o : Nat)
  | gathCompletion (o : Nat)
  | scacCompletion (o : Nat)
  | routineOpCompletion (o : Nat)
  | rbfillWordWrite (n : Nat)
  -- vault programs
  | vrunArrival (o : Nat)
  | vaultProgramStart (v : Nat)
  | vstopArrival (v n : Nat)
  | vaultProgramEnd (v : Nat)
  | wrUnitRead (v : Nat)
  | platformDelivery (o : Nat)
  | refreshAccrual (v pc : Nat)
  | forcedRefresh (v pc : Nat)
  | insertedRefresh (v pc : Nat)
  | scrubRead (v pc bank row col : Nat)
  -- exchange
  | barrierResume (n level : Nat)
  | exchangeArrival (k : Nat)
  | ttOutEntry (n e : Nat)
  | ttFlitArrival (k : Nat)
  | ttEntryLate (n e : Nat)
  | ttEntryMissing (n e : Nat)
  | ttEnd (n : Nat)
  | lsendFlitDelivery (k : Nat)
  | lsendRetire (o : Nat)
  | dlvwaitRelease (n : Nat)
  | dlvwaitDeadline (n : Nat)
  | collDelivery (o : Nat)
  | linkFlitResend (port k : Nat)
  -- tasks (`y` a yard, `t` a task, `f` a scope)
  | yardDispatch (y : Nat)
  | taskStart (t : Nat)
  | reservation (y t : Nat)
  | preemptionRequest (y t : Nat)
  | contextSave (t : Nat)
  | contextRestore (t : Nat)
  | finwaitSuspend (t : Nat)
  | tretComplete (t : Nat)
  | outwardMerge (t : Nat)
  | scopeComplete (f : Nat)
  | taskFailure (t cause : Nat)
  | reExecution (t : Nat)
  -- host and supervisor
  | pubVersionWrite (o : Nat)
  | hostWindowAccess (ctx win write off : Nat)
  | correctedError (place addr bit : Nat)
  | uncorrectableSramError (n addr : Nat)
  | uncorrectableDramError (v addr : Nat)
  | xinvRemoval (slots : Nat)
  | xinvDone
  | tagvalWrite (n : Nat) (v : Word)
  | fenceBitWrite (r : Nat) (v : Word)
  | injectorArm (j : Nat) (v : Word)
  | crcstWrite (n : Nat) (v : Word)
  | ctimeWrite (n : Nat) (v : Word)
  | ctrimWrite (v : Word)
  | platformRegisterWrite (n j : Nat) (v : Word)
  | yctlWrite (j : Nat) (v : Word)
  | systemRegisterWrite (n r : Nat) (v : Word)
  | illegalCommand (v : Nat)
  | linkEvent (port : Nat)
  | farEndAcknowledgement (port k : Nat)
  | lsendReadCompletion (o : Nat)
  | thermalHoldRelease (temp : Nat)
  | droopStretch (level : Nat)
  -- what only the outside posts
  | frameRetry (port k : Nat)
  | ptpMessage (port t1 t2 t3 t4 : Nat)
  | lockLoss
  | mailboxEntry (k : Nat)
  | sensorRead (sensor : Nat)
  | stretchEnd
  | powerCapExceeded (watts : Nat)
  | powerCapClear (watts : Nat)
  | powerCapSet (watts : Nat)
  | thermalWarning (temp : Nat)
  | thermalHold (temp : Nat)
  | thermalTrip (temp : Nat)
  | sensorUpdate (sensor value : Nat)
  | firmwareUpdate (digest sig : Nat)
  | attestationReport (slot session : Nat)
  | keyInstall (slot session : Nat)
  | linkAttestation (port peer peerPort ok : Nat)
  | linkRekey (port : Nat)
  | imageAuthentication (slot image : Nat)
  | bringUp
  deriving DecidableEq, Repr

end Sys2Proof
end

