-- ==== Sys2Proof/WellFormed.lean ====
section
/-! DEFINITION. Which instructions the encodings can name: every field in its range,
every reserved value excluded (R34 to R45, R56 to R66, R258). -/

namespace Sys2Proof

/-- A source field of R42: a register 0 to 63 or a latch 1 to 7. -/
def Src.wf : Src → Bool
  | .reg n => n < 64
  | .lat k => 0 < k && k < 8

/-- A predicate source: registers 16 to 63 are illegal (R42). -/
def Src.wfPred : Src → Bool
  | .reg n => n < 16
  | .lat k => 0 < k && k < 8

/-- A destination with its nowb bit: nowb = 1 needs dest 0 (R43). -/
def wfReg (d : Nat) (nb : Bool) : Bool := d < 64 && (!nb || d == 0)

/-- A signed immediate of R44 with or without a header extension. -/
def wfImm (i : Int) : Bool := -16384 ≤ i && i < 16384

/-- The twelve element types have codes 0 to 11 (R104). -/
def wfType (t : Nat) : Bool := t < 12

/-- The fields of RD, RDA, WR and WRA (R258). -/
def wfCol (g pc bg bk col pl u : Nat) : Bool :=
  g < 32 && pc < 4 && bg < 4 && bk < 4 && col < 16 && pl < 8 && u < 512

/-- The whole check of an instruction. Events have no encoding and are always well formed. -/
def Instr.wf : Instr → Bool
  | .nop => true
  | .br t => t < 16384
  | .brc s c t => s < 64 && c < 6 && t < 16384
  | .brl d t => d < 64 && t < 16384
  | .brx s => s < 64
  | .zloop s e => s < 64 && e < 16384
  | .close => true
  | .waitc s n => s < 64 && n < 1048576
  | .waitt s => s < 64
  | .syncd l => l == 1 || l == 2 || l == 3 || l == 5
  | .setfmt s t => s < 64 && t < 16
  | .setmsk m3 z3 m4 z4 m5 z5 keep =>
      m3 < 16 && z3 < 2 && m4 < 16 && z4 < 2 && m5 < 16 && z5 < 2 && keep < 8 &&
      (keep % 2 == 0 || (m3 == 0 && z3 == 0)) &&
      (keep / 2 % 2 == 0 || (m4 == 0 && z4 == 0)) &&
      (keep / 4 % 2 == 0 || (m5 == 0 && z5 == 0))
  | .spawn q e => q < 4 && e < 16384
  | .tcall rec xf tier nb nx => rec < 1024 && xf < 64 && tier < 4 && nb < 9 && nx < 9
  | .tret => true
  | .finopen d => d < 64
  | .finwait f => f < 64
  | .trap n => n < 65536
  | .svc n => n < 65536
  | .eret => true
  | .mfs d r => d < 64 && r < 4096
  | .mts s r => s < 64 && r < 4096
  | .halt => true
  | .hdr sla exa slb exb slc exc => sla < 8 && exa < 32 && slb < 8 && exb < 32 && slc < 8 && exc < 32
  | .movi d i => d < 64 && wfImm i
  | .movhi d i => d < 64 && wfImm i
  | .addi d a i => d < 64 && a.wf && wfImm i
  | .fcvt d nb a s m => wfReg d nb && a.wf && s < 16 && m < 4
  | .add d nb a b => wfReg d nb && a.wf && b.wf
  | .sub d nb a b => wfReg d nb && a.wf && b.wf
  | .mul d nb a b => wfReg d nb && a.wf && b.wf
  | .mulh d nb a b m => wfReg d nb && a.wf && b.wf && m < 2
  | .div d nb a b m => wfReg d nb && a.wf && b.wf && m < 2
  | .rem d nb a b m => wfReg d nb && a.wf && b.wf && m < 2
  | .and d nb a b => wfReg d nb && a.wf && b.wf
  | .or d nb a b => wfReg d nb && a.wf && b.wf
  | .xor d nb a b => wfReg d nb && a.wf && b.wf
  | .andn d nb a b => wfReg d nb && a.wf && b.wf
  | .shl d nb a b => wfReg d nb && a.wf && b.wf
  | .shr d nb a b => wfReg d nb && a.wf && b.wf
  | .sar d nb a b => wfReg d nb && a.wf && b.wf
  | .bfx d nb a b m => wfReg d nb && a.wf && b.wf && m < 2
  | .bfi d nb a b => wfReg d nb && a.wf && b.wf
  | .min d nb a b m => wfReg d nb && a.wf && b.wf && m < 2
  | .max d nb a b m => wfReg d nb && a.wf && b.wf && m < 2
  | .cmp d nb a b m => wfReg d nb && a.wf && b.wf && m < 2
  | .sel d nb a b => wfReg d nb && a.wf && b.wf
  | .fadd d nb a b m => wfReg d nb && a.wf && b.wf && m < 4
  | .fmul d nb a b m => wfReg d nb && a.wf && b.wf && m < 4
  | .ffma d nb a b m => wfReg d nb && a.wf && b.wf && m < 4
  | .fcmp d nb a b => wfReg d nb && a.wf && b.wf
  | .mov d nb a => wfReg d nb && a.wf
  | .clz d nb a => wfReg d nb && a.wf
  | .popc d nb a => wfReg d nb && a.wf
  | .fexp2 d nb a => wfReg d nb && a.wf
  | .flog2 d nb a => wfReg d nb && a.wf
  | .frcp d nb a => wfReg d nb && a.wf
  | .frsq d nb a => wfReg d nb && a.wf
  | .fsqrt d nb a => wfReg d nb && a.wf
  | .fsin d nb a => wfReg d nb && a.wf
  | .fcos d nb a => wfReg d nb && a.wf
  | .ftanh d nb a => wfReg d nb && a.wf
  | .fsigm d nb a => wfReg d nb && a.wf
  | .fdiv d nb a b => wfReg d nb && a.wf && b.wf
  | .vadd d nb a b w => wfReg d nb && a.wf && b.wf && w < 3
  | .vsub d nb a b w => wfReg d nb && a.wf && b.wf && w < 3
  | .vmul d nb a b w => wfReg d nb && a.wf && b.wf && w < 3
  | .vfma d nb a b w => wfReg d nb && a.wf && b.wf && w < 3
  | .vfnma d nb a b w => wfReg d nb && a.wf && b.wf && w < 3
  | .vmin d nb a b w => wfReg d nb && a.wf && b.wf && w < 3
  | .vmax d nb a b w => wfReg d nb && a.wf && b.wf && w < 3
  | .vand d nb a b w => wfReg d nb && a.wf && b.wf && w < 3
  | .vor d nb a b w => wfReg d nb && a.wf && b.wf && w < 3
  | .vxor d nb a b w => wfReg d nb && a.wf && b.wf && w < 3
  | .vandn d nb a b w => wfReg d nb && a.wf && b.wf && w < 3
  | .vshl d nb a b w => wfReg d nb && a.wf && b.wf && w < 3
  | .vshr d nb a b w => wfReg d nb && a.wf && b.wf && w < 3
  | .vsar d nb a b w => wfReg d nb && a.wf && b.wf && w < 3
  | .vsel d nb a b w => wfReg d nb && a.wf && b.wf && w < 3
  | .vextr d nb a b w => wfReg d nb && a.wf && b.wf && w < 3
  | .vins d nb a b w => wfReg d nb && a.wf && b.wf && w < 3
  | .vpermz d nb a b w => wfReg d nb && a.wf && b.wf && w < 3
  | .vrot d nb a b w => wfReg d nb && a.wf && b.wf && w < 3
  | .vqnt d nb a b w => wfReg d nb && a.wf && b.wf && w < 3
  | .vperm d nb a b w => wfReg d nb && a.wf && b.wf && w < 3
  | .vdqnt d nb a b w => wfReg d nb && a.wf && b.wf && w < 3
  | .vpack d nb a b w => wfReg d nb && a.wf && b.wf && w < 3
  | .vunpk d nb a b w => wfReg d nb && a.wf && b.wf && w < 3
  | .vscale d nb a b w => wfReg d nb && a.wf && b.wf && w < 3
  | .vclamp d nb a b w => wfReg d nb && a.wf && b.wf && w < 3
  | .vabs d nb a w => wfReg d nb && a.wf && w < 3
  | .vneg d nb a w => wfReg d nb && a.wf && w < 3
  | .vmov d nb a w => wfReg d nb && a.wf && w < 3
  | .vbcast d nb a w => wfReg d nb && a.wf && w < 3
  | .viota d nb a w => wfReg d nb && a.wf && w < 3
  | .vredadd d nb a w => wfReg d nb && a.wf && w < 3
  | .vredmax d nb a w => wfReg d nb && a.wf && w < 3
  | .vredmin d nb a w => wfReg d nb && a.wf && w < 3
  | .vmaxi d nb a w => wfReg d nb && a.wf && w < 3
  | .vmini d nb a w => wfReg d nb && a.wf && w < 3
  | .vcvt d nb a w => wfReg d nb && a.wf && w < 3
  | .vcmp c p nb a b w => c < 4 && p < 16 && (!nb || (c == 0 && p == 0)) && a.wf && b.wf && w < 3
  | .pand d nb a b => d < 16 && wfReg d nb && a.wfPred && b.wfPred
  | .por d nb a b => d < 16 && wfReg d nb && a.wfPred && b.wfPred
  | .pxor d nb a b => d < 16 && wfReg d nb && a.wfPred && b.wfPred
  | .pnot d nb a => d < 16 && wfReg d nb && a.wfPred
  | .pcnt d nb a => wfReg d nb && a.wfPred
  | .pset d nb c => d < 16 && wfReg d nb && c < 128
  | .ldw bw xc wt => bw < 16 && xc < 64 && wfType wt
  | .ldws bw rb xc wt => bw < 16 && rb < 16 && xc < 64 && wfType wt
  | .swpw => true
  | .mma t b xc xr ty => t < 8 && b < 16 && xc < 64 && xr < 64 && wfType ty
  | .mmaz t b xc xr ty => t < 8 && b < 16 && xc < 64 && xr < 64 && wfType ty
  | .trd t xs v => t < 8 && xs < 64 && v < 64
  | .twr t xs v => t < 8 && xs < 64 && v < 64
  | .tst t b xc xr ty => t < 8 && b < 16 && xc < 64 && xr < 64 && wfType ty
  | .tzero t => t < 8
  | .outer t ba bb rt ty => t < 8 && ba < 16 && bb < 16 && rt < 64 && ty < 16
  | .ld d nb k c => wfReg d nb && k < 16 && c < 64
  | .st v k c => v < 64 && k < 16 && c < 64
  | .vld d nb k c w => wfReg d nb && k < 16 && c < 64 && w < 3
  | .vst v k c w => v < 64 && k < 16 && c < 64 && w < 3
  | .vldx d nb k i w => wfReg d nb && k < 16 && i.wf && w < 3
  | .vstx v k i w => v < 64 && k < 16 && i.wf && w < 3
  | .ldt d nb k c => wfReg d nb && k < 16 && c < 64
  | .vldt d nb k c w => wfReg d nb && k < 16 && c < 64 && w < 3
  | .vldz d nb k c w => wfReg d nb && k < 16 && c < 64 && w < 3
  | .boxsub mm d p s c => mm < 4 && d < 16 && p < 2 && s < 16 && c < 64
  | .boxinf d nb k sl => wfReg d nb && k < 16 && (sl < 7 || (9 ≤ sl && sl < 15) || sl == 16)
  | .boxmov d s => d < 16 && s < 17
  | .fence scope m => scope < 7 && m < 3
  | .pub a => a.wf
  | .cpy bd bs xt tr ch cm asap rm =>
      bd < 16 && bs < 16 && xt < 64 && tr < 9 && ch < 2 && cm < 2 && asap < 2 && rm < 5 &&
      (cm == 0 || tr == 7) && (rm == 0 || tr == 1 || tr == 2) &&
      (xt < 63 || (cm == 0 && tr != 8))
  | .gath bd bs bi => bd < 16 && bs < 16 && bi < 16
  | .scac bh bi bv r op bin =>
      bh < 16 && bi < 16 && bv < 16 && r < 64 && op < 6 && bin < 2 && (bin == 0 || op == 0) &&
      (op == 5 || ((op == 3 || op == 4) && r % 4 == 0) || r == 0)
  | .fold bd bs dim rt v bin => bd < 16 && bs < 16 && dim < 8 && rt < 64 && v < 2 && bin < 2
  | .scan bd bs dim rt v ex bc carry =>
      bd < 16 && bs < 16 && dim < 8 && rt < 64 && v < 2 && ex < 2 && bc < 16 && carry < 2 &&
      (carry == 1 || bc == 0)
  | .zip bd ba bb rt v => bd < 16 && ba < 16 && bb < 16 && rt < 64 && v < 2
  | .vrun bv xp prog => bv < 16 && xp < 63 && prog < 4096
  | .vstop bv => bv < 16
  | .rbfill n => 0 < n && n < 17
  | .dlvset bc xe xp xn => bc < 16 && xe < 64 && xp < 64 && xn < 64
  | .dlvwait bc xd => bc < 16 && xd < 64
  | .send ms peer b xc => ms < 2 && peer < 64 && (ms == 1 || peer < 4) && b < 16 && xc < 64
  | .recv ms peer b xc => ms < 2 && peer < 64 && (ms == 1 || peer < 4) && b < 16 && xc < 64
  | .recvop ms peer b xc op rt =>
      ms < 2 && peer < 64 && (ms == 1 || peer < 4) && b < 16 && xc < 64 && op < 4 && rt < 64 &&
      (op == 3 || rt == 0)
  | .coll bd bs bq sc bin rm =>
      bd < 16 && bs < 16 && bq < 16 && (sc == 1 || sc == 2 || sc == 3 || sc == 5 || sc == 6) &&
      bin < 2 && rm < 5
  | .ttarm xb tt => xb < 64 && tt < 4096
  | .lsend bd bs bc => bd < 16 && bs < 16 && bc < 16
  | .xstat d sl port => d < 64 && sl < 4 && port < 16 && (sl == 3 || port == 0)
  | .vaultHalt g => g < 32
  | .act g pc bg bk row => g < 32 && pc < 4 && bg < 4 && bk < 4 && row < 32768
  | .rd g pc bg bk col pl u => wfCol g pc bg bk col pl u
  | .rda g pc bg bk col pl u => wfCol g pc bg bk col pl u
  | .wr g pc bg bk col pl u => wfCol g pc bg bk col pl u
  | .wra g pc bg bk col pl u => wfCol g pc bg bk col pl u
  | .pre g pc bg bk => g < 32 && pc < 4 && bg < 4 && bk < 4
  | .prea g pc => g < 32 && pc < 4
  | .refpb g pc bg bk => g < 32 && pc < 4 && bg < 4 && bk < 4
  | .refab g pc => g < 32 && pc < 4
  | .wait g n => g < 32 && n < 4194304
  | .loop g dist cnt => g < 32 && dist < 1024 && cnt < 4096
  | .jump g tgt => g < 32 && tgt < 4096
  | .start g dt => g < 32 && dt < 4194304
  | .vopen g n => g < 32 && n < 4194304
  | .tagw g pl u => g < 32 && pl < 8 && u < 512
  | .resultWriteback _ => true
  | .tileBusyClear _ => true
  | .weightFillComplete _ => true
  | .fmtShadowEnd _ => true
  | .maskSelectorUpdate _ => true
  | .zloopLevelExit _ => true
  | .waitcExpiry _ => true
  | .waittExpiry _ => true
  | .overrunFault _ => true
  | .trapEntry _ => true
  | .farRequestArrival _ => true
  | .foreignRequestService _ => true
  | .farLdReply _ => true
  | .engineOpStart _ => true
  | .cpyDeparture _ => true
  | .cpyTransferEnd _ => true
  | .cpyCompletion _ => true
  | .gathCompletion _ => true
  | .scacCompletion _ => true
  | .routineOpCompletion _ => true
  | .rbfillWordWrite _ => true
  | .vrunArrival _ => true
  | .vaultProgramStart _ => true
  | .vstopArrival _ _ => true
  | .vaultProgramEnd _ => true
  | .wrUnitRead _ => true
  | .platformDelivery _ => true
  | .refreshAccrual _ _ => true
  | .forcedRefresh _ _ => true
  | .insertedRefresh _ _ => true
  | .scrubRead _ _ _ _ _ => true
  | .barrierResume _ _ => true
  | .exchangeArrival _ => true
  | .ttOutEntry _ _ => true
  | .ttFlitArrival _ => true
  | .ttEntryLate _ _ => true
  | .ttEntryMissing _ _ => true
  | .ttEnd _ => true
  | .lsendFlitDelivery _ => true
  | .lsendRetire _ => true
  | .dlvwaitRelease _ => true
  | .dlvwaitDeadline _ => true
  | .collDelivery _ => true
  | .linkFlitResend _ _ => true
  | .frameRetry _ _ => true
  | .ptpMessage _ _ _ _ _ => true
  | .lockLoss => true
  | .yardDispatch _ => true
  | .taskStart _ => true
  | .reservation _ _ => true
  | .preemptionRequest _ _ => true
  | .contextSave _ => true
  | .contextRestore _ => true
  | .finwaitSuspend _ => true
  | .tretComplete _ => true
  | .outwardMerge _ => true
  | .scopeComplete _ => true
  | .taskFailure _ _ => true
  | .reExecution _ => true
  | .mailboxEntry _ => true
  | .pubVersionWrite _ => true
  | .hostWindowAccess _ _ _ _ => true
  | .correctedError _ _ _ => true
  | .uncorrectableSramError _ _ => true
  | .uncorrectableDramError _ _ => true
  | .droopStretch _ => true
  | .stretchEnd => true
  | .powerCapExceeded _ => true
  | .powerCapClear _ => true
  | .powerCapSet _ => true
  | .thermalWarning _ => true
  | .thermalHold _ => true
  | .thermalTrip _ => true
  | .sensorUpdate _ _ => true
  | .firmwareUpdate _ _ => true
  | .attestationReport _ _ => true
  | .keyInstall _ _ => true
  | .linkAttestation _ _ _ _ => true
  | .linkRekey _ => true
  | .imageAuthentication _ _ => true
  | .bringUp => true
  | .xinvRemoval _ => true
  | .xinvDone => true
  | .tagvalWrite _ _ => true
  | .fenceBitWrite _ _ => true
  | .injectorArm _ _ => true
  | .crcstWrite _ _ => true
  | .ctimeWrite _ _ => true
  | .ctrimWrite _ => true
  | .platformRegisterWrite _ _ _ => true
  | .yctlWrite _ _ => true
  | .systemRegisterWrite _ _ _ => true
  | .illegalCommand _ => true
  | .linkEvent _ => true
  | .farEndAcknowledgement _ _ => true
  | .lsendReadCompletion _ => true
  | .thermalHoldRelease _ => true
  | .sensorRead _ => true

end Sys2Proof
end

