-- ==== Sys2Proof/Decode.lean ====
section
/-! DEFINITION. Decoding slot words and vault command words, total and rejecting by name,
and the encoder written from the same tables (R34, R38, R41 to R45, R56 to R66, R258). -/

namespace Sys2Proof

/-- Bits lo + len - 1 to lo of a number. -/
def bitsOf (w lo len : Nat) : Nat := w / 2 ^ lo % 2 ^ len

/-- Why a word is refused; the names of R69's first reasons. -/
inductive Bad where
  /-- reason 0x1 -/
  | reservedOpcode
  /-- reason 0x2 -/
  | unusedField
  /-- reason 0x3 -/
  | badModifier
  /-- reason 0x9: a header that breaks R39 -/
  | badHeader
  deriving DecidableEq, Repr

/-- The reason code of R69. -/
def Bad.code : Bad → Nat
  | .reservedOpcode => 1
  | .unusedField => 2
  | .badModifier => 3
  | .badHeader => 9

/-- The operand a 7-bit source field selects (R42). -/
def srcOf (f : Nat) : Option Src :=
  if f < 64 then some (.reg f) else if 64 < f && f < 72 then some (.lat (f - 64)) else none

/-- A predicate source: registers 16 to 63 are refused (R42). -/
def predOf (f : Nat) : Option Src :=
  if f < 16 then some (.reg f) else if 64 < f && f < 72 then some (.lat (f - 64)) else none

/-- The 7-bit field of a source. -/
def Src.enc : Src → Nat
  | .reg n => n
  | .lat k => 64 + k

/-- The register format of R41. -/
structure RegF where
  d : Nat
  nb : Bool
  a : Nat
  b : Nat
  m : Nat

/-- The fields of a register-format word. -/
def regF (w : Nat) : RegF where
  d := bitsOf w 17 6
  nb := bitsOf w 16 1 == 1
  a := bitsOf w 9 7
  b := bitsOf w 2 7
  m := bitsOf w 0 2

/-- R43: nowb = 1 needs dest 0. -/
def RegF.destOk (f : RegF) : Bool := !f.nb || f.d == 0

/-- Refuse with a name unless the field and then the mod conditions hold (R69: the lowest reason). -/
def guardWord (fieldsOk modOk : Bool) (i : Instr) : Except Bad Instr :=
  if !fieldsOk then .error .unusedField else if !modOk then .error .badModifier else .ok i

/-- Two sources and `mods` legal mod values. -/
def two (f : RegF) (mods : Nat) (k : Src → Src → Nat → Instr) : Except Bad Instr :=
  match srcOf f.a, srcOf f.b with
  | some a, some b => guardWord f.destOk (f.m < mods) (k a b f.m)
  | _, _ => .error .unusedField

/-- One source, srcB zero (R42). -/
def one (f : RegF) (mods : Nat) (k : Src → Nat → Instr) : Except Bad Instr :=
  match srcOf f.a with
  | some a => guardWord (f.destOk && f.b == 0) (f.m < mods) (k a f.m)
  | none => .error .unusedField

/-- Sign extension of a field of `len` bits. -/
def sextOf (len v : Nat) : Int := if v < 2 ^ (len - 1) then (v : Int) else (v : Int) - 2 ^ len

/-- The immediate of R44: 10 bits, or 15 with a header extension (R38). -/
def immOf (w : Nat) (ext : Option Nat) : Int :=
  match ext with
  | none => sextOf 10 (bitsOf w 0 10)
  | some e => sextOf 15 (e % 32 * 1024 + bitsOf w 0 10)

/-- Control-slot words (R34, R56). -/
def decodeControl (w : Nat) : Except Bad Instr :=
  let t := bitsOf w 0 14
  let s := bitsOf w 20 6
  match bitsOf w 26 6 with
  | 0 => guardWord (w % 67108864 == 0) true .nop
  | 1 => guardWord (bitsOf w 14 12 == 0) true (.br t)
  | 2 => guardWord (bitsOf w 14 3 == 0) (bitsOf w 17 3 < 6) (.brc s (bitsOf w 17 3) t)
  | 3 => guardWord (bitsOf w 14 6 == 0) true (.brl s t)
  | 4 => guardWord (bitsOf w 0 20 == 0) true (.brx s)
  | 5 => guardWord (bitsOf w 14 6 == 0) true (.zloop s t)
  | 6 => guardWord (w % 67108864 == 0) true .close
  | 7 => .ok (.waitc s (bitsOf w 0 20))
  | 8 => guardWord (bitsOf w 0 20 == 0) true (.waitt s)
  | 9 =>
    let l := bitsOf w 23 3
    guardWord (bitsOf w 0 23 == 0) (l == 1 || l == 2 || l == 3 || l == 5) (.syncd l)
  | 10 => guardWord (bitsOf w 0 16 == 0) true (.setfmt s (bitsOf w 16 4))
  | 11 =>
    let m3 := bitsOf w 22 4
    let z3 := bitsOf w 21 1
    let m4 := bitsOf w 17 4
    let z4 := bitsOf w 16 1
    let m5 := bitsOf w 12 4
    let z5 := bitsOf w 11 1
    let k := bitsOf w 0 3
    guardWord (bitsOf w 3 8 == 0 && (k % 2 == 0 || (m3 == 0 && z3 == 0)) &&
      (k / 2 % 2 == 0 || (m4 == 0 && z4 == 0)) && (k / 4 % 2 == 0 || (m5 == 0 && z5 == 0))) true
      (.setmsk m3 z3 m4 z4 m5 z5 k)
  | 12 => guardWord (bitsOf w 14 10 == 0) true (.spawn (bitsOf w 24 2) t)
  | 13 => guardWord (bitsOf w 4 4 < 9 && bitsOf w 0 4 < 9) true
      (.tcall (bitsOf w 16 10) (bitsOf w 10 6) (bitsOf w 8 2) (bitsOf w 4 4) (bitsOf w 0 4))
  | 14 => guardWord (w % 67108864 == 0) true .tret
  | 15 => guardWord (bitsOf w 0 20 == 0) true (.finopen s)
  | 16 => guardWord (bitsOf w 0 20 == 0) true (.finwait s)
  | 17 => guardWord (bitsOf w 0 10 == 0) true (.trap (bitsOf w 10 16))
  | 18 => guardWord (bitsOf w 0 10 == 0) true (.svc (bitsOf w 10 16))
  | 19 => guardWord (w % 67108864 == 0) true .eret
  | 20 => guardWord (bitsOf w 0 8 == 0) true (.mfs s (bitsOf w 8 12))
  | 21 => guardWord (bitsOf w 0 8 == 0) true (.mts s (bitsOf w 8 12))
  | 62 => guardWord (w % 67108864 == 0) true .halt
  | 63 => if bitsOf w 24 2 == 0 then
      .ok (.hdr (bitsOf w 21 3) (bitsOf w 16 5) (bitsOf w 13 3) (bitsOf w 8 5) (bitsOf w 5 3) (bitsOf w 0 5))
    else .error .badHeader
  | _ => .error .reservedOpcode

/-- S-class words (R58). -/
def decodeS (w : Nat) (ext : Option Nat) : Except Bad Instr :=
  let f := regF w
  match bitsOf w 23 6 with
  | 1 => guardWord (bitsOf w 10 7 == 0) true (.movi f.d (immOf w ext))
  | 2 => guardWord (bitsOf w 10 7 == 0) true (.movhi f.d (immOf w ext))
  | 4 => match srcOf (bitsOf w 10 7) with
    | some a => .ok (.addi f.d a (immOf w ext))
    | none => .error .unusedField
  | 0x1D => match srcOf f.a with
    | some a => guardWord (f.destOk && f.b < 16) true (.fcvt f.d f.nb a f.b f.m)
    | none => .error .unusedField
  | 0 => one f 1 (fun a _ => .mov f.d f.nb a)
  | 3 => two f 1 (fun a b _ => .add f.d f.nb a b)
  | 5 => two f 1 (fun a b _ => .sub f.d f.nb a b)
  | 6 => two f 1 (fun a b _ => .mul f.d f.nb a b)
  | 7 => two f 2 (.mulh f.d f.nb)
  | 8 => two f 2 (.div f.d f.nb)
  | 9 => two f 2 (.rem f.d f.nb)
  | 10 => two f 1 (fun a b _ => .and f.d f.nb a b)
  | 11 => two f 1 (fun a b _ => .or f.d f.nb a b)
  | 12 => two f 1 (fun a b _ => .xor f.d f.nb a b)
  | 13 => two f 1 (fun a b _ => .andn f.d f.nb a b)
  | 14 => two f 1 (fun a b _ => .shl f.d f.nb a b)
  | 15 => two f 1 (fun a b _ => .shr f.d f.nb a b)
  | 16 => two f 1 (fun a b _ => .sar f.d f.nb a b)
  | 17 => one f 1 (fun a _ => .clz f.d f.nb a)
  | 18 => one f 1 (fun a _ => .popc f.d f.nb a)
  | 19 => two f 2 (.bfx f.d f.nb)
  | 20 => two f 1 (fun a b _ => .bfi f.d f.nb a b)
  | 21 => two f 2 (.min f.d f.nb)
  | 22 => two f 2 (.max f.d f.nb)
  | 23 => two f 2 (.cmp f.d f.nb)
  | 24 => two f 1 (fun a b _ => .sel f.d f.nb a b)
  | 25 => two f 4 (.fadd f.d f.nb)
  | 26 => two f 4 (.fmul f.d f.nb)
  | 27 => two f 4 (.ffma f.d f.nb)
  | 28 => two f 1 (fun a b _ => .fcmp f.d f.nb a b)
  | _ => .error .reservedOpcode

/-- F-class words (R60). -/
def decodeF (w : Nat) : Except Bad Instr :=
  let f := regF w
  match bitsOf w 23 6 with
  | 0 => one f 1 (fun a _ => .fexp2 f.d f.nb a)
  | 1 => one f 1 (fun a _ => .flog2 f.d f.nb a)
  | 2 => one f 1 (fun a _ => .frcp f.d f.nb a)
  | 3 => one f 1 (fun a _ => .frsq f.d f.nb a)
  | 4 => one f 1 (fun a _ => .fsqrt f.d f.nb a)
  | 5 => one f 1 (fun a _ => .fsin f.d f.nb a)
  | 6 => one f 1 (fun a _ => .fcos f.d f.nb a)
  | 7 => one f 1 (fun a _ => .ftanh f.d f.nb a)
  | 8 => one f 1 (fun a _ => .fsigm f.d f.nb a)
  | 9 => two f 1 (fun a b _ => .fdiv f.d f.nb a b)
  | _ => .error .reservedOpcode

/-- A predicate operation's two sources (R42, R61). -/
def twoPred (f : RegF) (k : Src → Src → Instr) : Except Bad Instr :=
  match predOf f.a, predOf f.b with
  | some a, some b => guardWord (f.destOk && f.d < 16) (f.m == 0) (k a b)
  | _, _ => .error .unusedField

/-- V-class words (R61, R66). -/
def decodeV (w : Nat) : Except Bad Instr :=
  let f := regF w
  match bitsOf w 23 6 with
  | 16 => two f 3 (.vcmp (bitsOf w 21 2) (bitsOf w 17 4) f.nb)
  | 38 => twoPred f (.pand f.d f.nb)
  | 39 => twoPred f (.por f.d f.nb)
  | 40 => twoPred f (.pxor f.d f.nb)
  | 41 => match predOf f.a with
    | some a => guardWord (f.destOk && f.d < 16 && f.b == 0) (f.m == 0) (.pnot f.d f.nb a)
    | none => .error .unusedField
  | 42 => match predOf f.a with
    | some a => guardWord (f.destOk && f.b == 0) (f.m == 0) (.pcnt f.d f.nb a)
    | none => .error .unusedField
  | 43 => guardWord (f.destOk && f.d < 16 && f.a < 64 && f.b < 2) (f.m == 0) (.pset f.d f.nb (f.a + 64 * f.b))
  | 0 => two f 3 (.vadd f.d f.nb)
  | 1 => two f 3 (.vsub f.d f.nb)
  | 2 => two f 3 (.vmul f.d f.nb)
  | 3 => two f 3 (.vfma f.d f.nb)
  | 4 => two f 3 (.vfnma f.d f.nb)
  | 5 => two f 3 (.vmin f.d f.nb)
  | 6 => two f 3 (.vmax f.d f.nb)
  | 7 => one f 3 (.vabs f.d f.nb)
  | 8 => one f 3 (.vneg f.d f.nb)
  | 9 => two f 3 (.vand f.d f.nb)
  | 10 => two f 3 (.vor f.d f.nb)
  | 11 => two f 3 (.vxor f.d f.nb)
  | 12 => two f 3 (.vandn f.d f.nb)
  | 13 => two f 3 (.vshl f.d f.nb)
  | 14 => two f 3 (.vshr f.d f.nb)
  | 15 => two f 3 (.vsar f.d f.nb)
  | 17 => two f 3 (.vsel f.d f.nb)
  | 18 => one f 3 (.vmov f.d f.nb)
  | 19 => one f 3 (.vbcast f.d f.nb)
  | 20 => two f 3 (.vextr f.d f.nb)
  | 21 => two f 3 (.vins f.d f.nb)
  | 22 => two f 3 (.vpermz f.d f.nb)
  | 23 => two f 3 (.vrot f.d f.nb)
  | 24 => one f 3 (.viota f.d f.nb)
  | 25 => one f 3 (.vredadd f.d f.nb)
  | 26 => one f 3 (.vredmax f.d f.nb)
  | 27 => one f 3 (.vredmin f.d f.nb)
  | 28 => one f 3 (.vmaxi f.d f.nb)
  | 29 => one f 3 (.vmini f.d f.nb)
  | 30 => one f 3 (.vcvt f.d f.nb)
  | 31 => two f 3 (.vqnt f.d f.nb)
  | 32 => two f 3 (.vperm f.d f.nb)
  | 33 => two f 3 (.vdqnt f.d f.nb)
  | 34 => two f 3 (.vpack f.d f.nb)
  | 35 => two f 3 (.vunpk f.d f.nb)
  | 36 => two f 3 (.vscale f.d f.nb)
  | 37 => two f 3 (.vclamp f.d f.nb)
  | _ => .error .reservedOpcode

/-- M-class words (R165, R169, R175, R194). -/
def decodeM (w : Nat) : Except Bad Instr :=
  let t := bitsOf w 20 3
  let b := bitsOf w 16 4
  let c := bitsOf w 10 6
  let r := bitsOf w 4 6
  let y := bitsOf w 0 4
  match bitsOf w 23 6 with
  | 0 => guardWord (bitsOf w 0 9 == 0) (bitsOf w 9 4 < 12) (.ldw (bitsOf w 19 4) (bitsOf w 13 6) (bitsOf w 9 4))
  | 1 => guardWord (bitsOf w 0 5 == 0) (bitsOf w 5 4 < 12)
      (.ldws (bitsOf w 19 4) (bitsOf w 15 4) (bitsOf w 9 6) (bitsOf w 5 4))
  | 2 => guardWord (bitsOf w 0 23 == 0) true .swpw
  | 3 => guardWord true (y < 12) (.mma t b c r y)
  | 4 => guardWord true (y < 12) (.mmaz t b c r y)
  | 5 => guardWord (bitsOf w 0 8 == 0) true (.trd t (bitsOf w 14 6) (bitsOf w 8 6))
  | 6 => guardWord (bitsOf w 0 8 == 0) true (.twr t (bitsOf w 14 6) (bitsOf w 8 6))
  | 7 => guardWord true (y < 12) (.tst t b c r y)
  | 8 => guardWord (bitsOf w 0 20 == 0) true (.tzero t)
  -- a reserved TY of OUTER is an error of reason 0xB, found with its other format errors (R194)
  | 9 => guardWord (bitsOf w 0 2 == 0) true
      (.outer t (bitsOf w 16 4) (bitsOf w 12 4) (bitsOf w 6 6) (bitsOf w 2 4))
  | _ => .error .reservedOpcode

/-- L-class words (R63, R225, R339, R342, R343). -/
def decodeL (w : Nat) : Except Bad Instr :=
  let f := regF w
  let k := bitsOf w 9 4
  let kOk := f.a < 16
  let c := bitsOf w 2 6
  let cOk := f.b < 64
  match bitsOf w 23 6 with
  | 0 => guardWord (f.destOk && kOk && cOk) (f.m == 0) (.ld f.d f.nb k c)
  | 1 => guardWord (!f.nb && kOk && cOk) (f.m == 0) (.st f.d k c)
  | 2 => guardWord (f.destOk && kOk && cOk) (f.m < 3) (.vld f.d f.nb k c f.m)
  | 3 => guardWord (!f.nb && kOk && cOk) (f.m < 3) (.vst f.d k c f.m)
  | 4 => match srcOf f.b with
    | some i => guardWord (f.destOk && kOk) (f.m < 3) (.vldx f.d f.nb k i f.m)
    | none => .error .unusedField
  | 5 => match srcOf f.b with
    | some i => guardWord (!f.nb && kOk) (f.m < 3) (.vstx f.d k i f.m)
    | none => .error .unusedField
  | 6 => guardWord (f.destOk && kOk && cOk) (f.m == 0) (.ldt f.d f.nb k c)
  | 7 => guardWord (f.destOk && kOk && cOk) (f.m < 3) (.vldt f.d f.nb k c f.m)
  | 8 => guardWord (f.destOk && kOk && cOk) (f.m < 3) (.vldz f.d f.nb k c f.m)
  | 9 => guardWord (kOk && cOk) (f.m == 0) (.boxsub (bitsOf w 21 2) (bitsOf w 17 4) (bitsOf w 16 1) k c)
  | 10 => guardWord (f.destOk && kOk && (f.b < 7 || (9 ≤ f.b && f.b < 15) || f.b == 16)) (f.m == 0)
      (.boxinf f.d f.nb k f.b)
  | 11 => guardWord (f.d < 16 && !f.nb && f.a < 17 && f.b == 0) (f.m == 0) (.boxmov f.d f.a)
  -- R66's reserved mod is reason 0x2 (R69)
  | 12 => guardWord (f.d == 0 && !f.nb && f.b == 0 && f.a < 7 && f.m < 3) true (.fence f.a f.m)
  | 13 => match srcOf f.a with
    | some a => guardWord (f.d == 0 && !f.nb && f.b == 0) (f.m == 0) (.pub a)
    | none => .error .unusedField
  | _ => .error .reservedOpcode

/-- E-class words (R64), with CPY's rounding (R237) and SCAN's carry (R192) from the header. -/
def decodeE (w : Nat) (ext : Option Nat) : Except Bad Instr :=
  let d := bitsOf w 19 4
  let s := bitsOf w 15 4
  let e := ext.getD 0
  match bitsOf w 23 6 with
  | 0 =>
    let xt := bitsOf w 9 6
    let tr := bitsOf w 5 4
    let cmp := bitsOf w 3 1
    let rm := bitsOf e 0 3
    guardWord (bitsOf w 0 2 == 0 && bitsOf e 3 2 == 0 && (xt < 63 || (cmp == 0 && tr != 8)))
      (tr < 9 && rm < 5 && (cmp == 0 || tr == 7) && (rm == 0 || tr == 1 || tr == 2))
      (.cpy d s xt tr (bitsOf w 4 1) cmp (bitsOf w 2 1) rm)
  | 1 => guardWord (bitsOf w 0 11 == 0) true (.gath d s (bitsOf w 11 4))
  | 2 =>
    let r := bitsOf w 5 6
    let op := bitsOf w 2 3
    let bin := bitsOf w 1 1
    guardWord (bitsOf w 0 1 == 0 && (op == 5 || ((op == 3 || op == 4) && r % 4 == 0) || r == 0))
      (op < 6 && (bin == 0 || op == 0)) (.scac d s (bitsOf w 11 4) r op bin)
  | 3 => guardWord (bitsOf w 0 4 == 0) true
      (.fold d s (bitsOf w 12 3) (bitsOf w 6 6) (bitsOf w 5 1) (bitsOf w 4 1))
  | 4 =>
    let carry := bitsOf e 0 1
    let bc := bitsOf w 0 4
    guardWord (bitsOf e 1 4 == 0 && (carry == 1 || bc == 0)) true
      (.scan d s (bitsOf w 12 3) (bitsOf w 6 6) (bitsOf w 5 1) (bitsOf w 4 1) bc carry)
  | 5 => guardWord (bitsOf w 0 4 == 0) true (.zip d s (bitsOf w 11 4) (bitsOf w 5 6) (bitsOf w 4 1))
  | 6 => guardWord (bitsOf w 0 1 == 0 && bitsOf w 13 6 < 63) true (.vrun d (bitsOf w 13 6) (bitsOf w 1 12))
  | 7 => guardWord (bitsOf w 0 19 == 0) true (.vstop d)
  | 8 =>
    let n := bitsOf w 18 5
    guardWord (bitsOf w 0 18 == 0) (0 < n && n < 17) (.rbfill n)
  | 9 => guardWord (bitsOf w 0 1 == 0) true (.dlvset d (bitsOf w 13 6) (bitsOf w 7 6) (bitsOf w 1 6))
  | 10 => guardWord (bitsOf w 0 13 == 0) true (.dlvwait d (bitsOf w 13 6))
  | _ => .error .reservedOpcode

/-- X-class words (R65), with RECVOP's routine handle from the header (R313). -/
def decodeX (w : Nat) (ext : Option Nat) : Except Bad Instr :=
  let ms := bitsOf w 22 1
  let peer := bitsOf w 16 6
  let b := bitsOf w 12 4
  let xc := bitsOf w 6 6
  let peerOk := ms == 1 || peer < 4
  match bitsOf w 23 6 with
  | 0 => guardWord (peerOk && bitsOf w 0 6 == 0) true (.send ms peer b xc)
  | 1 => guardWord (peerOk && bitsOf w 0 6 == 0) true (.recv ms peer b xc)
  | 2 =>
    let op := bitsOf w 2 4
    let rt5 := bitsOf w 1 1
    guardWord (peerOk && bitsOf w 0 1 == 0 && (if op == 3 then ext.isSome else rt5 == 0)) (op < 4)
      (.recvop ms peer b xc op (if op == 3 then rt5 * 32 + ext.getD 0 % 32 else 0))
  | 3 =>
    let sc := bitsOf w 8 3
    let rm := bitsOf w 4 3
    guardWord (bitsOf w 0 4 == 0) ((sc == 1 || sc == 2 || sc == 3 || sc == 5 || sc == 6) && rm < 5)
      (.coll (bitsOf w 19 4) (bitsOf w 15 4) (bitsOf w 11 4) sc (bitsOf w 7 1) rm)
  | 4 => guardWord (bitsOf w 0 5 == 0) true (.ttarm (bitsOf w 17 6) (bitsOf w 5 12))
  | 5 => guardWord (bitsOf w 0 11 == 0) true (.lsend (bitsOf w 19 4) (bitsOf w 15 4) (bitsOf w 11 4))
  | 6 =>
    let sel := bitsOf w 13 4
    let port := bitsOf w 9 4
    guardWord (bitsOf w 0 9 == 0 && (sel == 3 || port == 0)) (sel < 4) (.xstat (bitsOf w 17 6) sel port)
  | _ => .error .reservedOpcode

/-- A word of slots 1 to 7 by its class (R40); the empty slot is no instruction. -/
def decodeSlot (w : Nat) (ext : Option Nat) : Except Bad Instr :=
  match bitsOf w 29 3 with
  | 1 => decodeS w ext
  | 2 => decodeV w
  | 3 => decodeF w
  | 4 => decodeM w
  | 5 => decodeL w
  | 6 => decodeE w ext
  | 7 => decodeX w ext
  | _ => .error .unusedField

/-- Which slot operations can receive a header extension (R38, R237, R192, R313), by class and opcode. -/
def takesExt (w : Nat) : Bool :=
  match bitsOf w 29 3, bitsOf w 23 6 with
  | 1, 1 => true
  | 1, 2 => true
  | 1, 4 => true
  | 6, 0 => true
  | 6, 4 => true
  | 7, 2 => bitsOf w 2 4 == 3
  | _, _ => false

/-- Vault command words (R70, R258). -/
def decodeVault (w : Nat) : Except Bad Instr :=
  let g := bitsOf w 22 5
  let pc := bitsOf w 20 2
  let bg := bitsOf w 18 2
  let bk := bitsOf w 16 2
  let col := bitsOf w 12 4
  let pl := bitsOf w 9 3
  let u := bitsOf w 0 9
  let n := bitsOf w 0 22
  match bitsOf w 27 5 with
  | 0 => guardWord (n == 0) true (.vaultHalt g)
  | 1 => guardWord (bitsOf w 15 1 == 0) true (.act g pc bg bk (bitsOf w 0 15))
  | 2 => .ok (.rd g pc bg bk col pl u)
  | 3 => .ok (.rda g pc bg bk col pl u)
  | 4 => .ok (.wr g pc bg bk col pl u)
  | 5 => .ok (.wra g pc bg bk col pl u)
  | 6 => guardWord (bitsOf w 0 16 == 0) true (.pre g pc bg bk)
  | 7 => guardWord (bitsOf w 0 20 == 0) true (.prea g pc)
  | 8 => guardWord (bitsOf w 0 16 == 0) true (.refpb g pc bg bk)
  | 9 => guardWord (bitsOf w 0 20 == 0) true (.refab g pc)
  | 10 => .ok (.wait g n)
  | 11 => .ok (.loop g (bitsOf w 12 10) (bitsOf w 0 12))
  | 12 => guardWord (bitsOf w 0 10 == 0) true (.jump g (bitsOf w 10 12))
  | 13 => .ok (.start g n)
  | 14 => .ok (.vopen g n)
  | 15 => guardWord (bitsOf w 0 10 == 0) true (.tagw g (bitsOf w 19 3) (bitsOf w 10 9))
  | _ => .error .reservedOpcode

/-- A control-slot word. -/
def encCtl (op lo : Nat) : Nat := op * 67108864 + lo

/-- A register-format word (R41). -/
def encReg (cls op d : Nat) (nb : Bool) (a b m : Nat) : Nat :=
  cls * 536870912 + op * 8388608 + d * 131072 + (if nb then 65536 else 0) + a * 512 + b * 4 + m

/-- A parameter-format word (R45). -/
def encPar (cls op lo : Nat) : Nat := cls * 536870912 + op * 8388608 + lo

/-- The 15-bit two's complement pattern of an immediate (R38). -/
def immBits (i : Int) : Nat := (i % 32768).toNat

/-- An immediate-format word and its header extension: none when ten bits hold the value (R44). -/
def encImm (op d a : Nat) (i : Int) : Nat × Option Nat :=
  (encPar 1 op (d * 131072 + a * 1024 + immBits i % 1024),
   if -512 ≤ i && i < 512 then none else some (immBits i / 1024))

/-- A vault command word. -/
def encVlt (cmd g lo : Nat) : Nat := cmd * 134217728 + g * 4194304 + lo

/-- The 22 low bits of RD, RDA, WR and WRA. -/
def encColumn (pc bg bk col pl u : Nat) : Nat :=
  pc * 1048576 + bg * 262144 + bk * 65536 + col * 4096 + pl * 512 + u

/-- An optional extension: written only when it is not zero. -/
def extOf (e : Nat) : Option Nat := if e == 0 then none else some e

/-- The word of a well-formed instruction and the header extension it needs; events have none. -/
def encode : Instr → Option (Nat × Option Nat)
  | .nop => some (encCtl 0 0, none)
  | .br t => some (encCtl 1 t, none)
  | .brc s c t => some (encCtl 2 (s * 1048576 + c * 131072 + t), none)
  | .brl d t => some (encCtl 3 (d * 1048576 + t), none)
  | .brx s => some (encCtl 4 (s * 1048576), none)
  | .zloop s e => some (encCtl 5 (s * 1048576 + e), none)
  | .close => some (encCtl 6 0, none)
  | .waitc s n => some (encCtl 7 (s * 1048576 + n), none)
  | .waitt s => some (encCtl 8 (s * 1048576), none)
  | .syncd l => some (encCtl 9 (l * 8388608), none)
  | .setfmt s t => some (encCtl 10 (s * 1048576 + t * 65536), none)
  | .setmsk m3 z3 m4 z4 m5 z5 keep =>
      some (encCtl 11 (m3 * 4194304 + z3 * 2097152 + m4 * 131072 + z4 * 65536 + m5 * 4096 + z5 * 2048 + keep), none)
  | .spawn q e => some (encCtl 12 (q * 16777216 + e), none)
  | .tcall rec xf tier nb nx => some (encCtl 13 (rec * 65536 + xf * 1024 + tier * 256 + nb * 16 + nx), none)
  | .tret => some (encCtl 14 0, none)
  | .finopen d => some (encCtl 15 (d * 1048576), none)
  | .finwait f => some (encCtl 16 (f * 1048576), none)
  | .trap n => some (encCtl 17 (n * 1024), none)
  | .svc n => some (encCtl 18 (n * 1024), none)
  | .eret => some (encCtl 19 0, none)
  | .mfs d r => some (encCtl 20 (d * 1048576 + r * 256), none)
  | .mts s r => some (encCtl 21 (s * 1048576 + r * 256), none)
  | .halt => some (encCtl 62 0, none)
  | .hdr sla exa slb exb slc exc =>
      some (encCtl 63 (sla * 2097152 + exa * 65536 + slb * 8192 + exb * 256 + slc * 32 + exc), none)
  | .movi d i => some (encImm 1 d 0 i)
  | .movhi d i => some (encImm 2 d 0 i)
  | .addi d a i => some (encImm 4 d a.enc i)
  | .fcvt d nb a s m => some (encReg 1 29 d nb a.enc s m, none)
  | .add d nb a b => some (encReg 1 3 d nb a.enc b.enc 0, none)
  | .sub d nb a b => some (encReg 1 5 d nb a.enc b.enc 0, none)
  | .mul d nb a b => some (encReg 1 6 d nb a.enc b.enc 0, none)
  | .mulh d nb a b m => some (encReg 1 7 d nb a.enc b.enc m, none)
  | .div d nb a b m => some (encReg 1 8 d nb a.enc b.enc m, none)
  | .rem d nb a b m => some (encReg 1 9 d nb a.enc b.enc m, none)
  | .and d nb a b => some (encReg 1 10 d nb a.enc b.enc 0, none)
  | .or d nb a b => some (encReg 1 11 d nb a.enc b.enc 0, none)
  | .xor d nb a b => some (encReg 1 12 d nb a.enc b.enc 0, none)
  | .andn d nb a b => some (encReg 1 13 d nb a.enc b.enc 0, none)
  | .shl d nb a b => some (encReg 1 14 d nb a.enc b.enc 0, none)
  | .shr d nb a b => some (encReg 1 15 d nb a.enc b.enc 0, none)
  | .sar d nb a b => some (encReg 1 16 d nb a.enc b.enc 0, none)
  | .bfx d nb a b m => some (encReg 1 19 d nb a.enc b.enc m, none)
  | .bfi d nb a b => some (encReg 1 20 d nb a.enc b.enc 0, none)
  | .min d nb a b m => some (encReg 1 21 d nb a.enc b.enc m, none)
  | .max d nb a b m => some (encReg 1 22 d nb a.enc b.enc m, none)
  | .cmp d nb a b m => some (encReg 1 23 d nb a.enc b.enc m, none)
  | .sel d nb a b => some (encReg 1 24 d nb a.enc b.enc 0, none)
  | .fadd d nb a b m => some (encReg 1 25 d nb a.enc b.enc m, none)
  | .fmul d nb a b m => some (encReg 1 26 d nb a.enc b.enc m, none)
  | .ffma d nb a b m => some (encReg 1 27 d nb a.enc b.enc m, none)
  | .fcmp d nb a b => some (encReg 1 28 d nb a.enc b.enc 0, none)
  | .mov d nb a => some (encReg 1 0 d nb a.enc 0 0, none)
  | .clz d nb a => some (encReg 1 17 d nb a.enc 0 0, none)
  | .popc d nb a => some (encReg 1 18 d nb a.enc 0 0, none)
  | .fexp2 d nb a => some (encReg 3 0 d nb a.enc 0 0, none)
  | .flog2 d nb a => some (encReg 3 1 d nb a.enc 0 0, none)
  | .frcp d nb a => some (encReg 3 2 d nb a.enc 0 0, none)
  | .frsq d nb a => some (encReg 3 3 d nb a.enc 0 0, none)
  | .fsqrt d nb a => some (encReg 3 4 d nb a.enc 0 0, none)
  | .fsin d nb a => some (encReg 3 5 d nb a.enc 0 0, none)
  | .fcos d nb a => some (encReg 3 6 d nb a.enc 0 0, none)
  | .ftanh d nb a => some (encReg 3 7 d nb a.enc 0 0, none)
  | .fsigm d nb a => some (encReg 3 8 d nb a.enc 0 0, none)
  | .fdiv d nb a b => some (encReg 3 9 d nb a.enc b.enc 0, none)
  | .vadd d nb a b w => some (encReg 2 0 d nb a.enc b.enc w, none)
  | .vsub d nb a b w => some (encReg 2 1 d nb a.enc b.enc w, none)
  | .vmul d nb a b w => some (encReg 2 2 d nb a.enc b.enc w, none)
  | .vfma d nb a b w => some (encReg 2 3 d nb a.enc b.enc w, none)
  | .vfnma d nb a b w => some (encReg 2 4 d nb a.enc b.enc w, none)
  | .vmin d nb a b w => some (encReg 2 5 d nb a.enc b.enc w, none)
  | .vmax d nb a b w => some (encReg 2 6 d nb a.enc b.enc w, none)
  | .vand d nb a b w => some (encReg 2 9 d nb a.enc b.enc w, none)
  | .vor d nb a b w => some (encReg 2 10 d nb a.enc b.enc w, none)
  | .vxor d nb a b w => some (encReg 2 11 d nb a.enc b.enc w, none)
  | .vandn d nb a b w => some (encReg 2 12 d nb a.enc b.enc w, none)
  | .vshl d nb a b w => some (encReg 2 13 d nb a.enc b.enc w, none)
  | .vshr d nb a b w => some (encReg 2 14 d nb a.enc b.enc w, none)
  | .vsar d nb a b w => some (encReg 2 15 d nb a.enc b.enc w, none)
  | .vsel d nb a b w => some (encReg 2 17 d nb a.enc b.enc w, none)
  | .vextr d nb a b w => some (encReg 2 20 d nb a.enc b.enc w, none)
  | .vins d nb a b w => some (encReg 2 21 d nb a.enc b.enc w, none)
  | .vpermz d nb a b w => some (encReg 2 22 d nb a.enc b.enc w, none)
  | .vrot d nb a b w => some (encReg 2 23 d nb a.enc b.enc w, none)
  | .vqnt d nb a b w => some (encReg 2 31 d nb a.enc b.enc w, none)
  | .vperm d nb a b w => some (encReg 2 32 d nb a.enc b.enc w, none)
  | .vdqnt d nb a b w => some (encReg 2 33 d nb a.enc b.enc w, none)
  | .vpack d nb a b w => some (encReg 2 34 d nb a.enc b.enc w, none)
  | .vunpk d nb a b w => some (encReg 2 35 d nb a.enc b.enc w, none)
  | .vscale d nb a b w => some (encReg 2 36 d nb a.enc b.enc w, none)
  | .vclamp d nb a b w => some (encReg 2 37 d nb a.enc b.enc w, none)
  | .vabs d nb a w => some (encReg 2 7 d nb a.enc 0 w, none)
  | .vneg d nb a w => some (encReg 2 8 d nb a.enc 0 w, none)
  | .vmov d nb a w => some (encReg 2 18 d nb a.enc 0 w, none)
  | .vbcast d nb a w => some (encReg 2 19 d nb a.enc 0 w, none)
  | .viota d nb a w => some (encReg 2 24 d nb a.enc 0 w, none)
  | .vredadd d nb a w => some (encReg 2 25 d nb a.enc 0 w, none)
  | .vredmax d nb a w => some (encReg 2 26 d nb a.enc 0 w, none)
  | .vredmin d nb a w => some (encReg 2 27 d nb a.enc 0 w, none)
  | .vmaxi d nb a w => some (encReg 2 28 d nb a.enc 0 w, none)
  | .vmini d nb a w => some (encReg 2 29 d nb a.enc 0 w, none)
  | .vcvt d nb a w => some (encReg 2 30 d nb a.enc 0 w, none)
  | .vcmp c p nb a b w => some (encReg 2 16 (c * 16 + p) nb a.enc b.enc w, none)
  | .pand d nb a b => some (encReg 2 38 d nb a.enc b.enc 0, none)
  | .por d nb a b => some (encReg 2 39 d nb a.enc b.enc 0, none)
  | .pxor d nb a b => some (encReg 2 40 d nb a.enc b.enc 0, none)
  | .pnot d nb a => some (encReg 2 41 d nb a.enc 0 0, none)
  | .pcnt d nb a => some (encReg 2 42 d nb a.enc 0 0, none)
  | .pset d nb c => some (encReg 2 43 d nb (c % 64) (c / 64) 0, none)
  | .ldw bw xc wt => some (encPar 4 0 (bw * 524288 + xc * 8192 + wt * 512), none)
  | .ldws bw br xc wt => some (encPar 4 1 (bw * 524288 + br * 32768 + xc * 512 + wt * 32), none)
  | .swpw => some (encPar 4 2 0, none)
  | .mma t b xc xr ty => some (encPar 4 3 (t * 1048576 + b * 65536 + xc * 1024 + xr * 16 + ty), none)
  | .mmaz t b xc xr ty => some (encPar 4 4 (t * 1048576 + b * 65536 + xc * 1024 + xr * 16 + ty), none)
  | .trd t xs v => some (encPar 4 5 (t * 1048576 + xs * 16384 + v * 256), none)
  | .twr t xs v => some (encPar 4 6 (t * 1048576 + xs * 16384 + v * 256), none)
  | .tst t b xc xr ty => some (encPar 4 7 (t * 1048576 + b * 65536 + xc * 1024 + xr * 16 + ty), none)
  | .tzero t => some (encPar 4 8 (t * 1048576), none)
  | .outer t ba bb rt ty => some (encPar 4 9 (t * 1048576 + ba * 65536 + bb * 4096 + rt * 64 + ty * 4), none)
  | .ld d nb k c => some (encReg 5 0 d nb k c 0, none)
  | .st v k c => some (encReg 5 1 v false k c 0, none)
  | .vld d nb k c w => some (encReg 5 2 d nb k c w, none)
  | .vst v k c w => some (encReg 5 3 v false k c w, none)
  | .vldx d nb k i w => some (encReg 5 4 d nb k i.enc w, none)
  | .vstx v k i w => some (encReg 5 5 v false k i.enc w, none)
  | .ldt d nb k c => some (encReg 5 6 d nb k c 0, none)
  | .vldt d nb k c w => some (encReg 5 7 d nb k c w, none)
  | .vldz d nb k c w => some (encReg 5 8 d nb k c w, none)
  | .boxsub mm d p s c => some (encReg 5 9 (mm * 16 + d) (p == 1) s c 0, none)
  | .boxinf d nb k sel => some (encReg 5 10 d nb k sel 0, none)
  | .boxmov d s => some (encReg 5 11 d false s 0 0, none)
  | .fence scope m => some (encReg 5 12 0 false scope 0 m, none)
  | .pub a => some (encReg 5 13 0 false a.enc 0 0, none)
  | .cpy bd bs xt tr ch cmp asap rm =>
      some (encPar 6 0 (bd * 524288 + bs * 32768 + xt * 512 + tr * 32 + ch * 16 + cmp * 8 + asap * 4), extOf rm)
  | .gath bd bs bi => some (encPar 6 1 (bd * 524288 + bs * 32768 + bi * 2048), none)
  | .scac bh bi bv r op bin =>
      some (encPar 6 2 (bh * 524288 + bi * 32768 + bv * 2048 + r * 32 + op * 4 + bin * 2), none)
  | .fold bd bs dim rt v bin =>
      some (encPar 6 3 (bd * 524288 + bs * 32768 + dim * 4096 + rt * 64 + v * 32 + bin * 16), none)
  | .scan bd bs dim rt v ex bc carry =>
      some (encPar 6 4 (bd * 524288 + bs * 32768 + dim * 4096 + rt * 64 + v * 32 + ex * 16 + bc), extOf carry)
  | .zip bd ba bb rt v => some (encPar 6 5 (bd * 524288 + ba * 32768 + bb * 2048 + rt * 32 + v * 16), none)
  | .vrun bv xp prog => some (encPar 6 6 (bv * 524288 + xp * 8192 + prog * 2), none)
  | .vstop bv => some (encPar 6 7 (bv * 524288), none)
  | .rbfill n => some (encPar 6 8 (n * 262144), none)
  | .dlvset bc xe xp xn => some (encPar 6 9 (bc * 524288 + xe * 8192 + xp * 128 + xn * 2), none)
  | .dlvwait bc xd => some (encPar 6 10 (bc * 524288 + xd * 8192), none)
  | .send ms peer b xc => some (encPar 7 0 (ms * 4194304 + peer * 65536 + b * 4096 + xc * 64), none)
  | .recv ms peer b xc => some (encPar 7 1 (ms * 4194304 + peer * 65536 + b * 4096 + xc * 64), none)
  | .recvop ms peer b xc op rt =>
      some (encPar 7 2 (ms * 4194304 + peer * 65536 + b * 4096 + xc * 64 + op * 4 + rt / 32 * 2),
        if op == 3 then some (rt % 32) else none)
  | .coll bd bs bq sc bin rm =>
      some (encPar 7 3 (bd * 524288 + bs * 32768 + bq * 2048 + sc * 256 + bin * 128 + rm * 16), none)
  | .ttarm xb tt => some (encPar 7 4 (xb * 131072 + tt * 32), none)
  | .lsend bd bs bc => some (encPar 7 5 (bd * 524288 + bs * 32768 + bc * 2048), none)
  | .xstat d sel port => some (encPar 7 6 (d * 131072 + sel * 8192 + port * 512), none)
  | .vaultHalt g => some (encVlt 0 g 0, none)
  | .act g pc bg bk row => some (encVlt 1 g (pc * 1048576 + bg * 262144 + bk * 65536 + row), none)
  | .rd g pc bg bk col pl u => some (encVlt 2 g (encColumn pc bg bk col pl u), none)
  | .rda g pc bg bk col pl u => some (encVlt 3 g (encColumn pc bg bk col pl u), none)
  | .wr g pc bg bk col pl u => some (encVlt 4 g (encColumn pc bg bk col pl u), none)
  | .wra g pc bg bk col pl u => some (encVlt 5 g (encColumn pc bg bk col pl u), none)
  | .pre g pc bg bk => some (encVlt 6 g (pc * 1048576 + bg * 262144 + bk * 65536), none)
  | .prea g pc => some (encVlt 7 g (pc * 1048576), none)
  | .refpb g pc bg bk => some (encVlt 8 g (pc * 1048576 + bg * 262144 + bk * 65536), none)
  | .refab g pc => some (encVlt 9 g (pc * 1048576), none)
  | .wait g n => some (encVlt 10 g n, none)
  | .loop g dist cnt => some (encVlt 11 g (dist * 4096 + cnt), none)
  | .jump g tgt => some (encVlt 12 g (tgt * 1024), none)
  | .start g dt => some (encVlt 13 g dt, none)
  | .vopen g n => some (encVlt 14 g n, none)
  | .tagw g pl u => some (encVlt 15 g (pl * 524288 + u * 1024), none)
  | .resultWriteback _ => none
  | .tileBusyClear _ => none
  | .weightFillComplete _ => none
  | .fmtShadowEnd _ => none
  | .maskSelectorUpdate _ => none
  | .zloopLevelExit _ => none
  | .waitcExpiry _ => none
  | .waittExpiry _ => none
  | .overrunFault _ => none
  | .trapEntry _ => none
  | .farRequestArrival _ => none
  | .foreignRequestService _ => none
  | .farLdReply _ => none
  | .engineOpStart _ => none
  | .cpyDeparture _ => none
  | .cpyTransferEnd _ => none
  | .cpyCompletion _ => none
  | .gathCompletion _ => none
  | .scacCompletion _ => none
  | .routineOpCompletion _ => none
  | .rbfillWordWrite _ => none
  | .vrunArrival _ => none
  | .vaultProgramStart _ => none
  | .vstopArrival _ _ => none
  | .vaultProgramEnd _ => none
  | .wrUnitRead _ => none
  | .platformDelivery _ => none
  | .refreshAccrual _ _ => none
  | .forcedRefresh _ _ => none
  | .insertedRefresh _ _ => none
  | .scrubRead _ _ _ _ _ => none
  | .barrierResume _ _ => none
  | .exchangeArrival _ => none
  | .ttOutEntry _ _ => none
  | .ttFlitArrival _ => none
  | .ttEntryLate _ _ => none
  | .ttEntryMissing _ _ => none
  | .ttEnd _ => none
  | .lsendFlitDelivery _ => none
  | .lsendRetire _ => none
  | .dlvwaitRelease _ => none
  | .dlvwaitDeadline _ => none
  | .collDelivery _ => none
  | .linkFlitResend _ _ => none
  | .frameRetry _ _ => none
  | .ptpMessage _ _ _ _ _ => none
  | .lockLoss => none
  | .yardDispatch _ => none
  | .taskStart _ => none
  | .reservation _ _ => none
  | .preemptionRequest _ _ => none
  | .contextSave _ => none
  | .contextRestore _ => none
  | .finwaitSuspend _ => none
  | .tretComplete _ => none
  | .outwardMerge _ => none
  | .scopeComplete _ => none
  | .taskFailure _ _ => none
  | .reExecution _ => none
  | .mailboxEntry _ => none
  | .pubVersionWrite _ => none
  | .hostWindowAccess _ _ _ _ => none
  | .correctedError _ _ _ => none
  | .uncorrectableSramError _ _ => none
  | .uncorrectableDramError _ _ => none
  | .droopStretch _ => none
  | .stretchEnd => none
  | .powerCapExceeded _ => none
  | .powerCapClear _ => none
  | .powerCapSet _ => none
  | .thermalWarning _ => none
  | .thermalHold _ => none
  | .thermalTrip _ => none
  | .sensorUpdate _ _ => none
  | .firmwareUpdate _ _ => none
  | .attestationReport _ _ => none
  | .keyInstall _ _ => none
  | .linkAttestation _ _ _ _ => none
  | .linkRekey _ => none
  | .imageAuthentication _ _ => none
  | .bringUp => none
  | .xinvRemoval _ => none
  | .xinvDone => none
  | .tagvalWrite _ _ => none
  | .fenceBitWrite _ _ => none
  | .injectorArm _ _ => none
  | .crcstWrite _ _ => none
  | .ctimeWrite _ _ => none
  | .ctrimWrite _ => none
  | .platformRegisterWrite _ _ _ => none
  | .yctlWrite _ _ => none
  | .systemRegisterWrite _ _ _ => none
  | .illegalCommand _ => none
  | .linkEvent _ => none
  | .farEndAcknowledgement _ _ => none
  | .lsendReadCompletion _ => none
  | .thermalHoldRelease _ => none
  | .sensorRead _ => none

/-- Which kind of word an instruction has. -/
inductive WordKind where
  | control
  | slot
  | vault
  | event
  deriving DecidableEq, Repr

/-- The word kind of each instruction (R56 to R65, R70). -/
def Instr.kind : Instr → WordKind
  | .nop => .control
  | .br _ => .control
  | .brc _ _ _ => .control
  | .brl _ _ => .control
  | .brx _ => .control
  | .zloop _ _ => .control
  | .close => .control
  | .waitc _ _ => .control
  | .waitt _ => .control
  | .syncd _ => .control
  | .setfmt _ _ => .control
  | .setmsk _ _ _ _ _ _ _ => .control
  | .spawn _ _ => .control
  | .tcall _ _ _ _ _ => .control
  | .tret => .control
  | .finopen _ => .control
  | .finwait _ => .control
  | .trap _ => .control
  | .svc _ => .control
  | .eret => .control
  | .mfs _ _ => .control
  | .mts _ _ => .control
  | .halt => .control
  | .hdr _ _ _ _ _ _ => .control
  | .mov _ _ _ => .slot
  | .movi _ _ => .slot
  | .movhi _ _ => .slot
  | .add _ _ _ _ => .slot
  | .addi _ _ _ => .slot
  | .sub _ _ _ _ => .slot
  | .mul _ _ _ _ => .slot
  | .mulh _ _ _ _ _ => .slot
  | .div _ _ _ _ _ => .slot
  | .rem _ _ _ _ _ => .slot
  | .and _ _ _ _ => .slot
  | .or _ _ _ _ => .slot
  | .xor _ _ _ _ => .slot
  | .andn _ _ _ _ => .slot
  | .shl _ _ _ _ => .slot
  | .shr _ _ _ _ => .slot
  | .sar _ _ _ _ => .slot
  | .clz _ _ _ => .slot
  | .popc _ _ _ => .slot
  | .bfx _ _ _ _ _ => .slot
  | .bfi _ _ _ _ => .slot
  | .min _ _ _ _ _ => .slot
  | .max _ _ _ _ _ => .slot
  | .cmp _ _ _ _ _ => .slot
  | .sel _ _ _ _ => .slot
  | .fadd _ _ _ _ _ => .slot
  | .fmul _ _ _ _ _ => .slot
  | .ffma _ _ _ _ _ => .slot
  | .fcmp _ _ _ _ => .slot
  | .fcvt _ _ _ _ _ => .slot
  | .fexp2 _ _ _ => .slot
  | .flog2 _ _ _ => .slot
  | .frcp _ _ _ => .slot
  | .frsq _ _ _ => .slot
  | .fsqrt _ _ _ => .slot
  | .fsin _ _ _ => .slot
  | .fcos _ _ _ => .slot
  | .ftanh _ _ _ => .slot
  | .fsigm _ _ _ => .slot
  | .fdiv _ _ _ _ => .slot
  | .vadd _ _ _ _ _ => .slot
  | .vsub _ _ _ _ _ => .slot
  | .vmul _ _ _ _ _ => .slot
  | .vfma _ _ _ _ _ => .slot
  | .vfnma _ _ _ _ _ => .slot
  | .vmin _ _ _ _ _ => .slot
  | .vmax _ _ _ _ _ => .slot
  | .vabs _ _ _ _ => .slot
  | .vneg _ _ _ _ => .slot
  | .vand _ _ _ _ _ => .slot
  | .vor _ _ _ _ _ => .slot
  | .vxor _ _ _ _ _ => .slot
  | .vandn _ _ _ _ _ => .slot
  | .vshl _ _ _ _ _ => .slot
  | .vshr _ _ _ _ _ => .slot
  | .vsar _ _ _ _ _ => .slot
  | .vcmp _ _ _ _ _ _ => .slot
  | .vsel _ _ _ _ _ => .slot
  | .vmov _ _ _ _ => .slot
  | .vbcast _ _ _ _ => .slot
  | .vextr _ _ _ _ _ => .slot
  | .vins _ _ _ _ _ => .slot
  | .vpermz _ _ _ _ _ => .slot
  | .vrot _ _ _ _ _ => .slot
  | .viota _ _ _ _ => .slot
  | .vredadd _ _ _ _ => .slot
  | .vredmax _ _ _ _ => .slot
  | .vredmin _ _ _ _ => .slot
  | .vmaxi _ _ _ _ => .slot
  | .vmini _ _ _ _ => .slot
  | .vcvt _ _ _ _ => .slot
  | .vqnt _ _ _ _ _ => .slot
  | .vperm _ _ _ _ _ => .slot
  | .vdqnt _ _ _ _ _ => .slot
  | .vpack _ _ _ _ _ => .slot
  | .vunpk _ _ _ _ _ => .slot
  | .vscale _ _ _ _ _ => .slot
  | .vclamp _ _ _ _ _ => .slot
  | .pand _ _ _ _ => .slot
  | .por _ _ _ _ => .slot
  | .pxor _ _ _ _ => .slot
  | .pnot _ _ _ => .slot
  | .pcnt _ _ _ => .slot
  | .pset _ _ _ => .slot
  | .ldw _ _ _ => .slot
  | .ldws _ _ _ _ => .slot
  | .swpw => .slot
  | .mma _ _ _ _ _ => .slot
  | .mmaz _ _ _ _ _ => .slot
  | .trd _ _ _ => .slot
  | .twr _ _ _ => .slot
  | .tst _ _ _ _ _ => .slot
  | .tzero _ => .slot
  | .outer _ _ _ _ _ => .slot
  | .ld _ _ _ _ => .slot
  | .st _ _ _ => .slot
  | .vld _ _ _ _ _ => .slot
  | .vst _ _ _ _ => .slot
  | .vldx _ _ _ _ _ => .slot
  | .vstx _ _ _ _ => .slot
  | .ldt _ _ _ _ => .slot
  | .vldt _ _ _ _ _ => .slot
  | .vldz _ _ _ _ _ => .slot
  | .boxsub _ _ _ _ _ => .slot
  | .boxinf _ _ _ _ => .slot
  | .boxmov _ _ => .slot
  | .fence _ _ => .slot
  | .pub _ => .slot
  | .cpy _ _ _ _ _ _ _ _ => .slot
  | .gath _ _ _ => .slot
  | .scac _ _ _ _ _ _ => .slot
  | .fold _ _ _ _ _ _ => .slot
  | .scan _ _ _ _ _ _ _ _ => .slot
  | .zip _ _ _ _ _ => .slot
  | .vrun _ _ _ => .slot
  | .vstop _ => .slot
  | .rbfill _ => .slot
  | .dlvset _ _ _ _ => .slot
  | .dlvwait _ _ => .slot
  | .send _ _ _ _ => .slot
  | .recv _ _ _ _ => .slot
  | .recvop _ _ _ _ _ _ => .slot
  | .coll _ _ _ _ _ _ => .slot
  | .ttarm _ _ => .slot
  | .lsend _ _ _ => .slot
  | .xstat _ _ _ => .slot
  | .vaultHalt _ => .vault
  | .act _ _ _ _ _ => .vault
  | .rd _ _ _ _ _ _ _ => .vault
  | .rda _ _ _ _ _ _ _ => .vault
  | .wr _ _ _ _ _ _ _ => .vault
  | .wra _ _ _ _ _ _ _ => .vault
  | .pre _ _ _ _ => .vault
  | .prea _ _ => .vault
  | .refpb _ _ _ _ => .vault
  | .refab _ _ => .vault
  | .wait _ _ => .vault
  | .loop _ _ _ => .vault
  | .jump _ _ => .vault
  | .start _ _ => .vault
  | .vopen _ _ => .vault
  | .tagw _ _ _ => .vault
  | .resultWriteback _ => .event
  | .tileBusyClear _ => .event
  | .weightFillComplete _ => .event
  | .fmtShadowEnd _ => .event
  | .maskSelectorUpdate _ => .event
  | .zloopLevelExit _ => .event
  | .waitcExpiry _ => .event
  | .waittExpiry _ => .event
  | .overrunFault _ => .event
  | .trapEntry _ => .event
  | .farRequestArrival _ => .event
  | .foreignRequestService _ => .event
  | .farLdReply _ => .event
  | .engineOpStart _ => .event
  | .cpyDeparture _ => .event
  | .cpyTransferEnd _ => .event
  | .cpyCompletion _ => .event
  | .gathCompletion _ => .event
  | .scacCompletion _ => .event
  | .routineOpCompletion _ => .event
  | .rbfillWordWrite _ => .event
  | .vrunArrival _ => .event
  | .vaultProgramStart _ => .event
  | .vstopArrival _ _ => .event
  | .vaultProgramEnd _ => .event
  | .wrUnitRead _ => .event
  | .platformDelivery _ => .event
  | .refreshAccrual _ _ => .event
  | .forcedRefresh _ _ => .event
  | .insertedRefresh _ _ => .event
  | .scrubRead _ _ _ _ _ => .event
  | .barrierResume _ _ => .event
  | .exchangeArrival _ => .event
  | .ttOutEntry _ _ => .event
  | .ttFlitArrival _ => .event
  | .ttEntryLate _ _ => .event
  | .ttEntryMissing _ _ => .event
  | .ttEnd _ => .event
  | .lsendFlitDelivery _ => .event
  | .lsendRetire _ => .event
  | .dlvwaitRelease _ => .event
  | .dlvwaitDeadline _ => .event
  | .collDelivery _ => .event
  | .linkFlitResend _ _ => .event
  | .frameRetry _ _ => .event
  | .ptpMessage _ _ _ _ _ => .event
  | .lockLoss => .event
  | .yardDispatch _ => .event
  | .taskStart _ => .event
  | .reservation _ _ => .event
  | .preemptionRequest _ _ => .event
  | .contextSave _ => .event
  | .contextRestore _ => .event
  | .finwaitSuspend _ => .event
  | .tretComplete _ => .event
  | .outwardMerge _ => .event
  | .scopeComplete _ => .event
  | .taskFailure _ _ => .event
  | .reExecution _ => .event
  | .mailboxEntry _ => .event
  | .pubVersionWrite _ => .event
  | .hostWindowAccess _ _ _ _ => .event
  | .correctedError _ _ _ => .event
  | .uncorrectableSramError _ _ => .event
  | .uncorrectableDramError _ _ => .event
  | .droopStretch _ => .event
  | .stretchEnd => .event
  | .powerCapExceeded _ => .event
  | .powerCapClear _ => .event
  | .powerCapSet _ => .event
  | .thermalWarning _ => .event
  | .thermalHold _ => .event
  | .thermalTrip _ => .event
  | .sensorUpdate _ _ => .event
  | .firmwareUpdate _ _ => .event
  | .attestationReport _ _ => .event
  | .keyInstall _ _ => .event
  | .linkAttestation _ _ _ _ => .event
  | .linkRekey _ => .event
  | .imageAuthentication _ _ => .event
  | .bringUp => .event
  | .xinvRemoval _ => .event
  | .xinvDone => .event
  | .tagvalWrite _ _ => .event
  | .fenceBitWrite _ _ => .event
  | .injectorArm _ _ => .event
  | .crcstWrite _ _ => .event
  | .ctimeWrite _ _ => .event
  | .ctrimWrite _ => .event
  | .platformRegisterWrite _ _ _ => .event
  | .yctlWrite _ _ => .event
  | .systemRegisterWrite _ _ _ => .event
  | .illegalCommand _ => .event
  | .linkEvent _ => .event
  | .farEndAcknowledgement _ _ => .event
  | .lsendReadCompletion _ => .event
  | .thermalHoldRelease _ => .event
  | .sensorRead _ => .event

/-- The reading of a 32-bit word as a control operation, of slots 1 to 7, or of a signal box. -/
def decodeControlFirst (w : Nat) : Option (Nat × Instr) :=
  match decodeControl w with
  | .ok i => some (0, i)
  | .error _ =>
    match decodeSlot w none with
    | .ok i => some (1, i)
    | .error _ =>
      match decodeVault w with
      | .ok i => some (2, i)
      | .error _ => none

/-- One reading of a table word, and where it is an operation: 0 the control slot, 1 a slot, 2 a vault program. A word can
be all three; the control reading is taken, unless the operand bits are zero as a slot operation's and not as a control
operation's (DESIGN CHOICE, log 6). -/
def readTableWord (w : Nat) : Option (Nat × Instr) :=
  if w % 2 ^ 23 == 0 && w % 2 ^ 26 != 0 then
    match decodeSlot w none with
    | .ok i => some (1, i)
    | .error _ => decodeControlFirst w
  else decodeControlFirst w

/-- The instruction of a table word (log 6). -/
def decodeTableWord (nbits w : Nat) : Option Instr :=
  if nbits == 32 then (readTableWord w).map (·.2) else none

end Sys2Proof
end

