-- ==== Sys2Proof/Machine/Num.lean ====
section
/-! DEFINITION. Numbers: formats, exact values, rounding, integers, scales, QC4 codes
and the random-bit generator (R103 to R135). -/

namespace Sys2Proof.Machine

/-- Flag bits, as FLG and ENB order them (R113). -/
def NV : Nat := 1
def DZ : Nat := 2
def OF : Nat := 4
def UF : Nat := 8
def NX : Nat := 16
def SAT : Nat := 32

/-- Size in bits of an element type (R105, R107, R109). -/
def tySize (t : Nat) : Nat :=
  match t with
  | 0 => 32
  | 1 => 16
  | 2 => 16
  | 3 => 8
  | 4 => 8
  | 5 => 4
  | 6 => 8
  | 7 => 16
  | 8 => 32
  | 9 => 8
  | 10 => 16
  | 11 => 32
  | _ => 32

/-- Floating-point types have codes 0 to 4 (R104). -/
def tyFloat (t : Nat) : Bool := t < 5
/-- The .s types have codes 6 to 8 (R104). -/
def tySigned (t : Nat) : Bool := t == 6 || t == 7 || t == 8
/-- Integer types (R107). -/
def tyInt (t : Nat) : Bool := 5 < t && t < 12

/-- Fraction width of a floating-point type (R105). -/
def fBits (t : Nat) : Nat :=
  match t with
  | 0 => 23
  | 1 => 7
  | 2 => 10
  | 3 => 3
  | _ => 2
/-- Exponent width of a floating-point type (R105). -/
def eBits (t : Nat) : Nat :=
  match t with
  | 0 => 8
  | 1 => 8
  | 2 => 5
  | 3 => 4
  | _ => 5
/-- Exponent bias (R105). -/
def fBias (t : Nat) : Nat := 2 ^ (eBits t - 1) - 1

/-- Bits of the largest finite number (R106). -/
def maxFinBits (t : Nat) : Nat :=
  if t == 3 then 0x7E else (2 ^ eBits t - 1) * 2 ^ fBits t - 1
/-- Bits of +infinity; .e4m3 has none (R105). -/
def infBits (t : Nat) : Nat := (2 ^ eBits t - 1) * 2 ^ fBits t
/-- The sign bit of a type. -/
def signBit (t : Nat) : Nat := 2 ^ (tySize t - 1)
/-- A sign placed. -/
def withSign (t : Nat) (neg : Bool) (b : Nat) : Nat := if neg then b + signBit t else b

/-- The default NaN (R106). -/
def defaultNan (t : Nat) : Nat :=
  if t == 3 then 0x7F else infBits t + 2 ^ (fBits t - 1)

/-- The value of a floating-point pattern; a payload is left-aligned to 22 bits. -/
inductive FVal where
  | nan (neg sig : Bool) (pay : Nat)
  | inf (neg : Bool)
  /-- ± m × 2^e -/
  | fin (neg : Bool) (m : Nat) (e : Int)
  deriving DecidableEq, Repr

/-- `decode` of R129 for floating-point types. -/
def fDecode (t bits : Nat) : FVal :=
  let f := fBits t
  let b := bits % 2 ^ tySize t
  let neg := signBit t ≤ b
  let ex := b / 2 ^ f % 2 ^ eBits t
  let fr := b % 2 ^ f
  if t == 3 then
    if ex == 15 && fr == 7 then .nan neg false 0
    else if ex == 0 then .fin neg fr (-9)
    else .fin neg (fr + 8) ((ex : Int) - 10)
  else if ex == 2 ^ eBits t - 1 then
    if fr == 0 then .inf neg
    else .nan neg (fr < 2 ^ (f - 1)) (fr % 2 ^ (f - 1) * 2 ^ (23 - f))
  else if ex == 0 then .fin neg fr (1 - (fBias t : Int) - f)
  else .fin neg (fr + 2 ^ f) ((ex : Int) - fBias t - f)

/-- A subnormal operand of .f32, .bf16 or .f16 read under FTZ = 1 (R117). -/
def fRead (t : Nat) (ftz : Bool) (bits : Nat) : FVal :=
  match fDecode t bits with
  | .fin neg m e => if ftz && t < 3 && m < 2 ^ fBits t then .fin neg 0 e else .fin neg m e
  | v => v

/-- `quiet` of R129: the quieted NaN in a type, with sign and payload (R119). -/
def quietNan (t : Nat) (neg : Bool) (pay : Nat) : Nat :=
  if t == 3 then withSign 3 neg 0x7F
  else withSign t neg (infBits t + 2 ^ (fBits t - 1) + pay / 2 ^ (23 - fBits t))

/-- NV when an operand is a signalling NaN (R120). -/
def snanFlag : List FVal → Nat
  | [] => 0
  | .nan _ true _ :: _ => NV
  | _ :: r => snanFlag r

/-- `nan_result` of R129: the first NaN among the operands, quieted. -/
def nanResult (t : Nat) (ops : List FVal) : Option (Nat × Nat) :=
  go ops
where
  go : List FVal → Option (Nat × Nat)
    | [] => none
    | .nan neg _ pay :: _ => some (quietNan t neg pay, snanFlag ops)
    | _ :: r => go r

/-- Floor of the base-2 logarithm of num / den, both positive. -/
def floorLog2 (num den : Nat) : Int :=
  let k : Int := (Nat.log2 num : Int) - Nat.log2 den
  if 0 ≤ k then (if den * 2 ^ k.toNat ≤ num then k else k - 1)
  else (if den ≤ num * 2 ^ (-k).toNat then k else k - 1)

/-- Rounding modes: 0 rne, 1 rtz, 2 rup, 3 rdn, 4 sr (R113, R116). Whether the magnitude goes up,
from the integer part n and the discarded part r / den (R130). -/
def roundsUp (mode : Nat) (neg : Bool) (n r den rb : Nat) : Bool :=
  match mode with
  | 0 => den < 2 * r || (2 * r == den && n % 2 == 1)
  | 1 => false
  | 2 => 0 < r && !neg
  | 3 => 0 < r && neg
  | _ => rb < r * 2 ^ 32 / den

/-- The overflow result of R116 with OF and NX. -/
def overflowBits (t : Nat) (neg : Bool) (mode : Nat) : Nat × Nat :=
  let toMax := t == 3 || t == 4 || mode == 1 || (mode == 2 && neg) || (mode == 3 && !neg)
  (withSign t neg (if toMax then maxFinBits t else infBits t), OF ||| NX)

/-- `round_to` of R130 on the exact value ± num / den: the bits and the flags.
`ftz` says that R117's flushing applies to the operation. -/
def roundTo (t : Nat) (neg : Bool) (num den mode rb : Nat) (ftz : Bool) : Nat × Nat :=
  if num == 0 then (withSign t neg 0, 0) else
  let emin : Int := 1 - (fBias t : Int)
  let e := max (floorLog2 num den) emin
  let q := e - fBits t
  let num' := if q < 0 then num * 2 ^ (-q).toNat else num
  let den' := if q < 0 then den else den * 2 ^ q.toNat
  let n := num' / den'
  let r := num' % den'
  let n' := if roundsUp mode neg n r den' rb then n + 1 else n
  let bits := (e - emin).toNat * 2 ^ fBits t + n'
  if maxFinBits t < bits then overflowBits t neg mode
  else
    let nx := if r == 0 then 0 else NX
    if bits < 2 ^ fBits t then
      if ftz && t < 3 then (withSign t neg 0, UF ||| NX)
      else (withSign t neg bits, if r == 0 then 0 else UF ||| NX)
    else (withSign t neg bits, nx)

/-- An exact value as a signed fraction whose denominator is a power of two. -/
structure Exact where
  num : Int
  den : Nat
  deriving DecidableEq, Repr

/-- A finite dyadic value. -/
def exactOf (neg : Bool) (m : Nat) (e : Int) : Exact :=
  let s : Int := if neg then -1 else 1
  if 0 ≤ e then ⟨s * (m * 2 ^ e.toNat : Nat), 1⟩ else ⟨s * m, 2 ^ (-e).toNat⟩

def Exact.add (a b : Exact) : Exact := ⟨a.num * b.den + b.num * a.den, a.den * b.den⟩
def Exact.mul (a b : Exact) : Exact := ⟨a.num * b.num, a.den * b.den⟩
def Exact.lt (a b : Exact) : Bool := a.num * b.den < b.num * a.den
def Exact.eq (a b : Exact) : Bool := a.num * b.den == b.num * a.den

/-- `round_to` of an exact value; `zneg` is the sign of an exact zero. -/
def roundExact (t : Nat) (x : Exact) (zneg : Bool) (mode rb : Nat) (ftz : Bool) : Nat × Nat :=
  if x.num == 0 then (withSign t zneg 0, 0)
  else roundTo t (x.num < 0) x.num.natAbs x.den mode rb ftz

/-- A finite or infinite value rounded into a type: an infinity becomes the type's own,
or ±448 with OF and NX in .e4m3 (R116). -/
def infTo (t : Nat) (neg : Bool) : Nat × Nat :=
  if t == 3 then (withSign 3 neg 0x7E, OF ||| NX) else (withSign t neg (infBits t), 0)

/-- An invalid operation: the default NaN and NV (R119, R120). -/
def invalid (t : Nat) : Nat × Nat := (defaultNan t, NV)

/-- Flags added to a result. -/
def orFlags (f : Nat) (r : Nat × Nat) : Nat × Nat := (r.1, r.2 ||| f)

/-- The sign of an exact zero sum: of like signs that sign, else − only under rdn. -/
def zeroSign (mode : Nat) (a b : Bool) : Bool := if a == b then a else mode == 3

/-- Sum of two values in a type (IEEE 754-2019 addition, R116 to R120). -/
def fAddV (t : Nat) (a b : FVal) (mode : Nat) (ftz : Bool) : Nat × Nat :=
  match nanResult t [a, b] with
  | some r => r
  | none =>
    match a, b with
    | .inf x, .inf y => if x == y then infTo t x else invalid t
    | .inf x, _ => infTo t x
    | _, .inf y => infTo t y
    | .fin x m e, .fin y n g =>
      roundExact t ((exactOf x m e).add (exactOf y n g)) (zeroSign mode x y) mode 0 ftz
    | _, _ => invalid t

/-- Product of two values in a type. -/
def fMulV (t : Nat) (a b : FVal) (mode : Nat) (ftz : Bool) : Nat × Nat :=
  match nanResult t [a, b] with
  | some r => r
  | none =>
    match a, b with
    | .inf x, .inf y => infTo t (x != y)
    | .inf x, .fin y n _ => if n == 0 then invalid t else infTo t (x != y)
    | .fin x m _, .inf y => if m == 0 then invalid t else infTo t (x != y)
    | .fin x m e, .fin y n g =>
      roundExact t ((exactOf x m e).mul (exactOf y n g)) (x != y) mode 0 ftz
    | _, _ => invalid t

/-- The value with its sign inverted; a NaN keeps its own. -/
def FVal.negate : FVal → FVal
  | .inf x => .inf (!x)
  | .fin x m e => .fin (!x) m e
  | v => v

/-- Is this a zero? -/
def FVal.isZero : FVal → Bool
  | .fin _ 0 _ => true
  | _ => false
def FVal.isInf : FVal → Bool
  | .inf _ => true
  | _ => false
def FVal.isNan : FVal → Bool
  | .nan _ _ _ => true
  | _ => false
def FVal.sign : FVal → Bool
  | .nan s _ _ => s
  | .inf s => s
  | .fin s _ _ => s

/-- a × b + c rounded once, or −(a × b) + c with `np`; NaN order a, b, c (R120, R140, R150). -/
def fFmaV (t : Nat) (np : Bool) (a b c : FVal) (mode : Nat) (ftz : Bool) : Nat × Nat :=
  let prodInvalid := (a.isZero && b.isInf) || (a.isInf && b.isZero)
  match nanResult t [a, b, c] with
  | some r => orFlags (if prodInvalid then NV else 0) r
  | none =>
    if prodInvalid then invalid t else
    let ps := (a.sign != b.sign) != np
    if a.isInf || b.isInf then
      match c with
      | .inf z => if z == ps then infTo t ps else invalid t
      | _ => infTo t ps
    else
      match a, b, c with
      | _, _, .inf z => infTo t z
      | .fin _ m e, .fin _ n g, .fin z k h =>
        roundExact t ((exactOf ps (m * n) (e + g)).add (exactOf z k h)) (zeroSign mode ps z) mode 0 ftz
      | _, _, _ => invalid t

/-- a / b in a type (IEEE 754-2019 division). -/
def fDivV (t : Nat) (a b : FVal) (mode : Nat) (ftz : Bool) : Nat × Nat :=
  match nanResult t [a, b] with
  | some r => r
  | none =>
    let s := a.sign != b.sign
    match a, b with
    | .inf _, .inf _ => invalid t
    | .inf _, _ => infTo t s
    | _, .inf _ => (withSign t s 0, 0)
    | .fin _ m e, .fin _ n g =>
      if n == 0 then (if m == 0 then invalid t else orFlags DZ (infTo t s))
      else
        let x := exactOf false m e
        let y := exactOf false n g
        roundTo t s (x.num.natAbs * y.den) (x.den * y.num.natAbs) mode 0 ftz
    | _, _ => invalid t

/-- The order of two values that are not NaN, −0 equal to +0: −1, 0 or 1. -/
def fCompare (a b : FVal) : Int :=
  match a, b with
  | .inf x, .inf y => if x == y then 0 else if x then -1 else 1
  | .inf x, _ => if x then -1 else 1
  | _, .inf y => if y then 1 else -1
  | .fin x m e, .fin y n g =>
    let p := exactOf x m e
    let q := exactOf y n g
    if p.lt q then -1 else if p.eq q then 0 else 1
  | _, _ => 0

/-- The order with −0 below +0, for VMIN and VMAX (R150). -/
def fCompareZ (a b : FVal) : Int :=
  match fCompare a b with
  | 0 => if a.sign && !b.sign then -1 else if !a.sign && b.sign then 1 else 0
  | c => c

/-- The bits of a value that is exact in a type. -/
def fEncodeV (t : Nat) (v : FVal) : Nat :=
  match v with
  | .nan s _ p => quietNan t s p
  | .inf s => (infTo t s).1
  | .fin s m e => (roundExact t (exactOf s m e) s 0 0 false).1

/-- Minimum or maximum in a type (R150). -/
def fMinMaxV (t : Nat) (wantMax : Bool) (a b : FVal) : Nat × Nat :=
  match nanResult t [a, b] with
  | some r => r
  | none =>
    let c := fCompareZ a b
    (fEncodeV t (if wantMax then (if c < 0 then b else a) else (if 0 < c then b else a)), 0)

/-- The integer read in an integer type (R107). -/
def intOf (t bits : Nat) : Int :=
  let n := tySize t
  let b := bits % 2 ^ n
  if tySigned t && 2 ^ (n - 1) ≤ b then (b : Int) - 2 ^ n else b

/-- `wrap_int`, as bits (R131). -/
def wrapInt (t : Nat) (x : Int) : Nat := (x % 2 ^ tySize t).toNat

/-- Least and greatest value of an integer of `n` bits (R107). -/
def intLeast (signed : Bool) (n : Nat) : Int := if signed then -(2 ^ (n - 1)) else 0
def intGreatest (signed : Bool) (n : Nat) : Int := if signed then 2 ^ (n - 1) - 1 else 2 ^ n - 1

/-- `sat_int`, as bits (R131). -/
def satInt (t : Nat) (x : Int) : Nat :=
  let n := tySize t
  wrapInt t (min (max x (intLeast (tySigned t) n)) (intGreatest (tySigned t) n))

/-- An exact value rounded to an integer, with NX when inexact (R118). -/
def roundInt (x : Exact) (mode rb : Nat) : Int × Nat :=
  let neg := x.num < 0
  let m := x.num.natAbs
  let n := m / x.den
  let r := m % x.den
  let n' := if roundsUp mode neg n r x.den rb then n + 1 else n
  ((if neg then -(n' : Int) else n'), if r == 0 then 0 else NX)

/-- `to_int` of R118 into `n` bits, as an integer and flags. -/
def toIntN (signed : Bool) (n : Nat) (v : FVal) (mode rb : Nat) : Int × Nat :=
  match v with
  | .nan _ _ _ => (0, NV)
  | .inf s => (if s then intLeast signed n else intGreatest signed n, NV)
  | .fin s m e =>
    let (i, nx) := roundInt (exactOf s m e) mode rb
    if i < intLeast signed n then (intLeast signed n, NV)
    else if intGreatest signed n < i then (intGreatest signed n, NV)
    else (i, nx)

/-- `to_int` of R131 into an integer type, as bits and flags. -/
def toInt (t : Nat) (v : FVal) (mode rb : Nat) : Nat × Nat :=
  let (i, f) := toIntN (tySigned t) (tySize t) v mode rb
  (wrapInt t i, f)

/-- A value converted to a floating-point type (R116, R119). -/
def fConvert (t : Nat) (v : FVal) (mode rb : Nat) (ftz : Bool) : Nat × Nat :=
  match nanResult t [v] with
  | some r => r
  | none =>
    match v with
    | .inf s => infTo t s
    | .fin s m e => roundExact t (exactOf s m e) s mode rb ftz
    | .nan s _ p => (quietNan t s p, 0)

/-- An integer converted to a floating-point type. -/
def intToF (t : Nat) (x : Int) (mode rb : Nat) (ftz : Bool) : Nat × Nat :=
  roundExact t ⟨x, 1⟩ false mode rb ftz

/-- Any element converted to another type as VCVT does (R156); no .qc4. -/
def convertElem (src dst bits mode rb : Nat) (ftz : Bool) : Nat × Nat :=
  if tyFloat src then
    let v := fRead src ftz bits
    if tyFloat dst then fConvert dst v mode rb ftz else toInt dst v mode rb
  else if tyFloat dst then intToF dst (intOf src bits) mode rb ftz
  else (satInt dst (intOf src bits), 0)

/-- `e8_for` of R132 on the largest magnitude, none for +infinity. -/
def e8For (num den : Nat) (isInf : Bool) : Nat × Nat :=
  if isInf then (0xFE, SAT)
  else if num == 0 then (0, 0)
  else
    let k := floorLog2 num den - 7 + 127
    if k < 0 then (0, 0) else if 254 < k then (0xFE, SAT) else (k.toNat, 0)

/-- x / 2^(s − 127), the element against its E8 scale (R132, R157). -/
def e8Quot (neg : Bool) (m : Nat) (e : Int) (s : Nat) : Exact := exactOf neg m (e - s + 127)

/-- The levels of R109, times 256. -/
def qc4Level (code : Nat) : Int :=
  match code % 16 with
  | 0 => -256
  | 1 => -180
  | 2 => -134
  | 3 => -100
  | 4 => -70
  | 5 => -45
  | 6 => -22
  | 7 => 0
  | 8 => 20
  | 9 => 41
  | 10 => 63
  | 11 => 87
  | 12 => 114
  | 13 => 145
  | 14 => 190
  | _ => 256

/-- `qc4_block_scale` of R133 for a group scale G given as .f32 bits: the bits of S_b and the flags of its one rounding.
`ftz` says that R117's flushing applies: to G as it is read and to S_b. -/
def qc4BlockScale (g c : Nat) (ftz : Bool) : Nat × Nat :=
  match fRead 0 ftz g with
  | .fin s m e =>
    let x := exactOf false (m * c) e
    roundTo 0 s x.num.natAbs (x.den * 255) 0 0 ftz
  | .inf s => if c == 0 then invalid 0 else (withSign 0 s (infBits 0), 0)
  | .nan s sig p => (quietNan 0 s p, if sig then NV else 0)

/-- `qc4_decode` of R111 into a floating-point type: the element and the flags of S_b and of the element; a signalling
NaN G raises NV (R120). -/
def qc4Decode (t g c code : Nat) (ftz : Bool) : Nat × Nat :=
  match fRead 0 ftz g with
  | .nan _ sig _ => (defaultNan t, if sig then NV else 0)
  | .inf s =>
    if code % 16 == 7 then (defaultNan t, NV)
    else orFlags NV (infTo t (s != (qc4Level code < 0)))
  | .fin _ _ _ =>
    let sb := qc4BlockScale g c ftz
    match fRead 0 ftz sb.1 with
    | .fin s m e =>
      let l := qc4Level code
      let x := exactOf (s != (l < 0)) (m * l.natAbs) (e - 8)
      orFlags sb.2 (roundExact t x (s != (l < 0)) 0 0 ftz)
    | v => orFlags sb.2 (fConvert t v 0 0 ftz)

/-- The least c with 255 × m ≤ c × G, both exact magnitudes, at most 255 (R112 step 2). -/
def qc4ScaleCode (m g : Exact) : Nat :=
  if m.num == 0 || g.num == 0 then 0
  else
    let a := 255 * m.num.natAbs * g.den
    let b := g.num.natAbs * m.den
    min 255 ((a + b - 1) / b)

/-- The greatest code whose level is at or below q, for −1 ≤ q ≤ 1. -/
def qc4Below (q : Exact) : Nat → Nat
  | 0 => 0
  | k + 1 => if qc4Level (k + 1) * q.den ≤ q.num * 256 then k + 1 else qc4Below q k

/-- `qc4_code` of R112 and R125 for the exact quotient x / S_b. -/
def qc4Code (q : Exact) (mode rb : Nat) : Nat :=
  if q.num * 256 ≤ -256 * (q.den : Int) then 0
  else if 256 * (q.den : Int) ≤ q.num * 256 then 15
  else
    let lo := qc4Below q 15
    let hi := lo + 1
    let dl := (q.num * 256 - qc4Level lo * q.den).natAbs
    let dh := (qc4Level hi * q.den - q.num * 256).natAbs
    if dl == 0 then lo
    else
      let up :=
        match mode with
        | 0 => dh < dl || (dh == dl && hi % 2 == 0)
        | 1 => q.num < 0
        | 2 => true
        | 3 => false
        | _ => rb < dl * 2 ^ 32 / (dl + dh)
      if up then hi else lo

/-- 32-bit left rotation (R129). -/
def rotl (v k : Nat) : Nat :=
  let v := v % 2 ^ 32
  let k := k % 32
  (v * 2 ^ k % 2 ^ 32) + v / 2 ^ (32 - k)

/-- Addition modulo 2^32 (R126). -/
def add32 (a b : Nat) : Nat := (a + b) % 2 ^ 32

/-- The four words of a counter or a key. -/
structure Quad where
  w0 : Nat
  w1 : Nat
  w2 : Nat
  w3 : Nat
  deriving DecidableEq, Repr

/-- Key injection number s of R126. -/
def genInject (k : Quad) (s : Nat) (x : Quad) : Quad :=
  let k4 := k.w0 ^^^ k.w1 ^^^ k.w2 ^^^ k.w3 ^^^ 0x5A3C96E1
  let ks := [k.w0, k.w1, k.w2, k.w3, k4]
  let g (j : Nat) := ks.getD ((s + j) % 5) 0
  ⟨add32 x.w0 (g 0), add32 x.w1 (g 1), add32 x.w2 (g 2), add32 (add32 x.w3 (g 3)) s⟩

/-- One round of R126 with its two rotations. -/
def genRound (ra rb : Nat) (x : Quad) : Quad :=
  let a0 := add32 x.w0 x.w1
  let a1 := rotl x.w1 ra ^^^ a0
  let a2 := add32 x.w2 x.w3
  let a3 := rotl x.w3 rb ^^^ a2
  ⟨a0, a3, a2, a1⟩

/-- `gen128` of R126. -/
def gen128 (ctr key : Quad) : Quad :=
  let x := genInject key 0 ctr
  let x := genInject key 1 (genRound 19 13 (genRound 7 24 x))
  let x := genInject key 2 (genRound 27 8 (genRound 11 30 x))
  let x := genInject key 3 (genRound 22 3 (genRound 5 18 x))
  let x := genInject key 4 (genRound 29 12 (genRound 14 21 x))
  genInject key 5 (genRound 17 6 (genRound 9 26 x))

/-- The key of RBKEY0 and RBKEY1 (R126). -/
def genKey (k0 k1 : Word) : Quad :=
  ⟨k0.toNat % 2 ^ 32, k0.toNat / 2 ^ 32, k1.toNat % 2 ^ 32, k1.toNat / 2 ^ 32⟩

/-- A 128-bit counter as four words. -/
def quadOf (n : Nat) : Quad :=
  ⟨n % 2 ^ 32, n / 2 ^ 32 % 2 ^ 32, n / 2 ^ 64 % 2 ^ 32, n / 2 ^ 96 % 2 ^ 32⟩

/-- A quad as a 128-bit number, word 0 lowest. -/
def Quad.toNat (q : Quad) : Nat := q.w0 + q.w1 * 2 ^ 32 + q.w2 * 2 ^ 64 + q.w3 * 2 ^ 96

/-- The 32 random bits of element e of an engine operation (R125). -/
def engineBits (key : Quad) (e eng seq : Nat) : Nat :=
  (gen128 ⟨e % 2 ^ 32, eng, seq % 2 ^ 32, seq / 2 ^ 32 % 2 ^ 32⟩ key).w0

/-- The 2,048-bit queue word built from a counter value (R126). -/
def queueWord (ctr : Nat) (key : Quad) : Nat → Nat
  | 0 => 0
  | j + 1 => queueWord ctr key j + (gen128 (quadOf ((ctr + j) % 2 ^ 128)) key).toNat * 2 ^ (128 * j)

end Sys2Proof.Machine
end

