-- ==== Sys2Proof/Machine/State.lean ====
section
/-! DEFINITION. The state of one device, as plain data, and the reasons a step can stop.
Tables are association lists in rising key order (`Tab`); an unlisted key reads as a stated default.
A core key is the sequencer's number n: 0 to 159 the compute cores, 160 to 163 the control cores (log 13). -/

namespace Sys2Proof.Machine

/-- A sparse table. -/
abbrev Tab (α : Type) := List (Nat × α)

/-- A box (R17): what a program addresses data through. `home` is the device core (T1), the vault (T2), the range
entry (T3, T4) or the device identifier (T5); `org` the byte offset (T1), row0 (T2), the byte offset in the range
(T3, T4) or the remote handle (T5); `idx` the elements narrowing has added to the base. -/
structure Box where
  tier : Nat
  fmt : Nat
  ext : List Nat
  str : List Int
  home : Nat
  org : Nat
  idx : Int
  rd : Bool
  wr : Bool
  /-- 0 FAULT, 1 ORDERED, 2 DIRTY, 3 FOLD -/
  merge : Nat
  /-- 0 CLAMP, 1 ZERO, 2 FAULT -/
  oob : Nat
  tb : Nat
  key : Nat
  fop : Nat
  rt : Nat
  /-- a read-only view of a peer's slice (R404) -/
  peer : Bool
  deriving DecidableEq, Repr

/-- A place of memory: which memory, and the byte address in it. -/
inductive Space where
  | spad
  | dram
  | host
  deriving DecidableEq, Repr

/-- One write an operation makes when it becomes visible. -/
inductive Wr where
  | x (n : Nat) (v : Word)
  /-- physical vector register: the bits of `mask` take those of `v` (R51) -/
  | v (phys : Nat) (mask v : VWord)
  | p (phys : Nat) (mask v : PWord)
  | b (n : Nat) (box : Option Box)
  | sr (n : Nat) (v : Word)
  /-- bytes at an address, and the task whose access it is (write marks, R296) -/
  | mem (sp : Space) (addr : Nat) (bytes : List Byte)
  /-- a system-register write with an event of its own (R346) -/
  | ev (i : Instr)
  deriving DecidableEq, Repr

/-- A fault as it is recorded (R364 to R366): cause, subcause, marked slots, slot causes,
the bundle and slot of the operation, the detail words TREC4 to TREC11, and random-bit words returned. -/
structure Flt where
  cause : Nat
  sub : Nat
  omask : Nat
  slots : List Nat
  opc : Nat
  oslot : Nat
  detail : List Nat
  rbw : Nat
  deriving DecidableEq, Repr

/-- How a replay slot runs again (R367, R369): the operation with its captured operands. -/
inductive Again where
  /-- an S, F or V operation, held as the results it computed: writes, latch and flags -/
  | value
  /-- a VPERM, whose completion writes zero in the lanes at fault -/
  | perm
  /-- a VLDZ: its box and record element -/
  | vldz (box : Box) (k : Nat) (d w : Nat)
  /-- a RECVOP: operation, routine handle, held lanes, element addresses and, once read, the old elements; the routine as
  it was copied at issue (R72) -/
  | recvop (op rt fmt : Nat) (lanes addrs olds rtn : List Nat)
  /-- the combined elements of a RECVOP, read and not yet written: later read-modify-writes see them (R218, R315) -/
  | rmw
  /-- the value of a far LD whose reply came in supervisor mode: it goes through no write port (R228, R367) -/
  | far
  deriving DecidableEq, Repr

/-- A result on its way: issued by slot `slot` of the bundle at `pc`, in issue order `ord`, visible at cycle `vis`.
`flags` are ORed into FLG then; with `flt` the writes are withheld and the fault falls due (R122). -/
structure Pend where
  vis : Nat
  ord : Nat
  slot : Nat
  pc : Nat
  wr : List Wr
  lat : Option VWord
  flags : Nat
  flt : Option Flt
  again : Again
  /-- matrix work is no part of the in-flight image (R367) -/
  matrix : Bool
  /-- issued in supervisor mode (R363) -/
  sup : Bool
  /-- S or F class, for ACT = 2 (R369) -/
  sf : Bool
  /-- random-bit words it popped, oldest first (R128) -/
  rbw : List Nat
  /-- the rotation state it advanced: converter, value before and after (R124, R128) -/
  rbs : Option (Nat × Word × Word)
  /-- the bank of its vector write, by the name encoded (R50) -/
  vbank : Nat
  /-- where its flags were raised: lane and flags, for INDEX (R366, R369) -/
  hits : List (Nat × Nat)
  deriving DecidableEq, Repr

/-- A deferred fault: the cycle it falls due, its record, the operation it withholds,
and whether a supervisor bundle caused it (R361, R363, R367). -/
structure Due where
  since : Nat
  flt : Flt
  rep : Option Pend
  sup : Bool
  deriving DecidableEq, Repr

/-- A pending FMT image and the bundles still to issue before it governs (R115). -/
structure FmtP where
  left : Nat
  img : Word
  deriving DecidableEq, Repr

/-- A pending selector write: new MSKSEL fields and which selectors are kept (R147, R148). -/
structure MskP where
  left : Nat
  img : Nat
  keep : Nat
  deriving DecidableEq, Repr

/-- An active ZLOOP level: first and last bundle of the body and the passes left, the present one included (R284). -/
structure ZLev where
  first : Nat
  last : Nat
  left : Nat
  deriving DecidableEq, Repr

/-- What holds issue (R53). -/
inductive Hold where
  | none
  /-- WAITC: the cycle at which the next bundle may issue -/
  | until (c : Nat)
  /-- WAITT: the CTIME value -/
  | ctime (v : Nat)
  | syncd (level : Nat)
  /-- DLVWAIT: counter box, deadline and register number -/
  | dlv (box : Box) (reg deadline : Nat)
  /-- FINWAIT held in place on a scope, its bundle's address; `stuck` when it waits unsaved -/
  | finwait (f pc : Nat) (stuck : Bool)
  | tret
  /-- a pre-empted task at its boundary, until the save may start (R300) -/
  | save
  /-- a failed task, until its engine threads have run to completion (R374) -/
  | failed
  deriving DecidableEq, Repr

/-- The in-flight image of a trap (R367): results with their distances, replay slots, branch, shadow and loop state. -/
structure Image where
  pend : List Pend
  replay : List Pend
  dly : Nat
  tgt : Nat
  taken : Bool
  fmtQ : List FmtP
  mskQ : List MskP
  zl : List ZLev
  /-- what held the stalled bundle, where it outlives the trap -/
  hold : Hold
  /-- the trap cycle, from which distances count (R367) -/
  since : Nat
  deriving DecidableEq, Repr

/-- Is the sequencer idle, issuing, or stopped by a fence? -/
inductive Run where
  | idle
  | issuing
  | fenced
  deriving DecidableEq, Repr

/-- A weight plane with its descriptor (R162): rows of 256 weights as raw bits, routes, and QC4 scales S by column block. -/
structure Plane where
  ty : Nat
  sparse : Bool
  /-- key 512·k + n (n the column): unlisted is 0 -/
  w : Tab Nat
  route : Tab Nat
  /-- key 4·n + m: the S_b bits of column n, block m -/
  scale : Tab Nat
  deriving DecidableEq, Repr

/-- The planes at task start: +0 weights of .e4m3, dense (R162). -/
def Plane.start : Plane := ⟨3, false, [], [], []⟩

/-- A matrix operation under way: it reads rows of scratchpad on its own cycles (R164, R166, R167, R173, R195). -/
structure MOp where
  /-- 0 LDW, 1 LDWS, 2 MMA, 3 MMAZ, 4 OUTER -/
  kind : Nat
  issue : Nat
  tile : Nat
  rows : Nat
  period : Nat
  /-- weight, activation or output type -/
  ty : Nat
  /-- which of the core's two planes it uses or fills -/
  plane : Nat
  boxA : Box
  c0 : Int
  c1 : Int
  boxB : Box
  /-- the routine of OUTER, copied at issue -/
  rtn : List Nat
  /-- reads made so far, and the flags of the rows done -/
  next : Nat
  flags : Nat
  /-- it writes tile + 1 as well: the plane is .qc4 (R163) -/
  two : Bool
  /-- the task whose FLG its flags go to; 0: none (R172) -/
  task : Nat
  /-- OUTER's column operand, read once (R196), or the group scale G of the record a .qc4 fill is in (R166) -/
  col : List Nat
  /-- the plane it goes on reading after its core has started anew -/
  kept : Option Plane
  deriving DecidableEq, Repr

/-- The kinds of engine operation. -/
inductive OpK where
  | cpy
  | gath
  | scac
  | fold
  | scan
  | zip
  | rbfill
  | lsend
  | coll
  | pub
  /-- a vault program a core started: it runs at the vault -/
  | vrun
  /-- what the hub does for something that lands in HBM: an LSEND flit, or the merge of a box argument -/
  | land
  deriving DecidableEq, Repr

/-- Where an engine operation stands. -/
inductive OpSt where
  /-- on the departure board, or behind another operation of its engine -/
  | waiting
  | running
  | done
  deriving DecidableEq, Repr

/-- A write run of an operation still to be sent (R415): its first byte's key, its first element in iteration order, the
vault its data came from plus one (0: none), and its bytes. -/
structure WRun where
  key : Nat
  elem : Nat
  src : Nat
  bytes : List Byte
  deriving DecidableEq, Repr

/-- An engine operation (R216, R234): an engine thread from its issue to its completion. -/
structure Op where
  kind : OpK
  core : Nat
  task : Nat
  ctx : Nat
  word : Nat
  pc : Nat
  slot : Nat
  sup : Bool
  issue : Nat
  /-- the departure tick T of a CPY (R237) -/
  tick : Nat
  start : Nat
  /-- transfer end of a CPY (R408) -/
  tend : Nat
  fin : Nat
  st : OpSt
  /-- boxes in the order of the operation's fields -/
  boxes : List Box
  /-- small parameters, in the order its family states -/
  par : List Nat
  /-- a routine copied at issue (R72), words 0 to 42 -/
  rtn : List Nat
  rm : Nat
  enb : Nat
  seq : Nat
  key0 : Word
  key1 : Word
  /-- elements or units in all, and how many have been moved -/
  total : Nat
  next : Nat
  /-- working values of the family -/
  acc : List Nat
  /-- with a T2 or T3 side (R415): 0 moving locally, 1 reading, 2 writing; requests sent so far,
  bytes read so far by key, and writes still to be made by key -/
  phase : Nat
  sent : Nat
  got : List Host.Cell
  outs : List WRun
  /-- bytes it has written to HBM, by key, which its own later reads see (R241); the cycle of its next request;
  scratchpad granules written and not yet stamped, by 4096·n + granule, those of the second written box from 2^32 on (R229) -/
  ovl : List Host.Cell
  sendAt : Nat
  grans : List Nat
  /-- the cycle of its last write to a scratchpad (R229) -/
  wrote : Nat
  /-- the vault of the first of its requests that was refused (R23) -/
  busy : Option Nat
  /-- bytes of a copy to a peer that have not filled a flit yet (R311) -/
  gather : List WRun
  /-- it runs again after a routine fault: what is queued behind it waits for its completion (R203) -/
  redo : Bool
  flags : Nat
  flt : Option Flt
  /-- the lowest element that raised an enabled flag (R366) -/
  bad : Option Nat
  /-- resumption after a routine fault (R203): applications of the unit already run, and the replacement results by
  application; of a .crc copy, its final running value -/
  skip : Nat
  repl : List (Nat × List Nat)
  /-- elements of its refused requests (R23) -/
  refused : List Nat
  /-- foreign requests outstanding (R415) -/
  reqs : Nat
  /-- RTAB and PTROOT as they governed its translation, and what their tables held that has been overwritten since (R351) -/
  rtab : Nat
  ptroot : Nat
  frozen : List (Nat × Byte)
  deriving DecidableEq, Repr

/-- A foreign request (R23, R415): bytes of one 64 B column of one vault. -/
structure Req where
  /-- 0 read, 1 write; turntable updates: 2 of a SCAC, 3 of a delivery's count, 4 of a merge -/
  kind : Nat
  core : Nat
  /-- the engine operation, none for a far access -/
  op : Option Nat
  task : Nat
  vault : Nat
  addr : Nat
  len : Nat
  data : List Byte
  issue : Nat
  arrive : Nat
  /-- destination register, slot, format size in bits and sign of a far LD; nowb -/
  reg : Nat
  slot : Nat
  size : Nat
  sgn : Bool
  nb : Bool
  pc : Nat
  sup : Bool
  /-- linear index of its first element, for a refused element (R366) -/
  elem : Nat
  /-- ordering kind of its page (R211) -/
  page : Nat
  /-- of an element in sealed host memory (R359): context slot, range entry, host address, integrity region and base -/
  sealed : List Nat
  /-- 0 held by a fence, 1 travelling, 2 waiting at the station, 3 performed, 4 refused -/
  st : Nat
  /-- cycle at which it was performed -/
  done : Nat
  deriving DecidableEq, Repr

/-- A fence whose covered accesses are not all performed yet (R212, R232, R405, R406); a full fence is both kinds. -/
structure Fence where
  scope : Nat
  /-- an acquire: it holds later far accesses and forks -/
  acq : Bool
  /-- a release: it holds later far writes and forks -/
  rel : Bool
  /-- the far requests that must be performed first -/
  waits : List Nat
  /-- issue order: 8 × cycle + slot -/
  pos : Nat
  deriving DecidableEq, Repr

/-- A loop record's fields (R277). -/
structure Rec where
  trips : Nat
  budget : Nat
  spad : Nat
  tiles : Nat
  rot : Nat
  treg : Nat
  trr : Bool
  prio : Nat
  gang : Nat
  nrep : Bool
  tagc : Bool
  he : Bool
  hp : Bool
  epi : Nat
  pro : Nat
  kern : Nat
  deriving DecidableEq, Repr

/-- A timetable entry armed on a core, with its mark: 0 open, 1 done, 2 late, 3 late and done, 4 missing (R319, R323). -/
structure TEnt where
  dt : Nat
  port : Nat
  pcore : Nat
  peer : Nat
  dirIn : Bool
  pl : Nat
  nf : Nat
  u : Nat
  seq : Nat
  mark : Nat
  /-- flits landed (by number), or units read -/
  got : List Nat
  deriving DecidableEq, Repr

/-- An armed timetable (R320). -/
structure TTab where
  tbase : Nat
  ents : List TEnt
  /-- issue order of its TTARM: 8 × cycle + slot (R232) -/
  pos : Nat
  deriving DecidableEq, Repr

/-- One sequencer with its matrix array, engines and exchange unit. -/
structure Core where
  run : Run
  /-- supervisor mode (R344) -/
  sup : Bool
  pc : Nat
  /-- earliest cycle of the next issue -/
  nextAt : Nat
  /-- delay bundles still to issue, the branch's destination, and whether it was taken (R35) -/
  dly : Nat
  tgt : Nat
  taken : Bool
  hold : Hold
  pend : List Pend
  /-- deferred faults not yet taken (R361) -/
  due : List Due
  fmtQ : List FmtP
  mskQ : List MskP
  zl : List ZLev
  img : Option Image
  /-- flags raised by results of cycle `flagCyc` (R121) -/
  flagCyc : Nat
  flagBits : Nat
  /-- by slot: the cycle its latch last took a result, and that result's cycle of issue (R49) -/
  latAt : Tab (Nat × Nat)
  /-- per tile: the cycle its busy bit clears, and the row period of the chain (0: not an MMA) (R53, R174) -/
  busy : Tab Nat
  chain : Tab Nat
  /-- flags of TSTs, to be ORed when their busy bits clear: cycle, task and flags (R172) -/
  mflags : List (Nat × Nat × Nat)
  mops : List MOp
  /-- the plane that is active (0 or 1), the last cycle each plane is in use, the end of the fill and of the array entry (R166, R173) -/
  act : Nat
  use0 : Nat
  use1 : Nat
  fill : Nat
  entry : Nat
  /-- random-bit queue: words available from the head, HEAD, PEND (R124, R249) -/
  rbq : List Nat
  rbHead : Nat
  rbPend : Nat
  /-- the held running CRC, and the transfer start of the copy that last wrote CRCST (R408) -/
  crc : Nat
  crcAt : Nat
  /-- the cycle at which an MTS last set the held value (R408) -/
  crcSet : Nat
  /-- what writes of the last cycles replaced in its scratchpad, latest first: cycle, key and bytes, kept while a vault
  program over its platforms has still to start (R272) -/
  before : List (Nat × Nat × List Byte)
  /-- departure board: operation numbers in order of departure (R238) -/
  board : List Nat
  /-- last departure cycle + 1 and the end of the last transfer (R238) -/
  depFree : Nat
  xferFree : Nat
  fences : List Fence
  /-- far requests of a peer that issued them before an exchange this core has received: a far access waits for those to its
  bytes (R317) -/
  after : List Nat
  /-- far accesses waiting on a fence: request numbers; exchanges waiting on one: packet numbers -/
  heldReq : List Nat
  heldPkt : List Nat
  /-- the running task, its context slot and record -/
  task : Option Nat
  ctx : Nat
  lrec : Rec
  /-- which part runs: 0 prologue, 1 kernel, 2 epilogue (R279, R281) -/
  part : Nat
  /-- cycle the present iteration, prologue or epilogue began, and its bound (R282); held at a FINWAIT, the cycles counted -/
  iter : Nat
  bound : Nat
  /-- a spawned sibling of this core, if it is one (R289) -/
  spawner : Option Nat
  /-- held by the yard: an image being saved or moved out (R288, R300) -/
  mark : Bool
  tt : Option TTab
  ttDone : Nat
  ttLate : Nat
  ttMiss : Nat
  ttStray : Nat
  lsOut : Nat
  lsDone : Nat
  collQ : Nat
  collDone : Nat
  /-- COLLs issued at each scope code (R330) -/
  collSeq : Tab Nat
  /-- the context whose decoded image its instruction store holds (R352) -/
  image : Option Nat
  deriving DecidableEq, Repr

/-- A record of zeros. -/
def Rec.zero : Rec := ⟨0, 0, 0, 0, 0, 0, false, 0, 0, false, false, false, false, 0, 0, 0⟩

/-- A sequencer after bring-up: idle, in task mode, every field clear (logs 2, 3). -/
def Core.start : Core where
  run := .idle
  sup := false
  pc := 0
  nextAt := 0
  dly := 0
  tgt := 0
  taken := false
  hold := .none
  pend := []
  due := []
  fmtQ := []
  mskQ := []
  zl := []
  img := none
  flagCyc := 0
  flagBits := 0
  latAt := []
  busy := []
  chain := []
  mflags := []
  mops := []
  act := 0
  use0 := 0
  use1 := 0
  fill := 0
  entry := 0
  rbq := []
  rbHead := 0
  rbPend := 0
  crc := 0
  crcAt := 0
  crcSet := 0
  before := []
  board := []
  depFree := 0
  xferFree := 0
  fences := []
  after := []
  heldReq := []
  heldPkt := []
  task := none
  ctx := 0
  lrec := Rec.zero
  part := 2
  iter := 0
  bound := 0
  spawner := none
  mark := false
  tt := none
  ttDone := 0
  ttLate := 0
  ttMiss := 0
  ttStray := 0
  lsOut := 0
  lsDone := 0
  collQ := 0
  collDone := 0
  collSeq := []
  image := none

/-- A request to start a vault program (R252, R253). -/
structure VStart where
  /-- 0 a VRUN, 1 the default generator of a call -/
  kind : Nat
  task : Nat
  ctx : Nat
  issuer : Nat
  owner : Nat
  vault : Nat
  first : Nat
  roff : Nat
  uoff : Nat
  tbase : Nat
  row0 : Nat
  nrows : Nat
  rd : Bool
  wr : Bool
  issue : Nat
  sup : Bool
  /-- its engine thread, and the bundle and slot of its instruction (R402) -/
  op : Nat
  pc : Nat
  slot : Nat
  /-- the columns a default-generator program reads (false) or writes (true), in order, by byte offset in the vault (R275) -/
  cols : List (Nat × Bool)
  deriving DecidableEq, Repr

/-- A place in a vault program: next command index from the program's first command, the CK its gap counts from,
and the loop counter with its index (R254, R260). -/
structure VCur where
  idx : Nat
  pos : Nat
  lc : Nat
  li : Nat
  deriving DecidableEq, Repr

/-- A running vault program. -/
structure VProg where
  req : VStart
  cur : VCur
  /-- the read-ahead of WR and WRA units and the units read, oldest first (R272) -/
  ahead : VCur
  units : List (List Byte)
  issued : Nat
  /-- granule and latest delivery cycle of the program's reads (R273) -/
  lastD : Tab Nat
  /-- the latest stamp of the program (R274) -/
  stamp : Nat
  /-- no command at or after this CK issues (R255) -/
  stop : Option Nat
  /-- closing: the cycle at which it ends, the real CK of its last precharge, and whether it came to its HALT (R403) -/
  ends : Option Nat
  last : Option Nat
  halted : Bool
  deriving DecidableEq, Repr

/-- One bank: the open row and the real CK (plus one; 0 = never) of its last commands (R259 to R263). -/
structure Bank where
  row : Option Nat
  act : Nat
  pre : Nat
  rd : Nat
  wr : Nat
  ref : Nat
  debt : Int
  deriving DecidableEq, Repr

/-- A bank at reset: closed, debt 0 (R394 step 5). -/
def Bank.start : Bank := ⟨none, 0, 0, 0, 0, 0, 0⟩

/-- One pseudo-channel: its last column command, its last ACTs (latest first) and its last REFAB, real CK plus one. -/
structure PChan where
  colCk : Nat
  colBg : Nat
  /-- last RD -/
  rdCk : Nat
  acts : List (Nat × Nat)
  refab : Nat
  /-- real CK of the next accrual (R265) -/
  accrue : Nat
  /-- a refresh forced by a debt at its limit is under way (R266) -/
  forced : Bool
  /-- columns the scrub has read (R383) -/
  scrub : Nat
  deriving DecidableEq, Repr

/-- A pseudo-channel at reset. -/
def PChan.start : PChan := ⟨0, 0, 0, [], 0, 6240, false, 0⟩

/-- One signal box with its station. -/
structure Vault where
  queue : List VStart
  prog : Option VProg
  banks : Tab Bank
  chans : Tab PChan
  /-- waiting far requests in arrival order, up to 256 (R23) -/
  waiting : List Nat
  /-- an open window: first CK and the CK after its last (R268) -/
  window : Option (Nat × Nat)
  /-- the box is settled no earlier than this cycle (R254) -/
  settled : Nat
  /-- the far request being served: its number, the CK and the real CK of its ACT, and the CK of its last column command
  (R268) -/
  serve : Option (Nat × Nat × Nat × Nat)
  /-- default-generator programs that have not entered the queue (R275) -/
  gens : List VStart
  deriving DecidableEq, Repr

def Vault.start : Vault := ⟨[], none, [], [], [], none, 0, none, []⟩

/-- Where a task stands. -/
inductive TaskSt where
  | queued
  | starting
  | running
  /-- suspended at a FINWAIT or pre-empted -/
  | suspended
  | restoring
  | returning
  | merging
  | done
  /-- failed, not yet settled: re-executed or reported (R376) -/
  | stopped
  | failed
  deriving DecidableEq, Repr

/-- The image of a box argument (R287): its argument number, the parent's box, the child's box, the marked 4-byte
elements (R296), and the bytes of the inward and of the outward image by offset from the image's first byte. -/
structure Img where
  arg : Nat
  parent : Box
  child : Box
  marks : List Nat
  vals : List Host.Cell
  out : List Host.Cell
  /-- merged already, by requests to a vault station (R415) -/
  merged : Bool
  deriving DecidableEq, Repr

/-- What a context save stores of a core (R300, R372). -/
structure Saved where
  /-- the core it was saved from -/
  left : Nat
  core : Core
  xs : Tab Word
  vs : Tab VWord
  ps : Tab PWord
  bs : Tab Box
  tl : Tab TWord
  srs : Tab Word
  spad : List Host.Cell
  tags : Tab Tag
  planes : Tab Plane
  /-- FINWAIT's scope, if it waits on one -/
  scope : Option Nat
  counter : Nat
  /-- the slot of the record, its save counter and its tag (R337) -/
  slot : Nat
  count : Nat
  tag : BitVec 128
  deriving DecidableEq, Repr

/-- The tag of a record under the seal key of a power-up, with its slot and counter as the nonce; the record's own tag counts as
zero (R337; log 9). -/
opaque sealTag (epoch : Nat) (v : Saved) : BitVec 128

/-- Is a record the one that Sirlen sealed last for its slot (R337)? -/
def Saved.genuine (v : Saved) (epoch slot latest : Nat) : Bool :=
  v.slot == slot && v.count == latest && v.tag == sealTag epoch { v with tag := 0 }

/-- A task (R276 to R301, R374 to R378). -/
structure Task where
  ctx : Nat
  recIdx : Nat
  lrec : Rec
  tier : Nat
  caller : Option Nat
  /-- the scope it was called into: 256·die + entry -/
  scope : Option Nat
  gen : Nat
  /-- call order: tick, then device core number or SEQ (R297, R333) -/
  tick : Nat
  tie : Nat
  /-- gang size, member index and number of the gang's first member task -/
  gang : Nat
  member : Nat
  lead : Nat
  args : List Word
  boxes : List (Option Box)
  imgs : List Img
  st : TaskSt
  core : Option Nat
  yard : Nat
  /-- the core its caller stood on, or the first of the yard's die -/
  origin : Nat
  /-- cycle it entered the queue, and the cycle its image is ready -/
  since : Nat
  ready : Nat
  domain : Word
  key0 : Word
  key1 : Word
  ctr0 : Word
  ctr1 : Word
  saved : Option Saved
  retries : Nat
  escaped : Bool
  changed : Bool
  /-- cause of its failure -/
  cause : Nat
  /-- cycle of its last dispatch -/
  placed : Nat
  /-- pre-emption requested, at the first boundary of this index or later (R300, R301) -/
  preempt : Option Nat
  /-- mailbox SEQ of a root -/
  seq : Option Nat
  /-- scopes it has opened and not freed -/
  scopes : List Nat
  deriving DecidableEq, Repr

/-- A finish scope (R290 to R292). -/
structure Scope where
  gen : Nat
  live : Bool
  owner : Nat
  parent : Option Nat
  /-- tasks called into it -/
  tasks : List Nat
  /-- child and merge faults to be reported: sort key and fault -/
  faults : List Flt
  /-- flags of merges made already, for the owner's FLG at its FINWAIT (R296) -/
  flags : Nat
  freed : Nat
  /-- bytes that merges of other scopes replaced since it opened: memory, key and the byte before (R294) -/
  old : List (Space × Nat × Byte)
  deriving DecidableEq, Repr

/-- A yard (R25, R297 to R303). -/
structure Yard where
  request : Option Nat
  reserve : Option (Nat × List Nat)
  deriving DecidableEq, Repr

/-- A publication window of a context (R233, R354). -/
structure Win where
  base : Nat
  half : Nat
  front : Bool
  version : Nat
  vaddr : Nat
  sealed : Bool
  busy : Bool
  deriving DecidableEq, Repr

/-- A decoded image (R352). -/
structure Code where
  bundles : List (BitVec 256)
  records : List (List Nat)
  routines : List (List Nat)
  vault : List Nat
  timetable : List (List Nat)
  roots : List Box
  deriving DecidableEq, Repr

/-- A context slot (R335, R336, R345, R351). -/
structure Ctx where
  code : Option Code
  accepted : Bool
  keyed : Bool
  key : List Nat
  session : Nat
  meas : List Byte
  rtab : Nat
  ptroot : Nat
  varena : Nat
  /-- the values that govern translation (R345) -/
  rtabNow : Nat
  ptrootNow : Nat
  /-- bytes of its tables that stand as an operation was translated by them: set where such an operation is looked at, empty
  otherwise (R351) -/
  frozen : List (Nat × Byte)
  /-- save counters, by the slot of the record (R337) -/
  saves : Tab Nat
  wins : Tab Win
  cores : Nat
  deriving DecidableEq, Repr

/-- A context slot nothing has used: no key, no image, its measurement 48 bytes of zero (R336, R357). -/
def Ctx.start : Ctx := ⟨none, false, false, [], 0, List.replicate 48 0#8, 0, 0, 0, 0, 0, [], [], [], 0⟩

/-- A Golvar port (R311, R312, R331, R358). -/
structure Port where
  mode : Nat
  lat : Nat
  peer : Nat
  peerPort : Nat
  attested : Bool
  /-- frames sealed under the present link key, and the keys before it (R358) -/
  frames : Nat
  keys : Nat
  /-- 125 times the tick at which the port has carried all that was given to it (R311) -/
  busy : Nat
  resends : Nat
  /-- flits the port has carried since it came up: its flit stream (R385; log 97) -/
  carried : Nat
  /-- flits in the retry buffer and flits that wait for it -/
  retry : List Nat
  waits : List Nat
  deriving DecidableEq, Repr

def Port.start : Port := ⟨0, 0, 0, 0, false, 0, 0, 0, 0, 0, [], []⟩

/-- A packet: an exchange in flight, a timetable flit, an LSEND flit or a delivery (R315, R321, R325). -/
structure Pkt where
  /-- 0 exchange, 1 timetable flit, 2 LSEND flit, 3 platform delivery, 4 start request, 5 stamp, 6 a flit kept until it is
  acknowledged, 7 a passing flit of another device's copy -/
  kind : Nat
  src : Nat
  dst : Nat
  port : Nat
  issue : Nat
  arrive : Nat
  mesh : Bool
  seq : Nat
  num : Nat
  op : Nat
  addr : Nat
  data : List Byte
  tag : Option Nat
  tries : Nat
  /-- of an LSEND flit: its destination and counter boxes by their handles, and its producer (R247, R325) -/
  boxes : List Box
  prod : Nat
  deriving DecidableEq, Repr

/-- What leaves the device. -/
inductive Out where
  /-- a flit: the tick at which its last byte has left, and what it carries under seal -/
  | flit (port leave : Nat) (data : List Byte)
  | hostWrite (addr : Nat) (data : List Byte)
  /-- bytes a host read of a window returns (R355) -/
  | hostRead (ctx win off : Nat) (data : List Byte)
  | ptp (port t : Nat)
  | report (data : List Byte)
  | event (code arg : Nat)
  | barrier (level count tick : Nat)
  deriving DecidableEq, Repr

/-- A record too long for the trap registers, as it stands in a context's save area: the slot, the byte offset the trap
record names, and its words (R366). -/
structure AreaRec where
  ctx : Nat
  off : Nat
  words : List Nat
  deriving DecidableEq, Repr

/-- What the device holds once: time, device registers, power, ports, supervisor events. -/
structure Dev where
  /-- CTIME reads cycle + `toff` modulo 2^64 (R5, R309) -/
  toff : Nat
  pod : Nat
  member : Nat
  /-- identifier of the device (R16) -/
  ident : Nat
  /-- device-wide system registers by number (R344) -/
  sr : Tab Word
  routes : Tab Word
  ports : Tab Port
  /-- stretch level, the cycle it last changed, real CK then, and the levels of the last changes, latest first, each with
  its first cycle (R387 to R389) -/
  level : Nat
  levelAt : Nat
  realAt : Nat
  /-- eighths of an idle CK due at `levelAt` (R6, R256) -/
  frac : Nat
  deficits : List (Nat × Nat)
  cap : Nat
  capHold : Bool
  thermHold : Bool
  tripped : Bool
  sensors : Tab Nat
  /-- the largest 1 ms stretch deficit since sensor 8 was last updated, and the cycle up to which it is taken (R393) -/
  peak : Nat
  peakTo : Nat
  lock : Bool
  fwNext : Nat
  measFw : List Byte
  measSup : List Byte
  sealEpoch : Nat
  mailbox : Nat
  take : Nat
  doneCnt : Nat
  /-- XINV removals under way: slots, oldest first (R351) -/
  xinv : List Nat
  /-- events to the supervisor: code and argument -/
  supEvents : List (Nat × Nat)
  outbox : List Out
  /-- records in the save areas, oldest first (R366; logs 33, 65) -/
  areaRecs : List AreaRec
  deriving DecidableEq, Repr

/-- The device after step 7 of bring-up (R395, R390; log 2, log 3). -/
def Dev.start : Dev where
  toff := 0
  pod := 0
  member := 0
  ident := 0
  sr := [(0x015, 0xFFFF#64), (0x138, 0xFFFFFFFFFFFFFFFF#64), (0x139, 0xFFFFFFFFFFFFFFFF#64),
    (0x13A, 0xFFFFFFFFFFFFFFFF#64), (0x13B, 0xFFFFFFFFFFFFFFFF#64), (0x13C, 0x2222222222222222#64),
    (0x13E, 0x00100001#64), (0x151, 1#64)]
  routes := []
  ports := []
  level := 0
  levelAt := 0
  realAt := 0
  frac := 0
  deficits := []
  cap := 2000
  capHold := false
  thermHold := false
  tripped := false
  sensors := [(11, 2000)]
  peak := 0
  peakTo := 0
  lock := true
  fwNext := 0
  measFw := List.replicate 48 0#8
  measSup := List.replicate 48 0#8
  sealEpoch := 1
  mailbox := 0
  take := 0
  doneCnt := 0
  xinv := []
  supEvents := []
  outbox := []
  areaRecs := []

/-- An item of the agenda: what is due, its cycle and its phase within the cycle (log 7). -/
structure Item where
  due : Nat
  ph : Nat
  ev : Instr
  deriving DecidableEq, Repr

/-- The operation now issuing: its core, slot and the vault of a vault command (log 7). -/
structure Iss where
  core : Nat
  slot : Nat
  vault : Nat
  /-- the slot's word, for records that name it (R366) -/
  word : Nat
  deriving DecidableEq, Repr

/-- The whole state of the device. -/
structure State where
  /-- package cycles counted (R4) -/
  cycle : Nat
  /-- x1 to x63 by 64·n + number -/
  xreg : Tab Word
  /-- physical v0 to v63 by 64·n + number -/
  vreg : Tab VWord
  /-- physical p1 to p15 by 16·n + number -/
  preg : Tab PWord
  /-- b0 to b15 by 16·n + number; unlisted holds no box -/
  breg : Tab Box
  /-- l1 to l7 by 8·n + number -/
  latch : Tab VWord
  /-- tile words by ((8·n + tile)·128 + row)·256 + column -/
  tile : Tab TWord
  /-- system registers of a core by 4096·n + number -/
  sysreg : Tab Word
  /-- granule tags by 4096·n + granule -/
  tags : Tab Tag
  /-- instruction stores by 16384·n + address, and supervisor stores by 1024·n + address -/
  istore : Tab (BitVec 256)
  sstore : Tab (BitVec 256)
  /-- weight planes by 2·n + plane -/
  planes : Tab Plane
  /-- scratchpads by 2^22·n + byte -/
  spad : List Host.Cell
  /-- HBM by 2^31·vault + byte -/
  dram : List Host.Cell
  /-- host physical memory by byte -/
  hostm : List Host.Cell
  /-- bits flipped beneath SEC-DED: place (0 scratchpad, 1 HBM), byte address and mask (R380, R385) -/
  upsets : List (Nat × Nat × Nat)
  cores : Tab Core
  vaults : Tab Vault
  yards : Tab Yard
  tasks : Tab Task
  scopes : Tab Scope
  ctxs : Tab Ctx
  ops : Tab Op
  reqs : Tab Req
  pkts : Tab Pkt
  dev : Dev
  agenda : List Item
  /-- counter of the free values and next identifier: the model's own (log 8) -/
  fresh : Nat
  nid : Nat
  iss : Iss
  deriving DecidableEq, Repr

/-- Why the machine can stop. The manual stops the whole machine nowhere; every fault it describes is taken as a trap. -/
inductive Fault where
  /-- an access to an agent that does not exist (a core above 163, a vault above 159): raised by no event the
  machine posts itself; safe -/
  | noSuchAgent
  deriving DecidableEq, Repr

/-- Why a step can be refused. -/
inductive Refusal where
  /-- an instruction without a meaning yet: raised by its arm of `exec`; safe -/
  | notModelled (mnemonic : String)
  deriving DecidableEq, Repr

/-- The machine after step 7 of bring-up, before the first context (R394, R395; log 2). -/
def State.reset : State where
  cycle := 0
  xreg := []
  vreg := []
  preg := []
  breg := []
  latch := []
  tile := []
  sysreg := (List.range 164).map (fun n => (4096 * n + 5, 3#64))
  tags := []
  istore := []
  sstore := []
  planes := []
  spad := []
  dram := []
  hostm := []
  upsets := []
  cores := []
  vaults := []
  yards := []
  tasks := []
  scopes := []
  ctxs := []
  ops := []
  reqs := []
  pkts := []
  dev := Dev.start
  agenda := [⟨3120, 2, .refreshAccrual 0 0⟩]
  fresh := 0
  nid := 1
  iss := ⟨0, 0, 0, 0⟩

end Sys2Proof.Machine
end

