-- ==== Sys2Proof/Machine/Ops.lean ====
section
/-! DEFINITION. The named operations over the state: tables, memory, registers, the updates every meaning is made of,
taking a trap and returning from it, fencing, time and routes. -/

namespace Sys2Proof.Machine

/-! ### Tables -/

/-- Read a table; `d` is what an unlisted key reads as. -/
def tget {α : Type} (d : α) : Tab α → Nat → α
  | [], _ => d
  | (a, v) :: r, k => if a == k then v else if k < a then d else tget d r k

/-- Write a table. -/
def tput {α : Type} : Tab α → Nat → α → Tab α
  | [], k, v => [(k, v)]
  | (a, w) :: r, k, v =>
    if a == k then (k, v) :: r else if k < a then (k, v) :: (a, w) :: r else (a, w) :: tput r k v

/-- Remove a key. -/
def tdel {α : Type} (m : Tab α) (k : Nat) : Tab α := m.filter (fun e => e.1 != k)

/-- The entry of a key, if listed. -/
def tfind {α : Type} (m : Tab α) (k : Nat) : Option α := (m.find? (fun e => e.1 == k)).map (·.2)

/-- Drop the keys from lo to lo + len − 1. -/
def tclear {α : Type} (m : Tab α) (lo len : Nat) : Tab α := m.filter (fun e => e.1 < lo || lo + len ≤ e.1)

/-- The entries with keys from lo to lo + len − 1, renumbered from 0. -/
def tslice {α : Type} (m : Tab α) (lo len : Nat) : Tab α :=
  (m.filter (fun e => lo ≤ e.1 && e.1 < lo + len)).map (fun e => (e.1 - lo, e.2))

/-- Entries written back from lo on. -/
def tplace {α : Type} (m : Tab α) (lo : Nat) : Tab α → Tab α
  | [] => m
  | (k, v) :: r => tplace (tput m (lo + k) v) lo r

/-! ### Memory: a canonical list of cells, an unlisted byte reads 0 (DESIGN CHOICE, log 4) -/

/-- A byte of memory. -/
def memGet (m : List Host.Cell) (a : Nat) : Byte := tget 0#8 m a

/-- Remove the cell of an address from a rising list. -/
def memDrop : List Host.Cell → Nat → List Host.Cell
  | [], _ => []
  | (b, w) :: r, a => if b == a then r else if a < b then (b, w) :: r else (b, w) :: memDrop r a

/-- Write a byte; writing 0 removes the cell. -/
def memSet (m : List Host.Cell) (a : Nat) (v : Byte) : List Host.Cell :=
  if v == 0#8 then memDrop m a else tput m a v

/-- Write consecutive bytes. -/
def memSets (m : List Host.Cell) (a : Nat) : List Byte → List Host.Cell
  | [] => m
  | v :: r => memSets (memSet m a v) (a + 1) r

/-- Read n consecutive bytes. -/
def memGets (m : List Host.Cell) (a : Nat) : Nat → List Byte
  | 0 => []
  | n + 1 => memGet m a :: memGets m (a + 1) n

/-- The canonical form: addresses strictly rising, no cell 0. -/
def Memory.wfFrom (lo : Nat) : List Host.Cell → Bool
  | [] => true
  | (a, v) :: r => lo ≤ a && v != 0#8 && Memory.wfFrom (a + 1) r
def Memory.wf (m : List Host.Cell) : Bool := Memory.wfFrom 0 m

/-- Little-endian bytes of a number (R30, R107). -/
def bytesOf : Nat → Nat → List Byte
  | 0, _ => []
  | n + 1, v => BitVec.ofNat 8 v :: bytesOf n (v / 256)

/-- A number from little-endian bytes. -/
def natOf : List Byte → Nat
  | [] => 0
  | b :: r => b.toNat + 256 * natOf r

/-! ### Reading the state -/

/-- A sequencer's record. -/
def State.core (s : State) (n : Nat) : Core := tget Core.start s.cores n
def State.vault (s : State) (v : Nat) : Vault := tget Vault.start s.vaults v
def State.yard (s : State) (d : Nat) : Yard := tget ⟨none, none⟩ s.yards d
def State.ctx (s : State) (k : Nat) : Ctx := tget Ctx.start s.ctxs k
def State.port (s : State) (p : Nat) : Port := tget Port.start s.dev.ports p

/-- A scalar register; x0 reads 0 (R47). -/
def State.x (s : State) (n r : Nat) : Word := if r == 0 then 0 else tget 0 s.xreg (64 * n + r)
/-- A physical vector register. -/
def State.v (s : State) (n r : Nat) : VWord := tget 0 s.vreg (64 * n + r)
/-- A physical predicate; p0 reads all ones (R47). -/
def State.p (s : State) (n r : Nat) : PWord := if r == 0 then BitVec.allOnes 128 else tget 0 s.preg (16 * n + r)
/-- A box register, none when it holds no box. -/
def State.b (s : State) (n r : Nat) : Option Box := tfind s.breg (16 * n + r)
/-- A latch; l0 does not exist and reads 0. -/
def State.l (s : State) (n k : Nat) : VWord := tget 0 s.latch (8 * n + k)
/-- A tile word. -/
def State.t (s : State) (n tl row col : Nat) : TWord := tget 0 s.tile (((8 * n + tl) * 128 + row) * 256 + col)
/-- A stored system register of a core. -/
def State.sr (s : State) (n r : Nat) : Word := tget 0 s.sysreg (4096 * n + r)
/-- A stored system register of the device. -/
def State.dsr (s : State) (r : Nat) : Word := tget 0 s.dev.sr r
/-- A granule's tag. -/
def State.tag (s : State) (n g : Nat) : Tag := tget 0 s.tags (4096 * n + g)
/-- A weight plane. -/
def State.plane (s : State) (n k : Nat) : Plane := tget Plane.start s.planes (2 * n + k)

/-- One memory. -/
def State.mem (s : State) : Space → List Host.Cell
  | .spad => s.spad
  | .dram => s.dram
  | .host => s.hostm
/-- Bytes of a memory. -/
def State.bytes (s : State) (sp : Space) (a n : Nat) : List Byte := memGets (s.mem sp) a n

/-- CTIME at this cycle (R5). -/
def State.ctime (s : State) : Nat := (s.cycle + s.dev.toff) % 2 ^ 64

/-! ### System register numbers (R344) -/

def srFMT : Nat := 0x001
def srMSKSEL : Nat := 0x002
def srROTB : Nat := 0x003
def srCORECAP : Nat := 0x005
def srDOMAIN : Nat := 0x006
def srTRIPC : Nat := 0x007
def srSYNCCNT : Nat := 0x008
def srFSUM : Nat := 0x009
def srDZNEXT : Nat := 0x00A
def srCRCST : Nat := 0x00B
def srRBSEQ : Nat := 0x00D
def srRBKEY0 : Nat := 0x00E
def srRBCTR0 : Nat := 0x010
def srRBCV0 : Nat := 0x012
def srPLAT0 : Nat := 0x018
def srTREC0 : Nat := 0x100
def srEPC : Nat := 0x110
def srSVCN : Nat := 0x111
def srSVEC : Nat := 0x112
def srTAGSEL : Nat := 0x170

/-- Fields of a word. -/
def wbits (w : Word) (lo len : Nat) : Nat := bitsOf w.toNat lo len

/-- Fields of FMT (R113). -/
def fmtEtype (f : Word) : Nat := wbits f 0 4
def fmtCtype (f : Word) : Nat := wbits f 4 4
def fmtRnd (f : Word) : Nat := wbits f 8 3
def fmtFtz (f : Word) : Bool := wbits f 11 1 == 1
def fmtSrsrc (f : Word) : Nat := wbits f 12 1
def fmtFlg (f : Word) : Nat := wbits f 16 6
def fmtEnb (f : Word) : Nat := wbits f 24 5

/-- A rotating vector name's physical register (R48). -/
def vphys (rotb : Word) (n : Nat) : Nat :=
  if n < 16 then n else 16 + (n - 16 + wbits rotb 0 6) % 48
/-- A rotating predicate name's physical register (R48). -/
def pphys (rotb : Word) (n : Nat) : Nat :=
  if n < 8 then n else 8 + (n - 8 + wbits rotb 8 3) % 8

/-! ### Updates -/

/-- What a meaning does to the state: every meaning is a list of these. Memory is touched
by `mem`, and emptied by `bring`. -/
inductive Upd where
  | core (n : Nat) (f : Core → Core)
  | x (n r : Nat) (v : Word)
  | v (n phys : Nat) (mask v : VWord)
  | p (n phys : Nat) (mask v : PWord)
  | b (n r : Nat) (box : Option Box)
  | lat (n k : Nat) (v : VWord)
  | tile (key : Nat) (v : TWord)
  | sr (n r : Nat) (v : Word)
  | tag (n g : Nat) (v : Tag)
  | istore (key : Nat) (v : BitVec 256)
  /-- a core's whole instruction store replaced -/
  | load (n : Nat) (bs : List (BitVec 256))
  | sstore (key : Nat) (v : BitVec 256)
  | plane (key : Nat) (v : Plane)
  /-- task-start values of every register of a core (R279) -/
  | clear (n : Nat)
  /-- the latches of a core cleared (R49) -/
  | unlatch (n : Nat)
  /-- the registers of a saved context put back -/
  | restore (n : Nat) (c : Saved)
  | mem (sp : Space) (addr : Nat) (bytes : List Byte)
  | upset (l : List (Nat × Nat × Nat))
  | vault (v : Nat) (f : Vault → Vault)
  | yard (d : Nat) (f : Yard → Yard)
  | task (t : Nat) (f : Task → Task)
  | newTask (t : Task)
  | delTask (t : Nat)
  | scope (k : Nat) (f : Scope)
  | ctx (k : Nat) (f : Ctx → Ctx)
  | op (o : Nat) (f : Op → Op)
  | newOp (o : Op)
  | delOp (o : Nat)
  | req (r : Nat) (f : Req → Req)
  | newReq (r : Req)
  | delReq (r : Nat)
  | newPkt (k : Pkt)
  | pkt (k : Nat) (f : Pkt → Pkt)
  | delPkt (k : Nat)
  | dev (f : Dev → Dev)
  | post (i : Item)
  | fresh
  | iss (i : Iss)
  | cycle (c : Nat)
  | unagenda (keep : Item → Bool)
  /-- power-up: everything as at reset but what stands outside the package (R394) -/
  | bring (fw : Nat) (keep : Item → Bool)

/-- Items in order of cycle and phase, later ones behind earlier ones of the same place. -/
def postItem (i : Item) : List Item → List Item
  | [] => [i]
  | j :: r => if i.due < j.due || (i.due == j.due && i.ph < j.ph) then i :: j :: r else j :: postItem i r

/-- A listed entry changed; an unlisted one stays unlisted. -/
def tmod {α : Type} (m : Tab α) (k : Nat) (f : α → α) : Tab α :=
  m.map (fun e => if e.1 == k then (e.1, f e.2) else e)

/-- Replace memory `sp`. -/
def State.setMem (s : State) (sp : Space) (m : List Host.Cell) : State :=
  match sp with
  | .spad => { s with spad := m }
  | .dram => { s with dram := m }
  | .host => { s with hostm := m }

/-- One update. Writes to x0 and p0 are discarded (R43). -/
def Upd.apply (u : Upd) (s : State) : State :=
  match u with
  | .core n f => { s with cores := tput s.cores n (f (s.core n)) }
  | .x n r val => if r == 0 then s else { s with xreg := tput s.xreg (64 * n + r) val }
  | .v n r msk val =>
    { s with vreg := tput s.vreg (64 * n + r) ((s.v n r &&& ~~~msk) ||| (val &&& msk)) }
  | .p n r msk val =>
    if r == 0 then s
    else { s with preg := tput s.preg (16 * n + r) ((s.p n r &&& ~~~msk) ||| (val &&& msk)) }
  | .b n r box =>
    { s with breg := match box with
        | some bx => tput s.breg (16 * n + r) bx
        | none => tdel s.breg (16 * n + r) }
  | .lat n k val => { s with latch := tput s.latch (8 * n + k) val }
  | .tile k val => { s with tile := tput s.tile k val }
  | .sr n r val => { s with sysreg := tput s.sysreg (4096 * n + r) val }
  | .tag n g val => { s with tags := tput s.tags (4096 * n + g) val }
  | .istore k val => { s with istore := tput s.istore k val }
  | .load n bs => { s with
      istore := tplace (tclear s.istore (16384 * n) 16384) (16384 * n) ((List.range bs.length).zip bs) }
  | .sstore k val => { s with sstore := tput s.sstore k val }
  | .plane k val => { s with planes := tput s.planes k val }
  | .clear n =>
    { s with
      xreg := tclear s.xreg (64 * n) 64
      vreg := tclear s.vreg (64 * n) 64
      preg := tclear s.preg (16 * n) 16
      breg := tclear s.breg (16 * n) 16
      latch := tclear s.latch (8 * n) 8
      tile := tclear s.tile (8 * n * 32768) (8 * 32768)
      planes := tclear s.planes (2 * n) 2
      sysreg := tclear (tclear s.sysreg (4096 * n + 1) 4) (4096 * n + 6) 0xFA }
  | .unlatch n => { s with latch := tclear s.latch (8 * n) 8 }
  | .restore n c =>
    { s with
      xreg := tplace (tclear s.xreg (64 * n) 64) (64 * n) c.xs
      vreg := tplace (tclear s.vreg (64 * n) 64) (64 * n) c.vs
      preg := tplace (tclear s.preg (16 * n) 16) (16 * n) c.ps
      breg := tplace (tclear s.breg (16 * n) 16) (16 * n) c.bs
      latch := tclear s.latch (8 * n) 8
      tile := tplace (tclear s.tile (8 * n * 32768) (8 * 32768)) (8 * n * 32768) c.tl
      planes := tplace (tclear s.planes (2 * n) 2) (2 * n) c.planes
      sysreg := tplace (tclear (tclear s.sysreg (4096 * n + 1) 4) (4096 * n + 6) 0xFA) (4096 * n) c.srs
      tags := tplace (tclear s.tags (4096 * n) 4096) (4096 * n) c.tags }
  | .mem sp a bs => s.setMem sp (memSets (s.mem sp) a bs)
  | .upset l => { s with upsets := l }
  | .vault k g => { s with vaults := tput s.vaults k (g (s.vault k)) }
  | .yard k g => { s with yards := tput s.yards k (g (s.yard k)) }
  | .task k g => { s with tasks := tmod s.tasks k g }
  | .newTask a => { s with tasks := tput s.tasks s.nid a, nid := s.nid + 1 }
  | .delTask k => { s with tasks := tdel s.tasks k }
  | .scope k a => { s with scopes := tput s.scopes k a }
  | .ctx k g => { s with ctxs := tput s.ctxs k (g (s.ctx k)) }
  | .op k g => { s with ops := tmod s.ops k g }
  | .newOp a => { s with ops := tput s.ops s.nid a, nid := s.nid + 1 }
  | .delOp k => { s with ops := tdel s.ops k }
  | .req k g => { s with reqs := tmod s.reqs k g }
  | .newReq a => { s with reqs := tput s.reqs s.nid a, nid := s.nid + 1 }
  | .delReq k => { s with reqs := tdel s.reqs k }
  | .newPkt a => { s with pkts := tput s.pkts s.nid a, nid := s.nid + 1 }
  | .pkt k g => { s with pkts := tmod s.pkts k g }
  | .delPkt k => { s with pkts := tdel s.pkts k }
  | .dev g => { s with dev := g s.dev }
  | .post a => { s with agenda := postItem a s.agenda }
  | .fresh => { s with fresh := s.fresh + 1 }
  | .iss a => { s with iss := a }
  | .cycle k => { s with cycle := k }
  | .unagenda keep => { s with agenda := s.agenda.filter keep }
  | .bring fw keep => { State.reset with
      cycle := s.cycle
      sstore := (List.range (164 * 1024)).map (fun a => (a, Config.firmware fw (a % 1024)))
      hostm := s.hostm
      fresh := s.fresh
      nid := s.nid
      dev := { Dev.start with
        toff := 2 ^ 64 - s.cycle % 2 ^ 64
        levelAt := s.cycle
        sealEpoch := s.dev.sealEpoch + 1
        fwNext := fw
        outbox := s.dev.outbox }
      agenda := postItem ⟨s.cycle + 3120, 2, .refreshAccrual 0 0⟩ (s.agenda.filter keep) }

/-- Updates in order. -/
def applyAll : List Upd → State → State
  | [], s => s
  | u :: r, s => applyAll r (u.apply s)

/-- A piece of a meaning: the updates it makes, from the state it starts in. -/
abbrev Act := State → List Upd

/-- Pieces in order, each from the state the one before it leaves. -/
def seqA : List Act → Act
  | [], _ => []
  | a :: r, s =>
    let u := a s
    u ++ seqA r (applyAll u s)

/-- A piece made only when a condition holds in the state it starts in. -/
def whenA (c : State → Bool) (a : Act) : Act := fun s => if c s then a s else []

/-- A piece for every element of a list, in order. -/
def forA {α : Type} (l : List α) (a : α → Act) : Act := seqA (l.map a)

/-- Updates that do not depend on the state. -/
def pureA (l : List Upd) : Act := fun _ => l

/-- The outcome of a meaning: always a next state. -/
def done (a : Act) (s : State) : Host.Outcome State Fault Refusal := .next (applyAll (a s) s)

/-- An event posted at a cycle and phase. -/
def postU (due ph : Nat) (ev : Instr) : Upd := .post ⟨due, ph, ev⟩

/-! ### Stations and routes (R9 to R14) -/

/-- A station: die (4 is the hub), column and row. -/
structure Stn where
  die : Nat
  x : Nat
  y : Nat
  deriving DecidableEq, Repr

/-- The station of a core; a control core stands at the hub (log 13). -/
def coreStn (n : Nat) : Stn := if n < 160 then ⟨n / 40, n % 10, n % 40 / 10⟩ else ⟨4, 0, 0⟩
/-- The station of a vault (R12, R402). -/
def vaultStn (v : Nat) : Stn := ⟨v / 40, v % 10, 4⟩
/-- The vault of a core's own column and lane (R12). -/
def ownVault (n : Nat) : Nat := n / 40 * 40 + n % 40 / 10 * 10 + n % 10
/-- The quad of a core within its die (R10). -/
def quadOf' (n : Nat) : Nat := n % 10 / 2 + 5 * (n % 40 / 10 / 2)
/-- The quad position of a core (R289). -/
def quadPos (n : Nat) : Nat := n % 10 % 2 + 2 * (n % 40 / 10 % 2)
/-- The core at a quad position of another core's quad. -/
def quadMate (n q : Nat) : Nat :=
  n / 40 * 40 + (n % 40 / 10 / 2 * 2 + q / 2) * 10 + (n % 10 / 2 * 2 + q % 2)

/-- Distance of two coordinates. -/
def absDiff (a b : Nat) : Nat := if a ≤ b then b - a else a - b

/-- Hops of a route, summed over the dies crossed (R13, R14). -/
def hops (a b : Stn) : Nat :=
  if a.die == b.die then absDiff a.x b.x + absDiff a.y b.y else a.y + absDiff a.x b.x + b.y

/-- Bridge cycles of a route: none on one die, 24 to an edge neighbour or the hub, 48 to the diagonal die (R14). -/
def bridge (a b : Stn) : Nat :=
  if a.die == b.die then 0 else if a.die + b.die == 3 && a.die < 4 && b.die < 4 then 48 else 24

/-- The route time that 2h stands for (R253). -/
def routeTime (a b : Stn) : Nat := 2 * hops a b + bridge a b

/-! ### Traps (R363 to R370) -/

/-- A record with nothing in it but a cause. -/
def Flt.of (cause : Nat) : Flt := ⟨cause, 0, 0, [], 0, 0, [], 0⟩

/-- Eight slot-cause bytes as a word (R364). -/
def packSlots : List Nat → Nat
  | [] => 0
  | b :: r => b % 256 + 256 * packSlots r

/-- The supervisor event codes: 1 fence, 2 integrity, 3 time, 4 save area, 5 host access, 6 stretch limit,
7 thermal warning, 8 link, 9 DRAM column; 10 goes out over SMBus alone: a step of bring-up that failed. -/
def evFence : Nat := 1
def evIntegrity : Nat := 2
def evTime : Nat := 3
def evSaveArea : Nat := 4
def evHost : Nat := 5
def evStretch : Nat := 6
def evThermal : Nat := 7
def evLink : Nat := 8
def evColumn : Nat := 9
def evBringUp : Nat := 10

/-- An event sent to the supervisor. -/
def supEvent (code arg : Nat) : Upd := .dev (fun d => { d with supEvents := d.supEvents ++ [(code, arg)] })

/-- A device register's bit set or cleared. -/
def setBit (w : Word) (k : Nat) (on : Bool) : Word :=
  if on then w ||| (1#64 <<< k) else w &&& ~~~(1#64 <<< k)

/-- The fence bit of a core is FCTL(die) bit index (R384); the control cores have none. -/
def coreFenced (s : State) (n : Nat) : Bool :=
  if n < 160 then (s.dsr (0x130 + n / 40)).getLsbD (n % 40) else (s.core n).run == .fenced
def vaultFenced (s : State) (v : Nat) : Bool := (s.dsr (0x134 + v / 40)).getLsbD (v % 10 + 10 * (v % 40 / 10))
/-- Does a spare of its stack serve a pseudo-channel of vault v (R382, R384, R413)? -/
def spared (s : State) (v pc : Nat) : Bool :=
  (List.range 8).any (fun k => wbits (s.dsr (0x138 + v / 40)) (8 * k) 8 == 4 * (v % 40) + pc)
/-- Are requests to a pseudo-channel refused: its vault is fenced, and no spare serves it? -/
def channelOff (s : State) (v pc : Nat) : Bool := vaultFenced s v && !spared s v pc
/-- Are vault programs refused: some pseudo-channel is off? -/
def vaultOff (s : State) (v : Nat) : Bool := (List.range 4).any (channelOff s v)

/-- Fence a core: it issues nothing more, its engine threads, exchanges and vault programs stop,
and the task on it fails with cause 0x20 (R381, R384). -/
def fenceCore (n : Nat) : Act := fun s =>
  let c := s.core n
  [Upd.core n (fun c => { c with
      run := .fenced, hold := .none, pend := [], due := [], mops := [], board := [], fences := [], after := [], heldReq := [], heldPkt := [],
      tt := none })] ++
  (if n < 160 then [.dev (fun d => { d with
      sr := tput d.sr (0x130 + n / 40) (setBit (tget 0 d.sr (0x130 + n / 40)) (n % 40) true) })] else []) ++
  -- a publication whose halves have swapped is completed; another that waited for one of this core may start
  ((s.ops.filter (fun e => e.2.core == n && e.2.st != .done && !(e.2.kind == .pub && e.2.st == .running))).map
    (fun e => Upd.delOp e.1)) ++
  ((s.pkts.filter (fun e => e.2.kind == 0 && e.2.src == n && (s.cycle < e.2.arrive || e.2.arrive ≤ e.2.issue))).map
    (fun e => Upd.delPkt e.1)) ++
  ((s.ops.filter (fun e => e.2.core != n && e.2.kind == .pub && e.2.st == .waiting && e.2.phase == 0)).map
    (fun e => postU s.cycle 3 (.engineOpStart e.1))) ++
  -- its vault programs stop, those in queues leave them, and the requests of its engines are gone
  ((List.range 160).filter (fun v => match (s.vault v).prog with
      | some p => p.req.issuer == n
      | none => false)).map (fun v => postU s.cycle 3 (.vstopArrival v (n + 8192))) ++
  ((s.vaults.filter (fun e => e.2.queue.any (fun q => q.issuer == n && q.kind == 0))).map (fun e =>
    Upd.vault e.1 (fun t => { t with queue := t.queue.filter (fun q => q.issuer != n || q.kind != 0) }))) ++
  ((s.reqs.filter (fun e => e.2.core == n && e.2.op.isSome)).flatMap (fun e =>
    [Upd.delReq e.1, .vault e.2.vault (fun t => { t with waiting := t.waiting.filter (· != e.1) })])) ++
  (match c.task with
    | some t => [postU s.cycle 3 (.taskFailure t 0x20)]
    | none => [])

/-- A device register. -/
def devSr (r : Nat) (v : Word) : Upd := .dev (fun d => { d with sr := tput d.sr r v })

/-- Count of one bits. -/
def popcN : Nat → Nat → Nat
  | 0, _ => 0
  | k + 1, v => v % 2 + popcN k (v / 2)

/-- The distance of a result from the trap (R367). -/
def Pend.away (t : Nat) (p : Pend) : Pend := { p with vis := p.vis - t }

/-- Write the trap registers (R364, R366). -/
def trecU (n : Nat) (c : Core) (f : Flt) (pc ctime : Nat) (ifv : Bool) (pwb rpl : Nat) (cmask : Nat) : List Upd :=
  let w (k v : Nat) : Upd := .sr n (srTREC0 + k) (BitVec.ofNat 64 v)
  [ w 0 ((if ifv then 2 ^ 63 else 0) + f.omask % 256 * 2 ^ 48 + cmask % 256 * 2 ^ 40 + f.cause * 2 ^ 16 + pc),
    w 1 (packSlots f.slots),
    w 2 ctime,
    w 3 (f.opc + f.oslot * 2 ^ 16 + f.sub * 2 ^ 20),
    w 4 (f.detail.getD 0 0), w 5 (f.detail.getD 1 0), w 6 (f.detail.getD 2 0), w 7 (f.detail.getD 3 0),
    w 8 (f.detail.getD 4 0), w 9 (f.detail.getD 5 0), w 10 (f.detail.getD 6 0), w 11 (f.detail.getD 7 0),
    w 12 0, w 13 0,
    w 14 (pwb % 64 + rpl % 8 * 2 ^ 6 + c.dly * 2 ^ 9 + (if c.dly == 0 then 0 else c.tgt) * 2 ^ 11 +
      (match c.fmtQ with
        | [] => 0
        | q :: _ => q.left * 2 ^ 25) + (if c.mskQ.isEmpty then 0 else 2 ^ 27) + c.zl.length * 2 ^ 28),
    w 15 (f.rbw % 32) ]

/-- The lowest lane or element whose flags meet an enable mask (R366). -/
def faultIndex (enb : Nat) (hits : List (Nat × Nat)) : Option Nat :=
  hits.foldl (fun m h => if h.2 &&& enb == 0 then m else some (match m with
    | some k => min k h.1
    | none => h.1)) none

/-- Arithmetic detail words: flags, and INDEX with IV (R366). -/
def arithDetail (flags : Nat) (idx : Option Nat) : List Nat :=
  [flags, match idx with
    | some i => i % 2 ^ 32 + 2 ^ 32
    | none => 0]

/-- The random-bit words and rotation states a withheld conversion consumed go back (R128). -/
def returnBits (n : Nat) (p : Option Pend) : List Upd :=
  match p with
  | none => []
  | some p =>
    [Upd.core n (fun c => { c with
        rbq := p.rbw ++ c.rbq, rbHead := (c.rbHead + 16 - p.rbw.length) % 16 })] ++
    (match p.rbs with
      | some (k, old, _) => [.sr n (srRBCV0 + k) old]
      | none => [])

/-- A replay slot at a trap: the rotation state its completion puts back is the present one, which later conversions that
committed may have advanced (R128, R368). -/
def Pend.kept (s : State) (n : Nat) (p : Pend) : Pend :=
  { p with rbs := p.rbs.map (fun e => (e.1, e.2.1, s.sr n (srRBCV0 + e.1))) }

/-- The conversion consumes the bits of its first attempt again (R128, R369). -/
def retakeBits (n : Nat) (p : Pend) : List Upd :=
  [Upd.core n (fun c => { c with
      rbq := c.rbq.drop p.rbw.length, rbHead := (c.rbHead + p.rbw.length) % 16 })] ++
  (match p.rbs with
    | some (k, _, new) => [.sr n (srRBCV0 + k) new]
    | none => [])

/-- EPC with bits 13–0 set to an address (R363, R370). -/
def epcAt (old : Word) (a : Nat) : Word := BitVec.ofNat 64 (old.toNat / 2 ^ 14 * 2 ^ 14 + a % 2 ^ 14)

/-- Take a trap on core n at this cycle: the record, EPC, latches, the in-flight image and supervisor mode at SVEC
three cycles later (R363, R364, R367). `pc` is the trapping bundle and `epc` the resumption address. -/
def takeTrap (n : Nat) (f : Flt) (rep : Option Pend) (pc epc cmask : Nat) : Act := fun s =>
  let c := s.core n
  let t := s.cycle
  let later := c.pend.filter (fun p => t < p.vis && !p.matrix)
  let stay := c.pend.filter (fun p => !(t < p.vis && !p.matrix))
  let reps := match rep with
    | some p => [(p.kept s n).away t]
    | none => []
  let image : Image := ⟨later.map (Pend.away t), reps, c.dly, c.tgt, c.taken, c.fmtQ, c.mskQ, c.zl,
    match c.hold with
    | .until _ => .none
    | .ctime _ => .none
    | h => h, t⟩
  let ifv := !later.isEmpty || !reps.isEmpty || c.dly != 0 || !c.fmtQ.isEmpty || !c.mskQ.isEmpty || !c.zl.isEmpty
  trecU n c { f with rbw := (match rep with
      | some p => p.rbw.length
      | none => f.rbw) } pc s.ctime ifv later.length reps.length cmask ++
  returnBits n rep ++
  [ .sr n srEPC (epcAt (s.sr n srEPC) epc),
    .unlatch n,
    .core n (fun c => { c with
      img := some image, pend := stay, dly := 0, fmtQ := [], mskQ := [], zl := [], hold := .none,
      sup := true, pc := wbits (s.sr n srSVEC) 0 14, nextAt := t + 3 }) ]

/-- What holds the task's bundle: the hold itself, or the one a trap carries. -/
def Core.held (c : Core) : Hold := if c.sup then (match c.img with
  | some i => i.hold
  | none => .none) else c.hold

/-- The hold ends, at this cycle at the earliest. -/
def Core.release (c : Core) (t : Nat) : Core :=
  if c.sup then { c with img := c.img.map (fun i => { i with hold := .none }) }
  else { c with hold := .none, nextAt := max c.nextAt t }

/-- The argument of a fence event: the core, and above it the sixteen words of its trap record (R363, R364). -/
def fenceArg (s : State) (n : Nat) : Nat :=
  n + 2 ^ 8 * (List.range 16).foldl (fun a k => a + (s.sr n (srTREC0 + k)).toNat * 2 ^ (64 * k)) 0

/-- A trap caused in supervisor mode: the sequencer stops and the core is fenced; the control cores receive a fence
event with the core's trap record (R363). -/
def doubleTrap (n : Nat) (f : Flt) (pc : Nat) : Act := seqA [
  fun s => trecU n (s.core n) f pc s.ctime false 0 0 0,
  fenceCore n,
  fun s => [supEvent evFence (fenceArg s n)]]

/-- A precise fault of the bundle now at `pc`: a trap in task mode, a double trap in supervisor mode. -/
def faultAt (n : Nat) (f : Flt) : Act := fun s =>
  let c := s.core n
  if c.sup then doubleTrap n f c.pc s else takeTrap n f none c.pc c.pc 0 s

/-- The replayed operation under ACT (R369): its writes, or none, and its fault when it is raised again. -/
structure Replayed where
  p : Pend
  /-- raised again: the fault is taken at once -/
  again : Bool

/-- Complete a replay slot that holds a computed value. -/
def replayValue (act enb : Nat) (repl : Word) (p : Pend) : Replayed :=
  if act == 0 then (if p.flags &&& enb != 0
    then ⟨{ p with flt := p.flt.map (fun f => { f with detail := arithDetail p.flags (faultIndex enb p.hits) }) }, true⟩
    else ⟨{ p with flt := none }, false⟩)
  else if act == 2 && p.sf then
    ⟨{ p with flt := none, flags := 0, wr := p.wr.map (fun w => match w with
        | .x n _ => .x n repl
        | w => w) }, false⟩
  else ⟨{ p with flt := none, flags := 0 }, false⟩

/-- The image put back at resumption cycle u: results at u + r; latches keep reading zero (R368; DEDUCED, log 18). -/
def imageBack (u : Nat) (l : List Pend) : List Pend :=
  l.map (fun p => { p with vis := u + p.vis, lat := none })

end Sys2Proof.Machine
end

