-- ==== Sys2Proof/Machine/Operands.lean ====
section
/-! DEFINITION. Operands of the slot now issuing: source fields, destinations, lanes and masks. -/

namespace Sys2Proof.Machine

/-- The core, the slot and the bundle address of the operation now issuing. -/
def State.me (s : State) : Nat := s.iss.core
def State.slot (s : State) : Nat := s.iss.slot
def State.pcNow (s : State) : Nat := (s.core s.iss.core).pc

/-- The FMT value that governs this bundle (R113, R115). -/
def State.fmt (s : State) : Word := s.sr s.me srFMT

/-- A scalar source (R42); a latch gives its low 64 bits. -/
def State.srcX (s : State) : Src → Word
  | .reg n => s.x s.me n
  | .lat k => (s.l s.me k).setWidth 64

/-- The physical register of a vector name now (R48). -/
def State.vp (s : State) (n : Nat) : Nat := vphys (s.sr s.me srROTB) n
/-- The physical register of a predicate name now (R48). -/
def State.pp (s : State) (n : Nat) : Nat := pphys (s.sr s.me srROTB) n

/-- A vector register by name. -/
def State.vn (s : State) (n : Nat) : VWord := s.v s.me (s.vp n)
/-- A predicate register by name. -/
def State.pn (s : State) (n : Nat) : PWord := s.p s.me (s.pp n)

/-- A vector source (R42). -/
def State.srcV (s : State) : Src → VWord
  | .reg n => s.vn n
  | .lat k => s.l s.me k

/-- A predicate source (R42); a latch gives its low 128 bits. -/
def State.srcP (s : State) : Src → PWord
  | .reg n => s.pn n
  | .lat k => (s.l s.me k).setWidth 128

/-- The writes of a scalar result (R43): none with nowb = 1. -/
def wrX (d : Nat) (nb : Bool) (v : Word) : List Wr := if nb then [] else [.x d v]

/-- A scalar result in the latch (R49). -/
def latX (v : Word) : VWord := v.setWidth 1024

/-- Width in bits of a width code (R41). -/
def widthOf (w : Nat) : Nat := 256 * 2 ^ w

/-- The lanes of a number, lane 0 first. -/
def lanesOf (sz : Nat) : Nat → Nat → List Nat
  | 0, _ => []
  | n + 1, v => v % 2 ^ sz :: lanesOf sz n (v / 2 ^ sz)

/-- A number from its lanes. -/
def ofLanes (sz : Nat) : List Nat → Nat
  | [] => 0
  | v :: r => v % 2 ^ sz + 2 ^ sz * ofLanes sz r

/-- The mask selector of the slot position now issuing: predicate name and zero bit (R145, R146). -/
def State.selector (s : State) : Nat × Bool :=
  let m := s.sr s.me srMSKSEL
  let k := s.slot - 3
  (wbits m (5 * k) 4, wbits m (5 * k + 4) 1 == 1)

/-- The mask bits of n lanes of sz bits (R145). -/
def State.maskBits (s : State) (sz n : Nat) : List Bool :=
  let p := s.pn s.selector.1
  (List.range n).map (fun i => p.getLsbD (i * sz / 8))

/-- A computed lane, or none where the lane is not computed. -/
abbrev LaneR := Option (Nat × Nat)

/-- Flags of all lanes. -/
def laneFlags : List LaneR → Nat
  | [] => 0
  | some (_, f) :: r => f ||| laneFlags r
  | none :: r => laneFlags r

/-- The lanes that raised flags, from lane i on, with what they raised. -/
def raisedAt : List LaneR → Nat → List (Nat × Nat)
  | [], _ => []
  | some (_, f) :: r, i => if f != 0 then (i, f) :: raisedAt r (i + 1) else raisedAt r (i + 1)
  | none :: r, i => raisedAt r (i + 1)

/-- The lanes as a number, absent lanes 0. -/
def laneValue (sz : Nat) (l : List LaneR) : Nat :=
  ofLanes sz (l.map (fun r => match r with
    | some (v, _) => v
    | none => 0))

/-- Ones in the lanes written: every lane in zero mode, the computed ones in merge mode (R145). -/
def laneMask (sz : Nat) (z : Bool) (l : List LaneR) : Nat :=
  ofLanes sz (l.map (fun r => if z || r.isSome then 2 ^ sz - 1 else 0))

/-- The writes of a vector result: lanes and mask into v[d] (R33, R43). -/
def State.wrV (s : State) (d : Nat) (nb : Bool) (mask v : Nat) : List Wr :=
  if nb then [] else [.v (s.vp d) (BitVec.ofNat 1024 mask) (BitVec.ofNat 1024 v)]

/-- The writes of a predicate result. -/
def State.wrP (s : State) (d : Nat) (nb : Bool) (mask v : PWord) : List Wr :=
  if nb then [] else [.p (s.pp d) mask v]

/-- Element type of vector operations, its size and lane count at a width code. -/
def State.ety (s : State) : Nat := fmtEtype s.fmt
def State.cty (s : State) : Nat := fmtCtype s.fmt
/-- V-class rounding; .sr counts as .rne outside VCVT and VQNT (R113). -/
def State.vrnd (s : State) : Nat := if fmtRnd s.fmt == 4 then 0 else fmtRnd s.fmt
def State.ftz (s : State) : Bool := fmtFtz s.fmt

end Sys2Proof.Machine
end

