-- ==== Sys2Proof/Machine/Flags.lean ====
section
/-! DEFINITION. Results and flags: queueing a result at its latency, the arithmetic fault of an enabled flag,
issue-time faults of one slot, random bits of conversions. -/

namespace Sys2Proof.Machine

/-- Slot causes with one byte at a slot and 0x0E elsewhere (R365). -/
def slotCauses (k code : Nat) : List Nat := (List.range 8).map (fun i => if i == k then code else 0x0E)

/-- All eight slots "not issued". -/
def noneIssued : List Nat := List.replicate 8 0x0E

/-- An illegal-instruction fault of one slot with a reason of R69. -/
def illegalFlt (k code pc : Nat) : Flt := ⟨1, 0, 2 ^ k, slotCauses k code, pc, k, [], 0⟩

/-- A precise issue-time fault of one slot (R361, R365); the offending-slot mask is R54's, of illegal bundles only. -/
def preciseFlt (cause sub k pc : Nat) (detail : List Nat) : Flt :=
  ⟨cause, sub, 0, slotCauses k 0x0F, pc, k, detail, 0⟩

/-- A deferred fault: no slot of the trapping bundle is marked (R361, R365). -/
def deferredFlt (cause sub k pc : Nat) (detail : List Nat) : Flt :=
  ⟨cause, sub, 0, noneIssued, pc, k, detail, 0⟩

/-- The illegal-instruction fault of the slot now issuing. -/
def illegalNow (s : State) (code : Nat) : Flt := illegalFlt s.slot code s.pcNow

/-- A precise fault of the slot now issuing. -/
def faultNow (s : State) (cause sub : Nat) (detail : List Nat) : Flt :=
  preciseFlt cause sub s.slot s.pcNow detail

/-- Do the operation unless its check names a fault, which is then taken. -/
def guarded (chk : State → Option Flt) (a : Act) : Act := fun s =>
  match chk s with
  | some f => faultAt s.me f s
  | none => a s

/-- A check that never fails. -/
def noFault : State → Option Flt := fun _ => none

/-- An operation that is illegal with reason 0xB unless the condition holds (R67, R68). -/
def typeCheck (ok : State → Bool) : State → Option Flt := fun s => if ok s then none else some (illegalNow s 0xB)

/-- The bank of a vector register's name, from the physical register it names (R48, R50). -/
def nameBank (rotb : Word) (phys : Nat) : Nat :=
  if phys < 16 then phys % 8 else (16 + (phys - 16 + 48 - wbits rotb 0 6) % 48) % 8

/-- The bank a vector write takes its port of; 0 where there is none. -/
def vbankOf (rotb : Word) (wr : List Wr) (again : Again) : Nat :=
  match again with
  | .vldz _ _ d _ => nameBank rotb d
  | _ => (wr.findSome? (fun w => match w with
    | .v phys _ _ => some (nameBank rotb phys)
    | _ => none)).getD 0

/-- A result of the slot now issuing at latency L (R51). -/
def mkPend (s : State) (lat : Nat) (wr : List Wr) (lv : Option VWord) (flags : Nat) (flt : Option Flt) (again : Again)
    (sf : Bool) : Pend where
  vis := s.cycle + lat
  ord := s.cycle
  slot := s.slot
  pc := s.pcNow
  wr := wr
  lat := lv
  flags := flags
  flt := flt
  again := again
  matrix := false
  sup := (s.core s.me).sup
  sf := sf
  rbw := []
  rbs := none
  vbank := vbankOf (s.sr s.me srROTB) wr again
  hits := []

/-- Put a result on its way. -/
def pushPend (n : Nat) (p : Pend) : Upd := .core n (fun c => { c with pend := c.pend ++ [p] })

/-- A result without flags. -/
def emit (lat : Nat) (wr : List Wr) (lv : VWord) : Act := fun s =>
  [pushPend s.me (mkPend s lat wr (some lv) 0 none .value false)]

/-- The arithmetic fault of flags raised at the lanes `hits` names, where ENB enables one (R122, R366). -/
def enabledFlt (s : State) (flags : Nat) (hits : List (Nat × Nat)) : Option Flt :=
  if flags &&& fmtEnb s.fmt != 0
  then some (deferredFlt 5 0 s.slot s.pcNow (arithDetail flags (faultIndex (fmtEnb s.fmt) hits))) else none

/-- A result with flags: an enabled flag withholds it (R121, R122). `hits` says at which lane which were raised. -/
def emitF (lat : Nat) (wr : List Wr) (lv : VWord) (flags : Nat) (hits : List (Nat × Nat)) (sf : Bool) : Act := fun s =>
  [pushPend s.me { mkPend s lat wr (some lv) flags (enabledFlt s flags hits) .value sf with hits := hits }]

/-- A scalar result without flags. -/
def emitX (lat d : Nat) (nb : Bool) (v : Word) : Act := emit lat (wrX d nb v) (latX v)

/-- A scalar floating-point result with its flags. -/
def emitFX (lat d : Nat) (nb : Bool) (r : Nat × Nat) : Act :=
  let v := BitVec.ofNat 64 r.1
  emitF lat (wrX d nb v) (latX v) r.2 [] true

/-- A vector result lane by lane under zero or merge mode (R149). -/
def emitLanes (lat d : Nat) (nb : Bool) (sz : Nat) (z : Bool) (l : List LaneR) : Act := fun s =>
  let v := laneValue sz l
  emitF lat (s.wrV d nb (laneMask sz z l) v) (BitVec.ofNat 1024 v) (laneFlags l)
    (raisedAt l 0) false s

/-- A vector result that writes every bit of its width. -/
def emitWide (lat d : Nat) (nb : Bool) (bits v flags : Nat) (hits : List (Nat × Nat)) : Act := fun s =>
  emitF lat (s.wrV d nb (2 ^ bits - 1) v) (BitVec.ofNat 1024 v) flags hits false s

/-- Flags ORed into FLG of core n now (R121); those of this cycle are kept for an FMT replaced in it. -/
def orFlg (n fl : Nat) : Act := fun s =>
  if fl == 0 then []
  else
    [.sr n srFMT (s.sr n srFMT ||| BitVec.ofNat 64 (fl * 2 ^ 16)),
      .core n (fun c => { c with flagCyc := s.cycle, flagBits := (if c.flagCyc == s.cycle then c.flagBits else 0) ||| fl })]

/-- Flags of a task's operation: into FLG of its core, or of its saved context (R121, R172). -/
def flagFor (n : Nat) (task fl : Nat) : Act := fun s =>
  if fl == 0 then []
  else if (s.core n).task.getD task == task then orFlg n fl s
  else if ((tfind s.tasks task).bind (·.core)).isSome then orFlg (((tfind s.tasks task).bind (·.core)).getD n) fl s
  else [.task task (fun k => { k with saved := k.saved.map (fun v =>
    { v with srs := tput v.srs srFMT (tget 0 v.srs srFMT ||| BitVec.ofNat 64 (fl * 2 ^ 16)) }) })]

/-! ### Random bits of conversions (R124) -/

/-- Does a conversion issued now draw random bits? -/
def State.drawing (s : State) : Bool := fmtRnd s.fmt == 4

/-- Words a conversion of n lanes pops in queue mode. -/
def State.popCount (s : State) (n : Nat) : Nat :=
  if s.drawing && fmtSrsrc s.fmt == 0 then (if 64 < n then 2 else 1) else 0

/-- The bits of lane i: `rb_queue` and `rb_rot` of R134. -/
def State.laneBits (s : State) (i : Nat) : Nat :=
  if !s.drawing then 0
  else if fmtSrsrc s.fmt == 0 then
    bitsOf (((s.core s.me).rbq).getD (i / 64) 0) (32 * (i % 64)) 32
  else rotl (s.sr s.me (srRBCV0 + (s.slot - 3))).toNat (5 * i % 32)

/-- The words popped and the rotation state advanced by a conversion of n lanes. -/
def State.drawn (s : State) (n : Nat) : List Nat × Option (Nat × Word × Word) :=
  if !s.drawing then ([], none)
  else if fmtSrsrc s.fmt == 0 then (((s.core s.me).rbq).take (s.popCount n), none)
  else
    let k := s.slot - 3
    let old := s.sr s.me (srRBCV0 + k)
    let key := genKey (s.sr s.me srRBKEY0) (s.sr s.me (srRBKEY0 + 1))
    let new := BitVec.ofNat 64 (gen128 ⟨old.toNat % 2 ^ 32, k, 0, 0⟩ key).w0
    ([], some (k, old, new))

/-- The updates that consume them. -/
def drawU (n : Nat) (d : List Nat × Option (Nat × Word × Word)) : List Upd :=
  [.core n (fun c => { c with rbq := c.rbq.drop d.1.length, rbHead := (c.rbHead + d.1.length) % 16 })] ++
  (match d.2 with
    | some (k, _, new) => [.sr n (srRBCV0 + k) new]
    | none => [])

/-- A conversion's result: a vector result that also consumed random bits for n lanes. -/
def emitDrawn (lat : Nat) (wr : List Wr) (v flags : Nat) (hits : List (Nat × Nat)) (n : Nat) : Act := fun s =>
  let d := s.drawn n
  let p := mkPend s lat wr (some (BitVec.ofNat 1024 v)) flags (enabledFlt s flags hits) .value false
  drawU s.me d ++ [pushPend s.me { p with rbw := d.1, rbs := d.2, hits := hits }]

/-- The underrun check of one conversion (R127): words it pops, words in the queue. -/
def underrun (n : Nat) : State → Option Flt := fun s =>
  let have_ := (s.core s.me).rbq.length
  if have_ < s.popCount n then some (faultNow s 0x0B 0 [s.popCount n, have_]) else none

/-- Two checks in order. -/
def andThen (a b : State → Option Flt) : State → Option Flt := fun s =>
  match a s with
  | some f => some f
  | none => b s

end Sys2Proof.Machine
end

