-- ==== Sys2Proof/Machine/Boxes.lean ====
section
/-! DEFINITION. Boxes: coordinates, elements, their addresses at each tier, translation, rights, loans and write marks
(R17 to R19, R215, R225 to R228, R250, R295, R296, R349, R350, R412, R413). -/

namespace Sys2Proof.Machine

/-- Rank and number of elements. -/
def Box.rank (b : Box) : Nat := b.ext.length
def Box.count (b : Box) : Nat := b.ext.foldl (· * ·) 1
/-- Bytes of one element; a .qc4 code counts one byte here (R412). -/
def Box.esize (b : Box) : Nat := max 1 (tySize b.fmt / 8)

/-- Coordinates of a linear index, dimension 0 fastest (R227). -/
def coordsOf : List Nat → Nat → List Int
  | [], _ => []
  | e :: r, l => ((l % e : Nat) : Int) :: coordsOf r (l / e)

/-- Is a coordinate vector in bounds (R18)? -/
def inBounds : List Nat → List Int → Bool
  | e :: es, c :: cs => 0 ≤ c && c < e && inBounds es cs
  | _, _ => true

/-- CLAMP (R18). -/
def clampC : List Nat → List Int → List Int
  | e :: es, c :: cs => min (max c 0) ((e : Int) - 1) :: clampC es cs
  | _, cs => cs

/-- Σ c_k × s_k. -/
def dot : List Int → List Int → Int
  | s :: ss, c :: cs => s * c + dot ss cs
  | _, _ => 0

/-- The element index a coordinate vector names (R18). -/
inductive Hit where
  | elem (i : Int)
  | zero
  | fault
  deriving DecidableEq, Repr

/-- Resolve coordinates by the box's out-of-bounds mode (R18). -/
def Box.resolve (b : Box) (cs : List Int) : Hit :=
  if inBounds b.ext cs then .elem (b.idx + dot b.str cs)
  else match b.oob with
    | 0 => .elem (b.idx + dot b.str (clampC b.ext cs))
    | 1 => .zero
    | _ => .fault

/-- Resolve a linear index (R227). -/
def Box.linear (b : Box) (l : Int) : Hit :=
  let n := b.count
  if 0 ≤ l && l < n then b.resolve (coordsOf b.ext l.toNat)
  else match b.oob with
    | 0 => b.resolve (coordsOf b.ext (min (max l 0) ((n : Int) - 1)).toNat)
    | 1 => .zero
    | _ => .fault

/-- Byte offset of an element from its box's origin: plain formats, or codes in group records (R412). -/
def Box.offset (b : Box) (i : Int) : Int :=
  if b.fmt == 5 then i / 16384 * 8452 + 260 + i % 16384 / 2 else i * b.esize

/-! ### Addresses -/

/-- The T3 layout (R413): the vault of a device-layout address and the offset in it. -/
def t3Vault (a : Nat) : Nat := a / 4096 % 160
def t3Offset (a : Nat) : Nat := a / 655360 * 4096 + a % 4096
/-- Key of a vault byte. -/
def vkey (v a : Nat) : Nat := 2 ^ 31 * v + a
/-- The device-layout address of a vault byte (R413). -/
def layoutAddr (v a : Nat) : Nat := a / 4096 * 655360 + v * 4096 + a % 4096
/-- Key of a device-layout byte. -/
def t3key (a : Nat) : Nat := vkey (t3Vault a) (t3Offset a)
/-- Key of a scratchpad byte. -/
def skey (n a : Nat) : Nat := 2 ^ 22 * n + a
/-- Size of device HBM (R413). -/
def hbmSize : Nat := 320 * 2 ^ 30

/-- Bytes at a device-layout address; entries and tables do not cross a granule. -/
def physBytes (s : State) (a n : Nat) : List Byte := memGets s.dram (t3key a) n
def physNat (s : State) (a n : Nat) : Nat := natOf (physBytes s a n)

/-- What translation found (R349, R350). -/
structure Xlate where
  /-- 0 found, 3 protection fault, 4 translation fault -/
  cause : Nat
  /-- physical address: device layout, or host physical with `host` -/
  phys : Nat
  host : Bool
  kind : Nat
  win : Nat
  shadow : Nat
  entry : Nat
  rv : Bool
  level : Nat
  deriving DecidableEq, Repr

def Xlate.bad (cause entry : Nat) (rv : Bool) (level : Nat) : Xlate := ⟨cause, 0, false, 0, 0, 0, entry, rv, level⟩

/-- Eight bytes of a context's tables, as the operation now looked at was translated by them (R351). -/
def tableWord (s : State) (k a : Nat) : Nat :=
  let l := (s.ctx k).frozen
  if l.isEmpty then physNat s a 8
  else natOf ((List.range 8).map (fun j => (tfind l (t3key a + j)).getD (memGet s.dram (t3key a + j))))

/-- The four words of range entry i (R349). -/
def rangeWord (s : State) (k i w : Nat) : Nat := tableWord s k ((s.ctx k).rtabNow + 32 * i + 8 * w)

/-- Reserved bits of a range entry are 0 (R349). -/
def rangeOk (s : State) (k i : Nat) : Bool :=
  let w3 := rangeWord s k i 3
  rangeWord s k i 0 / 2 ^ 48 == 0 && rangeWord s k i 1 / 2 ^ 48 == 0 && rangeWord s k i 2 / 2 ^ 48 == 0 &&
    w3 / 2 ^ 56 == 0 && bitsOf w3 19 1 == 0 && bitsOf w3 6 2 < 2

/-- The lowest valid entry that a context address falls in. -/
def rangeHit (s : State) (k a : Nat) : Nat → Option Nat
  | 0 => none
  | n + 1 =>
    match rangeHit s k a n with
    | some i => some i
    | none =>
      let b := rangeWord s k n 0 % 2 ^ 48
      if rangeWord s k n 3 % 2 == 1 && b ≤ a && a ≤ b + rangeWord s k n 1 % 2 ^ 48 then some n else none

/-- Does a mapping carry the right an access needs? -/
def rightOk (rd wr wantRd wantWr : Bool) : Bool := (!wantRd || rd) && (!wantWr || wr)

/-- One page-table walk (R350): `lvl` counts 1 to 4, on fuel 4. -/
def walk (s : State) (k a : Nat) (wantRd wantWr : Bool) : Nat → Nat → Nat → Xlate
  | 0, _, _ => Xlate.bad 4 0 false 4
  | f + 1, table, lvl =>
    let idx := a / 2 ^ (39 - 9 * (lvl - 1)) % 512
    let e := tableWord s k (table + 8 * idx)
    if e % 2 == 0 || e / 2 ^ 48 != 0 then Xlate.bad 4 0 false lvl
    else if bitsOf e 7 4 != k then Xlate.bad 3 0 false lvl
    else
      let frame := bitsOf e 12 36 * 4096
      if bitsOf e 1 1 == 0 then
        if lvl == 4 then Xlate.bad 4 0 false 4 else walk s k a wantRd wantWr f frame (lvl + 1)
      else if lvl == 1 then Xlate.bad 4 0 false 1
      else
        let span := 2 ^ (39 - 9 * (lvl - 1))
        let kind := bitsOf e 4 3
        if 5 < kind then Xlate.bad 4 0 false lvl
        else if !rightOk (bitsOf e 2 1 == 1) (bitsOf e 3 1 == 1) wantRd wantWr then Xlate.bad 3 0 false lvl
        else
          let phys := frame / span * span + a % span
          if hbmSize ≤ phys then Xlate.bad 4 0 false lvl else ⟨0, phys, false, kind, 0, 0, 0, false, lvl⟩

/-- Translate a context address (R350): the lowest matching range entry, else the page walk. A reserved kind, a range
migrated compressed (R359) and an address past HBM (R413) are translation faults. -/
def translate (s : State) (k a : Nat) (wantRd wantWr : Bool) : Xlate :=
  match rangeHit s k a 64 with
  | some i =>
    let w3 := rangeWord s k i 3
    let kind := bitsOf w3 3 3
    let phys := rangeWord s k i 2 % 2 ^ 48 + (a - rangeWord s k i 0 % 2 ^ 48)
    let host := bitsOf w3 6 2 == 1
    if !rangeOk s k i || 5 < kind || bitsOf w3 12 1 == 1 then Xlate.bad 4 i true 0
    else if bitsOf w3 8 4 != k || !rightOk (bitsOf w3 1 1 == 1) (bitsOf w3 2 1 == 1) wantRd wantWr then Xlate.bad 3 i true 0
    else if !host && hbmSize ≤ phys then Xlate.bad 4 i true 0
    else ⟨0, phys, host, kind, bitsOf w3 13 6, bitsOf w3 20 36 * 4096, i, true, 0⟩
  | none =>
    let root := (s.ctx k).ptrootNow
    if root % 2 == 0 then Xlate.bad 4 0 false 0
    else walk s k a wantRd wantWr 4 (bitsOf root 12 36 * 4096) 1

/-- The context address of an element of a T3 or T4 box: BASE of its entry, plus the offset, in 48 bits (R349, R350). -/
def Box.ctxAddr (s : State) (b : Box) (i : Int) : Nat :=
  (((rangeWord s b.key b.home 0 % 2 ^ 48 + b.org : Nat) + b.offset i) % 2 ^ 48).toNat

/-- Where an element lies. -/
inductive Place where
  /-- key of its first byte in a memory -/
  | at_ (sp : Space) (key : Nat)
  /-- sealed host memory (R356): context slot, range entry, host address, integrity region, BASE-relative unit base -/
  | sealed (k entry phys shadow base : Nat)
  /-- a peer's memory (R16): device, handle and byte offset -/
  | peer (dev handle : Nat) (off : Int)
  /-- no such place: cause and what translation found -/
  | none (x : Xlate)
  deriving DecidableEq, Repr

/-- The place of element i. Outside its scratchpad or vault no element exists: a protection fault (log 21). -/
def Box.place (s : State) (b : Box) (i : Int) (wantRd wantWr : Bool) : Place :=
  let o := b.offset i
  match b.tier with
  | 1 =>
    let a := (b.org : Int) + o
    if 0 ≤ a && a + b.esize ≤ 2 ^ 22 then .at_ .spad (skey b.home a.toNat) else .none (Xlate.bad 3 0 false 0)
  | 2 =>
    let a := (b.org * 65536 : Nat) + o
    if 0 ≤ a && a + b.esize ≤ 2 ^ 31 then .at_ .dram (vkey b.home a.toNat) else .none (Xlate.bad 3 0 false 0)
  | 5 => .peer b.home b.org o
  | _ =>
    let x := translate s b.key (b.ctxAddr s i) wantRd wantWr
    if x.cause != 0 then .none x
    else if x.host then
      .sealed b.key x.entry x.phys x.shadow (rangeWord s b.key x.entry 2 % 2 ^ 48)
    else .at_ .dram (t3key x.phys)

/-- The context address of a byte at an offset from the origin of a T3 or T4 box. -/
def Box.offAddr (s : State) (b : Box) (o : Int) : Nat := (((rangeWord s b.key b.home 0 % 2 ^ 48 + b.org : Nat) + o) % 2 ^ 48).toNat

/-- The byte offsets, one to a page, that n bytes at an offset reach: an element may lie on two pages (R215). -/
def Box.pages (s : State) (b : Box) (o : Int) (n : Nat) : List Int :=
  if b.tier == 3 || b.tier == 4 then
    (if b.offAddr s o / 4096 == b.offAddr s (o + ((n - 1 : Nat) : Int)) / 4096 then [o] else [o, o + ((n - 1 : Nat) : Int)])
  else [o]

/-- Kinds whose accesses fall in one total order: strong, sync and retry buffer (R211, R213). -/
def strongKind (k : Nat) : Bool := k == 1 || k == 3 || k == 5
/-- The stronger of two kinds (R215): strong, sync and retry buffer, then release-consistent and publication window, then
unordered. -/
def stronger (a b : Nat) : Nat := if strongKind a then a else if strongKind b then b else if a == 2 then b else a

/-- The ordering kind of an element: the strongest among its pages (R211, R215); T1 and T2 are release-consistent. -/
def Box.kindOf (s : State) (b : Box) (i : Int) : Nat :=
  if b.tier == 3 || b.tier == 4 then
    (b.pages s (b.offset i) b.esize).foldl (fun k o => stronger k (translate s b.key (b.offAddr s o) false false).kind) 2
  else 0

/-- Elements by linear index as far as they exist (`ZERO` and faults give none). -/
def Box.elemIdx (b : Box) (l : Nat) : Option Int :=
  match b.resolve (coordsOf b.ext l) with
  | .elem i => some i
  | _ => none

/-! ### Sealed host memory (R356) -/

def t4Nonce (k unit entry gen : Nat) : List Nat := [k, unit, entry, gen]
/-- Key list of the context's "t4" key (R336). -/
def t4Key (s : State) (k : Nat) : List Nat := Config.hkdf (s.ctx k).key [0x74, 0x34]

/-- The record of a unit: tag bytes and generation. -/
def t4Rec (s : State) (shadow u : Nat) : List Byte × Nat :=
  (physBytes s (shadow + 32 * u) 16, physNat s (shadow + 32 * u + 16) 6)

/-- Open a unit: its 64 bytes, or none when its tag fails. -/
def t4Open (s : State) (k entry base shadow u : Nat) : Option (List Byte) :=
  let (tag, gen) := t4Rec s shadow u
  if gen == 0 then some (List.replicate 64 0#8)
  else
    let c := memGets s.hostm (base + 64 * u) 64
    let key := t4Key s k
    let nonce := t4Nonce k u entry gen
    if Config.gcmTag key nonce c == tag then some (Config.gcmDec key nonce c) else none

/-- Replace bytes in a list from a place on. -/
def splice (l : List Byte) (o : Nat) (new : List Byte) : List Byte :=
  l.take o ++ new.take (l.length - o) ++ l.drop (o + new.length)

/-- A write of bytes within one unit: the sealed unit and its new record, none when the unit's tag fails; a whole unit is not
opened first. -/
def t4Write (s : State) (k entry base shadow phys : Nat) (bs : List Byte) : Option (List Upd) :=
  let u := (phys - base) / 64
  match (if bs.length == 64 then some [] else t4Open s k entry base shadow u) with
  | none => none
  | some old =>
    let gen := (t4Rec s shadow u).2 + 1
    let key := t4Key s k
    let nonce := t4Nonce k u entry gen
    let c := Config.gcmEnc key nonce (if bs.length == 64 then bs else splice old ((phys - base) % 64) bs)
    some [.mem .host (base + 64 * u) c,
      .mem .dram (t3key (shadow + 32 * u))
        ((Config.gcmTag key nonce c).take 16 ++ bytesOf 6 gen ++ List.replicate 10 0#8)]

/-- A write that would pass the last generation is a protection fault. -/
def t4Full (s : State) (base shadow phys : Nat) : Bool :=
  2 ^ 48 ≤ (t4Rec s shadow ((phys - base) / 64)).2 + 1

/-! ### Elements as numbers -/

/-- The bits of an element at a place; a .qc4 code is half a byte (R109, R412). -/
def Box.bitsAt (b : Box) (i : Int) (bs : List Byte) : Nat :=
  let v := natOf bs
  if b.fmt == 5 then (if i % 2 == 0 then v % 16 else v / 16 % 16) else v

/-- Read element i; none when it cannot be read (a failed seal or no place). A peer's bytes are free values (log 8). -/
def Box.read (s : State) (b : Box) (i : Int) : Option Nat :=
  match b.place s i true false with
  | .at_ sp k => some (b.bitsAt i (memGets (s.mem sp) k b.esize))
  | .sealed k entry phys shadow base =>
    match t4Open s k entry base shadow ((phys - base) / 64) with
    | some u => some (b.bitsAt i ((u.drop ((phys - base) % 64)).take b.esize))
    | none => none
  | .peer _ _ o => some ((Config.freeBits 32 (s.fresh + o.toNat)).toNat % 2 ^ tySize b.fmt)
  | .none _ => none

/-- The bytes of an element that holds given bits; a .qc4 code keeps the other half of its byte. -/
def Box.bytesFor (s : State) (b : Box) (i : Int) (sp : Space) (k v : Nat) : List Byte :=
  if b.fmt == 5 then
    let old := (memGet (s.mem sp) k).toNat
    bytesOf 1 (if i % 2 == 0 then old / 16 * 16 + v % 16 else old % 16 + v % 16 * 16)
  else bytesOf b.esize v

/-! ### Loans and write marks (R293 to R296) -/

/-- Can Σ c_k s_k equal r with every c_k in bounds? Dimension by dimension, within what the rest can reach. -/
def reachLo : List Nat → List Int → Int
  | e :: es, st :: ss => min 0 (st * ((e : Int) - 1)) + reachLo es ss
  | _, _ => 0
def reachHi : List Nat → List Int → Int
  | e :: es, st :: ss => max 0 (st * ((e : Int) - 1)) + reachHi es ss
  | _, _ => 0
def hasIdx : List Nat → List Int → Int → Bool
  | e :: es, st :: ss, r =>
    if r < reachLo (e :: es) (st :: ss) || reachHi (e :: es) (st :: ss) < r then false
    else if es.isEmpty then
      (if st == 0 then r == 0 else r % st == 0 && 0 ≤ r / st && r / st < e)
    else (List.range e).any (fun c => hasIdx es ss (r - st * c))
  | _, _, r => r == 0

/-- Lowest and highest linear index a box reaches. -/
def Box.low (b : Box) : Int := b.idx + reachLo b.ext b.str
def Box.high (b : Box) : Int := b.idx + reachHi b.ext b.str

/-- The first byte of a box's image, by its offset from the box's origin; a .qc4 image starts at a group record. -/
def Box.first (b : Box) : Int := if b.fmt == 5 then b.low / 16384 * 8452 else b.low * b.esize

/-- Bytes of a box's image. -/
def Box.imageLen (b : Box) : Nat :=
  ((if b.fmt == 5 then (b.high / 16384 + 1) * 8452 else (b.high + 1) * b.esize) - b.first).toNat

/-- Does a box hold the element that covers a byte at offset o from its origin? -/
def Box.covers (b : Box) (o : Int) : Bool :=
  if b.fmt == 5 then
    let q := o % 8452
    260 ≤ q &&
      (let l := o / 8452 * 16384 + (q - 260) * 2
       hasIdx b.ext b.str (l - b.idx) || hasIdx b.ext b.str (l + 1 - b.idx))
  else hasIdx b.ext b.str (o / b.esize - b.idx)

/-- The linear address of a box's origin: tiers 1 and 2 by home, tiers 3 and 4 by context address. -/
def Box.lin (s : State) (b : Box) : Nat × Nat × Nat :=
  match b.tier with
  | 1 => (1, b.home, b.org)
  | 2 => (2, b.home, b.org * 65536)
  | 5 => (5, b.home, b.org)
  | _ => (3, b.key, b.ctxAddr s 0)

/-- Does box b hold a byte among n bytes at offset o of box a's origin? -/
def Box.meets (s : State) (b a : Box) (o : Int) (n : Nat) : Bool :=
  let (tb, hb, ob) := b.lin s
  let (ta, ha, oa) := a.lin s
  tb == ta && hb == ha && (List.range n).any (fun j => b.covers ((oa : Int) + o + j - ob))

/-- Do two boxes share an element? -/
def Box.overlaps (s : State) (a b : Box) : Bool :=
  let (tb, hb, _) := b.lin s
  let (ta, ha, _) := a.lin s
  tb == ta && hb == ha && (List.range a.count).any (fun l =>
    match a.elemIdx l with
    | some i => b.meets s a (a.offset i) a.esize
    | none => false)

/-- Writable loans of a task: the parent boxes of the writable arguments of tasks called into its unfreed scopes (R293). -/
def loansOf (s : State) (t : Nat) : List Box :=
  match tfind s.tasks t with
  | none => []
  | some task =>
    let kids := task.scopes.flatMap (fun sc => (match tfind s.scopes sc with
      | some x => if x.live then x.tasks else []
      | none => []))
    kids.flatMap (fun c => match tfind s.tasks c with
      | some ct => if ct.caller == some t then (ct.imgs.filter (fun g => g.parent.wr)).map (·.parent) else []
      | none => [])

/-- Is an element of a box on loan from the task (R295)? -/
def onLoan (s : State) (t : Option Nat) (b : Box) (i : Int) : Bool :=
  match t with
  | none => false
  | some t => (loansOf s t).any (fun l => l.meets s b (b.offset i) b.esize)

/-- Does any element of an operand region lie on loan? -/
def regionOnLoan (s : State) (t : Option Nat) (b : Box) : Bool :=
  match t with
  | none => false
  | some t => (loansOf s t).any (fun l => b.overlaps s l)

/-- The loan count of a range of context k: the unfreed loans of boxes over it, which the supervisor's migration waits for
(R359). -/
def loanCount (s : State) (k base size : Nat) : Nat :=
  (s.tasks.flatMap (fun e => loansOf s e.1)).countP (fun l => l.key == k && 3 ≤ l.tier &&
    l.offAddr s l.first < base + size && base < l.offAddr s l.first + l.imageLen)

/-- Does a T3 or T4 box hold one of n bytes at a key, page by page of its image? -/
def Box.holdsKey (s : State) (b : Box) (sp : Space) (key n : Nat) : Bool :=
  (List.range (b.imageLen / 4096 + 2)).any (fun (j : Nat) =>
    let o : Int := if j == 0 then b.first else b.first + 4096 * j - (b.offAddr s b.first % 4096 : Nat)
    let room : Nat := 4096 - b.offAddr s o % 4096
    let x := translate s b.key (b.offAddr s o) false false
    let at_ : Nat := if x.host then x.phys else t3key x.phys
    x.cause == 0 && o < b.first + b.imageLen && (if x.host then sp == .host else sp == .dram) && at_ < key + n && key < at_ + room &&
      (List.range n).any (fun i => at_ ≤ key + i && key + i < at_ + room && b.covers (o + ((key + i - at_ : Nat) : Int))))

/-- Set the write marks of DIRTY images of a task that n bytes at a key fall in (R296), and the changed marks of
read-only loans its write meets (R376). -/
def markWrite (t : Option Nat) (sp : Space) (key n : Nat) : Act := fun s =>
  match t with
  | none => []
  | some t =>
    match tfind s.tasks t with
    | none => []
    | some task =>
      (if task.imgs.any (fun g => g.child.merge == 2 && g.child.wr) then
        let es := (List.range ((key + n + 3) / 4 - key / 4)).map (· + key / 4)
        let any (b : Box) (e base : Nat) : Bool := (List.range 4).any (fun j => b.covers (((4 * e + j : Nat) : Int) - base))
        [Upd.task t (fun k => { k with imgs := k.imgs.map (fun g =>
          if g.child.merge == 2 && g.child.wr then
            { g with marks := g.marks ++ es.filter (fun e =>
                !g.marks.contains e && (match g.child.tier with
                  | 1 => sp == .spad && any g.child e (skey g.child.home g.child.org)
                  | 2 => sp == .dram && any g.child e (vkey g.child.home (g.child.org * 65536))
                  | _ => sp != .spad)) }
          else g) })]
      else []) ++
      (task.scopes.flatMap (fun sc => match tfind s.scopes sc with
        | some x => if x.live then x.tasks else []
        | none => [])).flatMap (fun c => match tfind s.tasks c with
          | some ct =>
            if ct.caller == some t && !ct.changed && ct.imgs.any (fun g => !g.parent.wr && (match g.parent.tier with
                | 1 => sp == .spad && (List.range n).any (fun j =>
                    g.parent.covers (((key + j : Nat) : Int) - skey g.parent.home g.parent.org))
                | 2 => sp == .dram && (List.range n).any (fun j =>
                    g.parent.covers (((key + j : Nat) : Int) - vkey g.parent.home (g.parent.org * 65536)))
                | _ => sp != .spad && g.parent.holdsKey s sp key n)) then
              [Upd.task c (fun k => { k with changed := true })]
            else []
          | none => [])

/-- A write of the caller replaces what its scopes remember of an earlier merge (R294). -/
def forgetOld (t : Option Nat) (sp : Space) (key n : Nat) : Act := fun s =>
  match t.bind (tfind s.tasks) with
  | none => []
  | some task => task.scopes.flatMap (fun k => match tfind s.scopes k with
    | some x =>
      if x.old.any (fun e => e.1 == sp && key ≤ e.2.1 && e.2.1 < key + n) then
        [.scope k { x with old := x.old.filter (fun e => !(e.1 == sp && key ≤ e.2.1 && e.2.1 < key + n)) }]
      else []
    | none => [])

/-- Open scopes remember the bytes that a write from a key on replaces, each byte once (R294). -/
def rememberU (p : Nat → Scope → Bool) (sp : Space) (key : Nat) (old : List Byte) : Act := fun s =>
  s.scopes.flatMap (fun e =>
    if e.2.live && p e.1 e.2 then
      let new := ((List.range old.length).map (fun j => (sp, key + j, old.getD j 0))).filter (fun o =>
        !e.2.old.any (fun q => q.1 == sp && q.2.1 == o.2.1))
      if new.isEmpty then [] else [Upd.scope e.1 { e.2 with old := e.2.old ++ new }]
    else [])

/-- Is a write at a key by task t foreign to a scope: not its owner's, and in a scratchpad, where only the cores of the
owner can read it (R294)? -/
def foreign (s : State) (t : Option Nat) (sp : Space) (key : Nat) (_ : Nat) (x : Scope) : Bool :=
  some x.owner != t && (sp != .spad || (s.core (key / 2 ^ 22)).task == some x.owner)

/-- What a write of a task leaves beside its bytes: marks, and what open scopes forget and remember. -/
def traceU (t : Option Nat) (sp : Space) (key : Nat) (old : List Byte) : Act := fun s =>
  markWrite t sp key old.length s ++ forgetOld t sp key old.length s ++ rememberU (foreign s t sp key) sp key old s

/-- Does a vault program wait to start whose platforms lie with core n (R272)? -/
def programWaits (s : State) (n : Nat) : Bool :=
  s.ops.any (fun e => e.2.kind == .vrun && e.2.st != .done && e.2.par.getD 4 0 == n)

/-- What a write of bytes in a scratchpad replaces, kept for 128 cycles, longer than any way to a vault and back (R272). -/
def pastU (sp : Space) (key n : Nat) : Act := fun s =>
  let m := key / 2 ^ 22
  if sp == .spad && programWaits s m then
    let old := memGets s.spad key n
    [.core m (fun c => { c with before := (s.cycle, key, old) :: c.before.filter (fun e => s.cycle < e.1 + 128) })]
  else []

/-- A scratchpad byte as a read of cycle t found it. -/
def State.pastByte (s : State) (k t : Nat) : Byte :=
  match ((s.core (k / 2 ^ 22)).before.filter (fun e => t < e.1 && e.2.1 ≤ k && k < e.2.1 + e.2.2.length)).getLast? with
  | some e => e.2.2.getD (k - e.2.1) 0
  | none => memGet s.spad k

/-- Bytes for a task: the bytes and their traces. -/
def keepU (t : Option Nat) (sp : Space) (key : Nat) (bs : List Byte) : Act := fun s =>
  .mem sp key bs :: pastU sp key bs.length s ++ traceU t sp key (memGets (s.mem sp) key bs.length) s

/-- The bytes of a sealed place as they stand, zeros where its tag fails (R356). -/
def sealedNow (s : State) (k entry phys shadow base n : Nat) : List Byte :=
  match t4Open s k entry base shadow ((phys - base) / 64) with
  | some u => (u.drop ((phys - base) % 64)).take n
  | none => List.replicate n 0#8

/-- Bytes for a task at a sealed place; its traces go by host address. A unit whose tag fails is not written (R356). -/
def sealU (t : Option Nat) (k entry phys shadow base : Nat) (bs : List Byte) : Act := fun s =>
  match t4Write s k entry base shadow phys bs with
  | none => []
  | some us => us ++ traceU t .host phys (sealedNow s k entry phys shadow base bs.length) s

/-! ### Flipped bits (R380) -/

/-- The bits flipped in the 64 B column (HBM, place 1) or 8 B word (a scratchpad, place 0) that a key lies in. -/
def upsetsAt (s : State) (place key : Nat) : List (Nat × Nat × Nat) :=
  let sz := if place == 1 then 64 else 8
  s.upsets.filter (fun u => u.1 == place && u.2.1 / sz == key / sz)

/-- Is an upset in one of the words that n bytes from a key on touch, and does it lie in a word they cover whole? -/
def upsetIn (place key n : Nat) (u : Nat × Nat × Nat) : Bool :=
  let sz := if place == 1 then 64 else 8
  u.1 == place && key / sz ≤ u.2.1 / sz && u.2.1 / sz ≤ (key + n - 1) / sz && n != 0
def upsetUnder (place key n : Nat) (u : Nat × Nat × Nat) : Bool :=
  let sz := if place == 1 then 64 else 8
  upsetIn place key n u && key ≤ u.2.1 / sz * sz && u.2.1 / sz * sz + sz ≤ key + n

/-- What a read finds of flipped bits: one in a word is corrected, more are an uncorrectable error (R380 to R382). The error
events of stored flips carry bit number 512. -/
def findUpsets (l : List (Nat × Nat × Nat)) : Act := fun s =>
  let heads : List (Nat × Nat × Nat) := l.foldl (fun (h : List (Nat × Nat × Nat)) u =>
    if h.any (fun q => q.1 == u.1 && (upsetsAt s q.1 q.2.1).contains u) then h else h ++ [u]) []
  heads.map (fun u =>
    let n : Nat := ((upsetsAt s u.1 u.2.1).map (fun q => popcN 64 q.2.2)).foldl (· + ·) 0
    if n ≤ 1 then postU s.cycle 4 (.correctedError u.1 u.2.1 512)
    else if u.1 == 1 then postU s.cycle 4 (.uncorrectableDramError (u.2.1 / 2 ^ 31) (u.2.1 % 2 ^ 31))
    else postU (s.cycle + 1) 3 (.uncorrectableSramError (u.2.1 / 2 ^ 22) (u.2.1 % 2 ^ 22)))

/-- The place number of a space that carries the check. -/
def upsetPlace : Space → Nat
  | .spad => 0
  | .dram => 1
  | .host => 2

/-- A read of n bytes from a key on. -/
def meetU (sp : Space) (key n : Nat) : Act := fun s =>
  if s.upsets.isEmpty then [] else findUpsets (s.upsets.filter (upsetIn (upsetPlace sp) key n)) s

/-- A read of the elements of a scratchpad's box; when within an operation is its start (log 26). -/
def meetBox (b : Box) : Act := fun s =>
  if b.tier != 1 || s.upsets.isEmpty then [] else meetU .spad (skey b.home (b.org + b.first).toNat) b.imageLen s

/-- A write of n bytes: the words it covers whole are whole again, the others are read first. -/
def healU (sp : Space) (key n : Nat) : Act := fun s =>
  if s.upsets.isEmpty then []
  else
    let pl := upsetPlace sp
    let under (u : Nat × Nat × Nat) : Bool := upsetUnder pl key n u
    (if s.upsets.any under then [.upset (s.upsets.filter (fun u => !under u))] else []) ++
    findUpsets (s.upsets.filter (fun u => upsetIn pl key n u && !under u)) s

/-! ### Read-modify-writes of the turntable (R218, R315) -/

/-- The single bytes a result has read and not yet written. -/
def Pend.rmwCells (p : Pend) : List (Nat × Byte) :=
  if p.again == .rmw then p.wr.flatMap (fun w => match w with
    | .mem .spad k bs => (List.range bs.length).map (fun j => (k + j, bs.getD j 0))
    | _ => [])
  else []

/-- Those of a core, in the order read. -/
def Core.rmwCells (c : Core) : List (Nat × Byte) :=
  c.pend.flatMap Pend.rmwCells ++ ((c.img.map (·.pend)).getD []).flatMap Pend.rmwCells

/-- A byte as a read-modify-write of the turntable reads it: after every earlier one of the byte. -/
def State.turnByte (s : State) (sp : Space) (k : Nat) : Byte :=
  if sp == .spad then
    match ((s.core (k / 2 ^ 22)).rmwCells.filter (fun e => e.1 == k)).getLast? with
    | some e => e.2
    | none => memGet s.spad k
  else memGet (s.mem sp) k

/-- A number of n bytes read so. -/
def State.turnNat (s : State) (sp : Space) (k n : Nat) : Nat := natOf ((List.range n).map (fun j => s.turnByte sp (k + j)))

/-- A result without the bytes of an interval. -/
def Pend.without (k n : Nat) (p : Pend) : Pend :=
  if p.again == .rmw then { p with wr := (p.rmwCells.filter (fun e => e.1 < k || k + n ≤ e.1)).map (fun e =>
    .mem .spad e.1 [e.2]) }
  else p

/-- A write that follows a read-modify-write not yet visible stands: those bytes of it are no longer written (R218). -/
def overRmw (sp : Space) (key n : Nat) : Act := fun s =>
  let m := key / 2 ^ 22
  if sp == .spad && (s.core m).rmwCells.any (fun e => key ≤ e.1 && e.1 < key + n) then
    [.core m (fun c => { c with
      pend := c.pend.map (Pend.without key n)
      img := c.img.map (fun i => { i with pend := i.pend.map (Pend.without key n) }) })]
  else []

/-- Store bytes for a task. -/
def storeU (t : Option Nat) (sp : Space) (key : Nat) (bs : List Byte) : Act := fun s =>
  keepU t sp key bs s ++ overRmw sp key bs.length s ++ healU sp key bs.length s

/-! ### Access checks of L-class operations -/

/-- Class and opcode fields of a slot's word as a record holds them: class 0 and the six bits of OP for the control slot
(R40, R366). -/
def wordOp (slot w : Nat) : Nat := if slot == 0 then bitsOf w 26 6 * 2 ^ 8 else bitsOf w 29 3 + bitsOf w 23 6 * 2 ^ 8

/-- Two signed coordinates in one detail word. -/
def packCoords (a b : Int) : Nat := (a % 2 ^ 32).toNat + (b % 2 ^ 32).toNat * 2 ^ 32

/-- Detail words of a protection or translation fault with coordinates (R366). -/
def boxDetail (slot word reg tier : Nat) (cs : List Int) (x : Xlate) : List Nat :=
  [reg, wordOp slot word + tier * 2 ^ 16,
    packCoords (cs.getD 0 0) (cs.getD 1 0), packCoords (cs.getD 2 0) (cs.getD 3 0), packCoords (cs.getD 4 0) (cs.getD 5 0),
    x.entry + (if x.rv then 2 ^ 6 else 0) + x.level * 2 ^ 8]

/-- Detail words with a context address (AD = 1). -/
def addrDetail (slot word reg tier a : Nat) (x : Xlate) : List Nat :=
  [reg, wordOp slot word + tier * 2 ^ 16 + 2 ^ 24, a, 0, 0,
    x.entry + (if x.rv then 2 ^ 6 else 0) + x.level * 2 ^ 8]

def Xlate.nil : Xlate := Xlate.bad 0 0 false 0

/-- A protection fault naming box register k, of tier 0 when it holds no box. -/
def protFlt (s : State) (k tier : Nat) (cs : List Int) : Flt :=
  faultNow s 3 0 (boxDetail s.iss.slot s.iss.word k tier cs Xlate.nil)

/-- A fault that translation found. -/
def xlateFlt (s : State) (k tier : Nat) (cs : List Int) (x : Xlate) : Flt :=
  faultNow s x.cause 0 (boxDetail s.iss.slot s.iss.word k tier cs x)

/-- Is the page kind closed to this access (R215)? Stores on sync pages, task accesses on retry-buffer pages. -/
def kindClosed (sup store : Bool) (kind : Nat) : Bool := (store && kind == 3) || (!sup && kind == 5)

/-- The front half of a publication window is closed to device writes (R215, R354). -/
def inFront (s : State) (k : Nat) (x : Xlate) : Bool :=
  x.kind == 4 && (match tfind (s.ctx k).wins x.win with
    | some w =>
      let off := x.phys - w.base
      if w.front then w.half ≤ off else off < w.half
    | none => false)

/-- Where a write through a T3 box lands when it is performed: one that stands in what is by now the front half of a window
lands in the back half (R233). -/
def backKey (s : State) (key : Nat) : Nat :=
  let phys := layoutAddr (key / 2 ^ 31) (key % 2 ^ 31)
  match s.ctxs.findSome? (fun c => c.2.wins.findSome? (fun e =>
      let w := e.2
      let front := w.base + if w.front then w.half else 0
      if front ≤ phys && phys < front + w.half then some (if w.front then phys - w.half else phys + w.half) else none)) with
  | some x => t3key x
  | none => key

/-- What bars an access to a byte of a T3 or T4 box: no mapping or right, a closed page kind, the front half of a window,
or a sealed unit whose generations are used up (R215, R350, R354, R356). -/
def byteBar (s : State) (b : Box) (sup rd wr store : Bool) (o : Int) : Option Xlate :=
  let x := translate s b.key (b.offAddr s o) rd wr
  if x.cause != 0 then some x
  else if kindClosed sup store x.kind || (wr && !x.host && inFront s b.key x) ||
      (wr && x.host && t4Full s (rangeWord s b.key x.entry 2 % 2 ^ 48) x.shadow x.phys) then some { x with cause := 3 }
  else none

/-- The check of one element access by the sequencer: bounds, place, page kind and loan (R215, R226, R228, R295). -/
def elemCheck (s : State) (k : Nat) (b : Box) (store : Bool) (cs : List Int) (h : Hit) : Option Flt :=
  match h with
  | .fault => some (protFlt s k b.tier cs)
  | .zero => none
  | .elem i =>
    match b.place s i (!store) store with
    | .none x => some (xlateFlt s k b.tier cs (if x.cause == 0 then { x with cause := 3 } else x))
    | _ =>
      match (if b.tier == 3 then (b.pages s (b.offset i) b.esize).findSome? (byteBar s b (s.core s.me).sup (!store) store store)
          else none) with
      | some x => some (xlateFlt s k b.tier cs x)
      | none => if onLoan s (s.core s.me).task b i then some (faultNow s 0x18 0 []) else none

/-- Signed 32-bit coordinates from consecutive scalar registers (R18, R225). -/
def coordRegs (s : State) (c rank : Nat) : List Int :=
  (List.range rank).map (fun j => sextOf 32 ((s.x s.me (c + j)).toNat % 2 ^ 32))

/-- The box a register holds, or a protection fault (R279). -/
def needBox (k : Nat) (f : State → Box → Option Flt) : State → Option Flt := fun s =>
  match s.b s.me k with
  | none => some (protFlt s k 0 [])
  | some b => f s b

/-- Does box register k hold a box with a property? A check of legality asks this; that the register holds a box at all is
a fault of its own, which stands behind legality (R54, R361). -/
def State.boxHas (s : State) (k : Nat) (p : Box → Bool) : Bool := (s.b s.me k).any p

/-- A right that is missing is a protection fault (R225). -/
def needRight (s : State) (k : Nat) (b : Box) (store : Bool) : Option Flt :=
  if (if store then b.wr else b.rd) then none else some (protFlt s k b.tier [])

/-- The first fault of a list of checks. -/
def firstFlt {α : Type} (f : α → Option Flt) : List α → Option Flt
  | [] => none
  | a :: r => match f a with
    | some x => some x
    | none => firstFlt f r

/-- A condition that makes the slot illegal with a reason, lowest first. -/
def reasonIf (s : State) (l : List (Bool × Nat)) : Option Flt :=
  match l.find? (·.1) with
  | some (_, c) => some (illegalNow s c)
  | none => none

/-- Register c as a signed coordinate. -/
def State.coord (s : State) (c : Nat) : Int := sextOf 32 ((s.x s.me c).toNat % 2 ^ 32)

/-- Legality, then the precise faults, then the operation. -/
def checked (legal flt : State → Option Flt) (a : Act) : Act := guarded (andThen legal flt) a

end Sys2Proof.Machine
end

