-- ==== Sys2Proof/Machine/Far.lean ====
section
/-! DEFINITION. Far accesses and fences (R228, R232, R405, R406): requests on their way to a vault station, what a
fence waits for and what it holds, and deferred faults addressed to a task. -/

namespace Sys2Proof.Machine

/-- A deferred fault for task t on core n: pending on the core, or in the saved context when the task is switched
out (R264, R361). -/
def dueFor (n : Nat) (t : Option Nat) (since : Nat) (f : Flt) (rep : Option Pend) (sup : Bool) : Act := fun s =>
  let d : Due := ⟨since, f, rep, sup⟩
  if (s.core n).task == t then [.core n (fun c => { c with due := c.due ++ [d] })]
  else match t with
    | none => []
    | some t => (match (tfind s.tasks t).bind (·.core) with
        | some m => [.core m (fun c => { c with due := c.due ++ [d] })]
        | none => [.task t (fun k => { k with saved := k.saved.map (fun v =>
            { v with core := { v.core with due := v.core.due ++ [d] } }) })])

/-- A record goes into a context's save area (R366). -/
def areaU (ctx off : Nat) (words : List Nat) : Upd := .dev (fun d => { d with areaRecs := d.areaRecs ++ [⟨ctx, off, words⟩] })

/-- The full record of a routine fault of an operation: its bundle and slot, what the trap registers hold of it, and the
working values so far (R202). -/
def routineRecord (f : Flt) (acc : List Nat) : List Nat := f.opc :: f.oslot :: f.detail.drop 1 ++ acc

/-- Do two vaults share a station (R12)? -/
def sameStation (a b : Nat) : Bool := decide (vaultStn a = vaultStn b)

/-- Issue order of a request or operation: bundle, then slot. -/
def issuePos (cyc slot : Nat) : Nat := 8 * cyc + slot

/-- Does a FENCE at a scope cover an access to a vault (R405), or to the host's memory, which lies in the host scope alone
(R206)? -/
def scopeCovers (n scope vault : Nat) : Bool :=
  if 160 ≤ vault then scope == 4
  else if scope < 2 then false else if scope == 2 then n / 40 == vault / 40 && n < 160 else true

/-- Does a fence hold a later far read, far write or fork? A release holds writes and forks, an acquire every access (R212,
R232); both pass over an access of an unordered page unless the fence is full (R214). -/
def Fence.holds (f : Fence) (isRead : Bool) (page : Nat) : Bool :=
  if page == 2 then f.acq && f.rel else f.acq || (f.rel && !isRead)

/-- Does an unsatisfied fence before `pos` hold a later fork? -/
def fenceBlocks (c : Core) (isRead : Bool) (page pos : Nat) : Bool :=
  c.fences.any (fun f => f.pos < pos && f.holds isRead page)

/-- Does an unsatisfied fence hold a far access? One whose scope does not cover the access passes over it (R232, R405). -/
def accessBlocked (c : Core) (r : Req) : Bool :=
  c.fences.any (fun f => f.pos < issuePos r.issue r.slot && f.holds (r.kind == 0) r.page && scopeCovers r.core f.scope r.vault)

/-- Do two requests reach a byte in common? -/
def Req.meets (a b : Req) : Bool :=
  a.vault == b.vault && (if a.sealed.isEmpty then a.addr < b.addr + b.len && b.addr < a.addr + a.len
    else a.sealed.getD 2 0 < b.sealed.getD 2 0 + b.len && b.sealed.getD 2 0 < a.sealed.getD 2 0 + a.len)

/-- A far request not yet performed. -/
def outstanding (s : State) (h : Nat) : Option Req := (tfind s.reqs h).filter (fun q => q.st < 3)

/-- Does a fork issued now wait behind a fence? -/
def forkBlocked (s : State) (n : Nat) : Bool := fenceBlocks (s.core n) false 0 (issuePos s.cycle s.slot)

/-- Is an earlier far access of the core to the same station still held (R228), or one of a strong page not performed that a
strong access must follow (R213)? -/
def heldBefore (s : State) (c : Core) (r : Req) : Bool :=
  let pos := issuePos r.issue r.slot
  c.heldReq.any (fun h => match tfind s.reqs h with
    | some q => sameStation q.vault r.vault && issuePos q.issue q.slot < pos
    | none => false) ||
  (strongKind r.page && s.reqs.any (fun e => e.2.core == r.core && e.2.op.isNone && strongKind e.2.page && e.2.st < 3 &&
    issuePos e.2.issue e.2.slot < pos)) ||
  -- an exchange received puts what its sender had issued before it ahead (R317)
  c.after.any (fun h => (outstanding s h).any (fun q => q.meets r && (q.kind == 1 || r.kind == 1)))

/-- HLAT. -/
def hlat (s : State) : Nat := (s.dsr 0x152).toNat

/-- The time of a far access from its core to where it is performed: the vault station in the cycle after it leaves (R228),
or through the hub to sealed host memory (R239, R359). -/
def Req.way (s : State) (r : Req) : Nat :=
  if r.sealed.isEmpty then 1 + routeTime (coreStn r.core) (vaultStn r.vault)
  else 4 + (if r.core < 160 then 2 * (coreStn r.core).y else 0) + 24 + hlat s

/-- Send a far request, or hold it. It leaves in the next cycle by the route of R13 and R14. -/
def sendFar (r : Req) : Act := fun s =>
  let c := s.core r.core
  if accessBlocked c r || heldBefore s c r then
    [.newReq { r with st := 0 }, .core r.core (fun c => { c with heldReq := c.heldReq ++ [s.nid] })]
  else
    let a := s.cycle + r.way s
    [.newReq { r with st := 1, arrive := a }, postU a 2 (.farRequestArrival s.nid)]

/-- Let one held request go when nothing holds it any more. -/
def letGo (n h : Nat) : Act := fun s =>
  let c := s.core n
  match tfind s.reqs h with
  | none => [.core n (fun c => { c with heldReq := c.heldReq.filter (· != h) })]
  | some r =>
    if accessBlocked c r || heldBefore s c r then []
    else
      let a := s.cycle + r.way s
      [.core n (fun c => { c with heldReq := c.heldReq.filter (· != h) }),
        .req h (fun q => { q with st := 1, arrive := a }), postU a 2 (.farRequestArrival h)]

/-- The link outputs a mesh packet asks for, across and then up or down, each with its hop number (R13). -/
def linksOf (a b : Stn) : List (Nat × Nat) :=
  let w := absDiff a.x b.x
  (List.range w).map (fun i => (40 * a.y + 4 * (if a.x ≤ b.x then a.x + i else a.x - i) + (if a.x ≤ b.x then 0 else 1), i)) ++
  (List.range (absDiff a.y b.y)).map (fun j =>
    (40 * (if a.y ≤ b.y then a.y + j else a.y - j) + 4 * b.x + (if a.y ≤ b.y then 2 else 3), w + j))

/-- Does a packet issued now share a link with an exchange packet under way, and do the two ask for it in one cycle? A packet
of 128 B asks in two cycles. One that R15 has held back already may ask at any cycle (R13, R15; log 15). A packet carries
its time on the way in `addr`. -/
def meets (s : State) (n p : Nat) (q : Pkt) : Bool × Bool :=
  if q.kind == 0 && q.mesh && q.issue < q.arrive && q.src / 40 == n / 40 then
    let pairs := (linksOf (coreStn n) (coreStn p)).flatMap (fun l =>
      ((linksOf (coreStn q.src) (coreStn q.dst)).filter (fun m => m.1 == l.1)).map (fun m => (l.2, m.2)))
    (!pairs.isEmpty && q.num != 0, q.num == 0 && pairs.any (fun e =>
      absDiff (s.cycle + 2 * e.1) (q.arrive - q.addr + 2 * e.2) < 2))
  else (false, false)

/-- Does packet a go before packet b on a link both ask for (R15)? -/
def Pkt.before (a b : Pkt) : Bool := a.issue < b.issue || (a.issue == b.issue && a.src < b.src)

/-- Let one held exchange go: its time on the way is what it was at issue (R216, R232), and of two packets that ask for a link
in one cycle the earlier issued goes first (R15; log 15). -/
def letGoPkt (n k : Nat) : Act := fun s =>
  match tfind s.pkts k with
  | none => [.core n (fun c => { c with heldPkt := c.heldPkt.filter (· != k) })]
  | some q =>
    if fenceBlocks (s.core n) false 0 (issuePos q.issue 7) then []
    else
      let under := (s.pkts.filter (fun e => q.mesh && e.1 != k)).map (fun e => (e, meets s q.src q.dst e.2))
      let behind := under.filter (fun e => e.1.2.before q)
      let hit := behind.any (fun e => e.2.2)
      let late := hit || behind.any (fun e => e.2.1)
      let a := s.cycle + q.addr + (if hit then 1 else 0) + (if late then Config.freeNat s.fresh else 0)
      [.core n (fun c => { c with heldPkt := c.heldPkt.filter (· != k) }),
        .pkt k (fun q => { q with
          arrive := a
          num := if late then 1 else 0 }), postU a 7 (.exchangeArrival k)] ++ (if late then [.fresh] else []) ++
      -- packets issued later that would meet it wait
      (under.filter (fun e => e.2.2 && q.before e.1.2)).flatMap (fun e =>
        let b := e.1.2.arrive + 1 + Config.freeNat (s.fresh + e.1.1)
        [.pkt e.1.1 (fun p => { p with
          arrive := b
          num := 1 }), postU b 7 (.exchangeArrival e.1.1)])

/-- Is a far access that the core issued before an operation, or with it, still held at the core? The operation's own come
after it (R216); what a received exchange puts ahead counts as the core's own (R317). -/
def Op.behindHeld (s : State) (p : Op) : Bool :=
  p.kind != .land && ((s.core p.core).heldReq.any (fun h => (tfind s.reqs h).any (fun q => q.issue ≤ p.issue)) ||
    (s.core p.core).after.any (fun h => (outstanding s h).isSome))

/-- Fork of an engine thread that a fence held (phase 9) (R216, R232); a vault program's request also waits for the far
accesses before it that are still at the core. -/
def forkHeld (n o : Nat) : Act := fun s =>
  match tfind s.ops o with
  | none => []
  | some p =>
    if p.core == n && p.phase == 9 && !fenceBlocks (s.core n) false 0 (issuePos p.issue p.slot) &&
        !(p.kind == .vrun && p.behindHeld s) && !(p.kind == .pub && p.acc.any (fun w => (tfind s.reqs w).isSome)) then
      .op o (fun p => { p with phase := 0 }) ::
      (match p.kind with
        | .coll => []
        | .lsend => [.op o (fun p => { p with st := .running, start := s.cycle + 1, fin := s.cycle + 1 + p.total }),
            postU (s.cycle + 1 + p.total) 2 (.lsendReadCompletion o)]
        | _ => [postU (s.cycle + 1) 2 (.engineOpStart o)])
    else []

/-- A held access has gone: operations of the core whose requests wait behind it may send them (R216). -/
def sendBehind (n : Nat) : Act := seqA [fun s => forA ((s.ops.filter (fun e => e.2.kind == .vrun)).map (·.1)) (forkHeld n) s, fun s =>
  ((s.ops.filter (fun e => e.2.core == n && e.2.st == .running && (e.2.kind == .cpy || e.2.kind == .scac || e.2.kind == .coll))).map
    (fun e => postU s.cycle 2 (.engineOpStart e.1)))]

/-- Held far accesses of a core that nothing holds any more go. -/
def letAllGo (n : Nat) : Act := fun s =>
  let l := (s.core n).heldReq
  seqA [forA l (letGo n), whenA (fun t => (t.core n).heldReq.length < l.length) (sendBehind n)] s

/-- An access performed is waited for no longer by cores that received an exchange issued after it (R317). -/
def wakeAfter : Act := fun s =>
  forA ((s.cores.filter (fun e => !e.2.after.isEmpty)).map (·.1)) (fun m => seqA [
    fun s => [.core m (fun c => { c with after := c.after.filter (fun h => (outstanding s h).isSome) })],
    letAllGo m,
    whenA (fun s => (s.core m).after.isEmpty) (sendBehind m)]) s

/-- Fences whose covered accesses have all been performed release what they hold; so does a strong access performed. -/
def unfence (n : Nat) : Act := seqA [
  fun s => [.core n (fun c => { c with
    fences := c.fences.filter (fun f => f.waits.any (fun w => (tfind s.reqs w).isSome)) })],
  letAllGo n,
  wakeAfter,
  fun s => forA (s.core n).heldPkt (letGoPkt n) s,
  fun s => forA (s.ops.map (·.1)) (forkHeld n) s]

/-- The far requests of core n that a fence waits for: an acquire waits for reads, and .acq and .rel pass over
unordered pages (R212, R214, R405). -/
def fenceWaits (s : State) (n scope m : Nat) : List Nat :=
  (s.reqs.filter (fun e => e.2.core == n && e.2.op.isNone && e.2.st != 4 && scopeCovers n scope e.2.vault &&
    (m != 1 || e.2.kind == 0) && (m == 0 || e.2.page != 2))).map (·.1)

/-- A task escapes (R375). -/
def escapeU (t : Option Nat) : List Upd :=
  match t with
  | some t => [.task t (fun k => { k with escaped := true })]
  | none => []

end Sys2Proof.Machine
end

