-- ==== Sys2Proof/Machine/Local.lean ====
section
/-! DEFINITION. The L class (R225 to R233, R339 to R343): element accesses, tag-checked reads, the decoder FIFO,
FENCE, PUB and the box operations. -/

namespace Sys2Proof.Machine

/-! ### Checks -/

/-- Shape checks of R225. -/
def accLegal (k c : Nat) (vec : Bool) : State → Option Flt := fun s => reasonIf s [(s.boxHas k (fun b =>
  63 < c + b.rank - 1 || b.fmt == 5 || (if vec then b.tier != 1 else b.tier == 4 || b.tier == 5)), 0xB)]

/-- Shape checks of VLDX and VSTX (R225). -/
def idxLegal (k w : Nat) : State → Option Flt := fun s => reasonIf s [(s.boxHas k (fun b =>
  b.fmt == 5 || b.tier != 1 || 32 < widthOf w / tySize b.fmt), 0xB)]

/-- Lanes of a vector access. -/
def accLanes (b : Box) (w : Nat) : Nat := widthOf w / tySize b.fmt

/-- Coordinates and hits of the lanes of a vector access (R226). -/
def laneHits (s : State) (b : Box) (c w : Nat) : List (List Int × Hit) :=
  let cs := coordRegs s c b.rank
  (List.range (accLanes b w)).map (fun (i : Nat) =>
    let ci := (cs.headD 0 + (i : Int)) :: cs.tail
    (ci, b.resolve ci))

/-- Hits of the lanes of an index vector (R227). -/
def idxHits (s : State) (b : Box) (i : Src) (w : Nat) : List (List Int × Hit) :=
  ((lanesOf 32 (accLanes b w) (s.srcV i).toNat).map (fun l =>
    let li := sextOf 32 l
    ([li], b.linear li)))

/-- Right, bounds, page kinds and loans of every lane (R215, R225, R226, R295). -/
def hitsCheck (k : Nat) (store : Bool) (hits : State → Box → List (List Int × Hit)) : State → Option Flt :=
  needBox k (fun s b =>
    match needRight s k b store with
    | some f => some f
    | none => firstFlt (fun e => elemCheck s k b store e.1 e.2) (hits s b))

def oneHit (c : Nat) (s : State) (b : Box) : List (List Int × Hit) :=
  let cs := coordRegs s c b.rank
  [(cs, b.resolve cs)]

/-- Granules the bytes of hits touch. -/
def hitGranules (s : State) (b : Box) (hs : List (List Int × Hit)) : List Nat :=
  (hs.filterMap (fun e => match e.2 with
    | .elem i => match b.place s i true false with
      | .at_ .spad key => some [key % 2 ^ 22 / 1024, (key % 2 ^ 22 + b.esize - 1) / 1024]
      | _ => none
    | _ => none)).flatten

/-- The tag check of LDT and VLDT (R230). -/
def tagCheck (k : Nat) (hits : State → Box → List (List Int × Hit)) : State → Option Flt := needBox k (fun s b =>
  if (s.core s.me).lrec.tagc && b.tier == 1 then
    match (hitGranules s b (hits s b)).find? (fun g => (s.tag b.home g).toNat != b.tb) with
    | some g => some (faultNow s 9 0 [g, (s.tag b.home g).toNat, b.tb])
    | none => none
  else none)

/-! ### Loads -/

/-- The element a hit names, as a load at this moment returns it; ZERO reads zero (R18). -/
def hitVal (s : State) (b : Box) (h : Hit) : Nat :=
  match h with
  | .elem i => (b.read s i).getD 0
  | _ => 0

/-- Flipped bits that a load of the elements meets (R380). -/
def meetHits (b : Box) (hs : List Hit) : Act := fun s =>
  if s.upsets.isEmpty then []
  else findUpsets (s.upsets.filter (fun u => hs.any (fun h => match h with
    | .elem i => (match b.place s i true false with
      | .at_ sp key => upsetIn (upsetPlace sp) key b.esize u
      | _ => false)
    | _ => false))) s

/-- LD's extension (R226). -/
def extendX (t v : Nat) : Word := if tySigned t then BitVec.ofInt 64 (sextOf (tySize t) v) else BitVec.ofNat 64 v

/-- A far request of the L slot now issuing. -/
def farReq (s : State) (kind key len : Nat) (data : List Byte) (d : Nat) (b : Box) (nb : Bool) (page : Nat)
    (under : List Nat) : Req where
  kind := kind
  core := s.me
  op := none
  task := (s.core s.me).task.getD 0
  vault := key / 2 ^ 31
  addr := key % 2 ^ 31
  len := len
  data := data
  issue := s.cycle
  arrive := 0
  reg := d
  slot := s.slot
  size := tySize b.fmt
  sgn := tySigned b.fmt
  nb := nb
  pc := s.pcNow
  sup := (s.core s.me).sup
  elem := 0
  page := page
  sealed := under
  st := 0
  done := 0

/-- LD and LDT: a T1 load, or a far load (R226, R228, R230). -/
def ldAct (d : Nat) (nb : Bool) (k c : Nat) : Act := fun s =>
  match s.b s.me k with
  | none => []
  | some b =>
    let h := b.resolve (coordRegs s c b.rank)
    if b.tier == 1 then seqA [emitX 4 d nb (extendX b.fmt (hitVal s b h)), meetHits b [h]] s
    else match h with
      | .elem i => match b.place s i true false with
        | .at_ _ key => sendFar (farReq s 0 key b.esize [] d b nb (b.kindOf s i) []) s
        | .sealed k entry phys shadow base =>
          sendFar (farReq s 0 (2 ^ 31 * 160) b.esize [] d b nb (b.kindOf s i) [k, entry, phys, shadow, base]) s
        | _ => []
      | _ =>
        -- ZERO: zero lands at the end of c + 4 in the manner of a reply
        [.newReq { farReq s 0 (2 ^ 31 * (if b.tier == 2 then b.home else ownVault s.me)) b.esize (List.replicate b.esize 0#8) d b nb 0 [] with st := 3 },
          postU (s.cycle + 4) 8 (.farLdReply s.nid)]

/-- VLD and VLDT, VLDX. -/
def vldAct (lat d : Nat) (nb : Bool) (k w : Nat) (hits : State → Box → List (List Int × Hit)) : Act := fun s =>
  match s.b s.me k with
  | none => []
  | some b =>
    let v := ofLanes (tySize b.fmt) ((hits s b).map (fun e => hitVal s b e.2))
    seqA [emit lat (s.wrV d nb (2 ^ widthOf w - 1) v) (BitVec.ofNat 1024 v), meetHits b ((hits s b).map (·.2))] s

/-! ### Stores -/

/-- The writes of a store's lanes, in lane order; ZERO drops them (R18, R226). -/
def storeWrs (s : State) (b : Box) (hs : List (List Int × Hit)) (vals : List Nat) : List Wr :=
  (hs.zip vals).filterMap (fun e => match e.1.2 with
    | .elem i => match b.place s i false true with
      | .at_ sp key => some (.mem sp key (bytesOf b.esize e.2))
      | _ => none
    | _ => none)

/-- A store's result, visible two cycles later (R52); no latch changes. -/
def emitStore (wr : List Wr) : Act := fun s => [pushPend s.me (mkPend s 2 wr none 0 none .value false)]

/-- ST (R226, R228). -/
def stAct (v k c : Nat) : Act := fun s =>
  match s.b s.me k with
  | none => []
  | some b =>
    let hs := oneHit c s b
    let val := (s.x s.me v).toNat % 2 ^ tySize b.fmt
    if b.tier == 1 then emitStore (storeWrs s b hs [val]) s
    else match b.resolve (coordRegs s c b.rank) with
      | .elem i => match b.place s i false true with
        | .at_ _ key =>
          (if b.tier == 3 && b.home != 63 then escapeU (s.core s.me).task else []) ++
          sendFar (farReq s 1 key b.esize (bytesOf b.esize val) 0 b true (b.kindOf s i) []) s
        | .sealed k entry phys shadow base =>
          (if b.home != 63 then escapeU (s.core s.me).task else []) ++
          sendFar (farReq s 1 (2 ^ 31 * 160) b.esize (bytesOf b.esize val) 0 b true (b.kindOf s i)
            [k, entry, phys, shadow, base]) s
        | _ => []
      | _ => []

/-- VST and VSTX (R226, R227). -/
def vstAct (v k w : Nat) (hits : State → Box → List (List Int × Hit)) : Act := fun s =>
  match s.b s.me k with
  | none => []
  | some b => emitStore (storeWrs s b (hits s b) (lanesOf (tySize b.fmt) (accLanes b w) (s.vn v).toNat)) s

/-! ### The decoder FIFO (R231) -/

/-- A record read at element k: lanes and the next record, or none when the expansion check fails. -/
def expandZ (s : State) (b : Box) (k : Int) (n : Nat) : Option (List Nat × Nat) :=
  let e0 : Int := b.ext.headD 0
  let at_ (q : Int) : Nat := hitVal s b (b.resolve [q])
  let m := at_ k
  let cnt := ((List.range 32).filter (fun j => m.testBit j)).length
  if m / 2 ^ n != 0 || e0 ≤ k || e0 - 1 < k + cnt then none
  else
    let lanes := (List.range n).foldl (fun (a : List Nat × Int) j =>
      if m.testBit j then (a.1 ++ [at_ a.2], a.2 + 1) else (a.1 ++ [0], a.2)) ([], k + 1)
    some (lanes.1, (lanes.2 % 2 ^ 64).toNat)

/-- The result of a VLDZ on physical register `d` (64: none): the writes of R231, or its expansion fault. -/
def vldzResult (s : State) (p : Pend) (b : Box) (k : Int) (d w : Nat) : Pend :=
  let n := widthOf w / 32
  match expandZ s b k n with
  | some (lanes, q) =>
    let v := ofLanes 32 lanes
    { p with
      wr := (if d == 64 then [] else [.v d (BitVec.ofNat 1024 (2 ^ widthOf w - 1)) (BitVec.ofNat 1024 v)]) ++
        [.sr srDZNEXT (BitVec.ofNat 64 q)]
      lat := some (BitVec.ofNat 1024 v)
      flt := none }
  | none =>
    { p with
      wr := []
      lat := none
      flt := some (deferredFlt 0x0A 0 p.slot p.pc [(k % 2 ^ 32).toNat, 0]) }

def vldzLegal (k c : Nat) : State → Option Flt := fun s => reasonIf s [(s.boxHas k (fun b =>
  b.rank != 1 || b.tier != 1 || b.fmt != 11 || 63 < c + b.rank - 1), 0xB)]

def vldzFault (k c : Nat) : State → Option Flt := hitsCheck k false (fun s b =>
  let i := s.coord c
  if (b.ext.headD 0 : Int) ≤ i then [] else [([i], b.resolve [i])])

def vldzAct (d : Nat) (nb : Bool) (k c w : Nat) : Act := fun s =>
  match s.b s.me k with
  | none => []
  | some b =>
    let i := s.coord c
    let phys := if nb then 64 else s.vp d
    let p := mkPend s 5 [] none 0 none (.vldz b (i % 2 ^ 32).toNat phys w) false
    let cnt := ((List.range 32).filter (fun j => (hitVal s b (b.resolve [i])).testBit j)).length
    seqA [pureA [pushPend s.me (vldzResult s p b i phys w)],
      meetHits b ((List.range (1 + cnt)).map (fun (j : Nat) => b.resolve [i + (j : Int)]))] s

/-! ### Box operations (R339 to R343) -/

/-- Narrowed box of BOXSUB, without its checks (R340). -/
def boxSub (s : State) (b : Box) (mm p c : Nat) : Box :=
  let r := b.rank
  let o := coordRegs s c r
  let n := coordRegs s (c + r) r
  let q := if p == 1 then s.x s.me (c + 2 * r) else 0
  { b with
    idx := b.idx + dot b.str o
    ext := n.map Int.toNat
    merge := mm
    wr := b.wr && !q.getLsbD 0
    rd := b.rd && !q.getLsbD 1
    oob := if wbits q 2 2 != 0 then wbits q 2 2 - 1 else b.oob
    fop := if mm == 3 then wbits q 4 2 else 0
    rt := if mm == 3 then wbits q 8 6 else 0
    tb := if q.getLsbD 14 then wbits q 32 16 else b.tb }

def boxsubLegal (mm p k c : Nat) : State → Option Flt := fun s =>
  reasonIf s [(s.boxHas k (fun b => 63 < c + 2 * b.rank - 1 + p) || (mm == 3 && p == 0), 0xB)]

/-- The origin and extents stay within the source (R340). -/
def boxsubFault (k c : Nat) : State → Option Flt := needBox k (fun s b =>
  let r := b.rank
  let o := coordRegs s c r
  let n := coordRegs s (c + r) r
  let ok (j : Nat) : Bool := 0 ≤ o.getD j 0 && 1 ≤ n.getD j 0 && o.getD j 0 + n.getD j 0 ≤ (b.ext.getD j 0 : Int)
  match (List.range r).find? (fun j => !ok j) with
  | none => none
  | some j => some (protFlt s k b.tier [(j : Int), o.getD j 0, n.getD j 0]))

/-- A box result: visible two cycles later, no latch (R52, R338). -/
def emitBox (d : Nat) (b : Option Box) : Act := fun s =>
  [pushPend s.me (mkPend s 2 [.b d b] none 0 none .value false)]

def boxsubAct (mm d p k c : Nat) : Act := fun s =>
  match s.b s.me k with
  | none => []
  | some b => emitBox d (some (boxSub s b mm p c)) s

/-- BOXINF's selectors (R342). -/
def boxInf (b : Box) (sel : Nat) : Word :=
  if sel == 0 then BitVec.ofNat 64 (b.tier + b.fmt * 2 ^ 3 + b.rank * 2 ^ 7 + (if b.rd then 2 ^ 10 else 0) +
    (if b.wr then 2 ^ 11 else 0) + b.merge * 2 ^ 12 + b.oob * 2 ^ 14 + b.fop * 2 ^ 16 + b.rt * 2 ^ 18 + 2 ^ 24)
  else if sel ≤ 6 then BitVec.ofNat 64 (b.ext.getD (sel - 1) 0)
  else if 9 ≤ sel && sel ≤ 14 then BitVec.ofInt 64 (b.str.getD (sel - 9) 0)
  else BitVec.ofNat 64 (b.tb + b.key * 2 ^ 16)

def boxinfSel (sel : Nat) : Bool := sel ≤ 6 || (9 ≤ sel && sel ≤ 14) || sel == 16

/-! ### FENCE and PUB (R232, R233, R354) -/

/-- FENCE: what it covers must be performed before what it holds. -/
def fenceAct (scope m : Nat) : Act := fun s =>
  let w := fenceWaits s s.me scope m
  if w.isEmpty then []
  else [.core s.me (fun c => { c with
    fences := c.fences ++ [⟨scope, m != 2, m != 1, w, issuePos s.cycle s.slot⟩] })]

/-- The window of a PUB, and its version limit (R233, R354). -/
def pubFault (a : Src) : State → Option Flt := fun s =>
  let w := wbits (s.srcX a) 0 6
  match tfind (s.ctx (s.core s.me).ctx).wins w with
  | none => some (faultNow s 3 0 ([0x1F, wordOp s.iss.slot s.iss.word]))
  | some x => if 2 ^ 64 ≤ x.version + 1 then
      some (faultNow s 3 0 ([0x1F, wordOp s.iss.slot s.iss.word])) else none

/-- A new engine operation of the slot now issuing, with nothing moved yet. -/
def mkOp (s : State) (kind : OpK) (boxes : List Box) (par : List Nat) : Op where
  kind := kind
  core := s.me
  task := (s.core s.me).task.getD 0
  ctx := (s.core s.me).ctx
  word := s.iss.word
  pc := s.pcNow
  slot := s.slot
  sup := (s.core s.me).sup
  issue := s.cycle
  tick := 0
  start := 0
  tend := 0
  fin := 0
  st := .waiting
  boxes := boxes
  par := par
  rtn := []
  rm := 0
  enb := fmtEnb (s.sr s.me srFMT)
  seq := 0
  key0 := s.sr s.me srRBKEY0
  key1 := s.sr s.me (srRBKEY0 + 1)
  total := 0
  next := 0
  acc := []
  phase := 0
  sent := 0
  got := []
  outs := []
  ovl := []
  sendAt := 0
  grans := []
  wrote := 0
  busy := none
  gather := []
  redo := false
  flags := 0
  flt := none
  bad := none
  skip := 0
  repl := []
  refused := []
  reqs := 0
  rtab := 0
  frozen := []
  ptroot := 0

/-- Far writes of a core still on their way. -/
def farWrites (s : State) (n : Nat) : List Nat :=
  (s.reqs.filter (fun e => e.2.core == n && e.2.op.isNone && e.2.kind == 1)).map (·.1)

/-- PUB: a publication that starts when the core's earlier far writes have been performed (step 1 of R224) and no fence
before it holds a write (R212).
It marks its task as escaped (R375). -/
def pubAct (a : Src) : Act := fun s =>
  let waits := farWrites s s.me
  escapeU (s.core s.me).task ++
  let go := waits.isEmpty && !forkBlocked s s.me
  [.newOp { mkOp s .pub [] [wbits (s.srcX a) 0 6] with acc := waits, phase := if go then 0 else 9 }] ++
  (if go then [postU (s.cycle + 1) 2 (.engineOpStart s.nid)] else [])

/-! ### Instructions -/

/-- LD (R226, R228). -/
def execLd (d : Nat) (nb : Bool) (k c : Nat) (s : State) : Host.Outcome State Fault Refusal :=
  done (checked (accLegal k c false) (hitsCheck k false (oneHit c)) (ldAct d nb k c)) s
/-- ST (R226, R228). -/
def execSt (v k c : Nat) (s : State) : Host.Outcome State Fault Refusal :=
  done (checked (accLegal k c false) (hitsCheck k true (oneHit c)) (stAct v k c)) s
/-- VLD (R226). -/
def execVld (d : Nat) (nb : Bool) (k c w : Nat) (s : State) : Host.Outcome State Fault Refusal :=
  done (checked (accLegal k c true) (hitsCheck k false (fun s b => laneHits s b c w))
    (vldAct 4 d nb k w (fun s b => laneHits s b c w))) s
/-- VST (R226). -/
def execVst (v k c w : Nat) (s : State) : Host.Outcome State Fault Refusal :=
  done (checked (accLegal k c true) (hitsCheck k true (fun s b => laneHits s b c w))
    (vstAct v k w (fun s b => laneHits s b c w))) s
/-- VLDX (R227). -/
def execVldx (d : Nat) (nb : Bool) (k : Nat) (i : Src) (w : Nat) (s : State) : Host.Outcome State Fault Refusal :=
  done (checked (idxLegal k w) (hitsCheck k false (fun s b => idxHits s b i w))
    (vldAct 6 d nb k w (fun s b => idxHits s b i w))) s
/-- VSTX (R227). -/
def execVstx (v k : Nat) (i : Src) (w : Nat) (s : State) : Host.Outcome State Fault Refusal :=
  done (checked (idxLegal k w) (hitsCheck k true (fun s b => idxHits s b i w))
    (vstAct v k w (fun s b => idxHits s b i w))) s
/-- LDT (R230). -/
def execLdt (d : Nat) (nb : Bool) (k c : Nat) (s : State) : Host.Outcome State Fault Refusal :=
  done (checked (accLegal k c false) (andThen (hitsCheck k false (oneHit c)) (tagCheck k (oneHit c)))
    (ldAct d nb k c)) s
/-- VLDT (R230). -/
def execVldt (d : Nat) (nb : Bool) (k c w : Nat) (s : State) : Host.Outcome State Fault Refusal :=
  done (checked (accLegal k c true) (andThen (hitsCheck k false (fun s b => laneHits s b c w))
    (tagCheck k (fun s b => laneHits s b c w))) (vldAct 4 d nb k w (fun s b => laneHits s b c w))) s
/-- VLDZ (R231). -/
def execVldz (d : Nat) (nb : Bool) (k c w : Nat) (s : State) : Host.Outcome State Fault Refusal :=
  done (checked (vldzLegal k c) (vldzFault k c) (vldzAct d nb k c w)) s
/-- BOXSUB (R339, R340). -/
def execBoxsub (mm d p k c : Nat) (s : State) : Host.Outcome State Fault Refusal :=
  done (checked (boxsubLegal mm p k c) (boxsubFault k c) (boxsubAct mm d p k c)) s
/-- BOXINF (R342): a register that holds no box returns 0. -/
def execBoxinf (d : Nat) (nb : Bool) (k sel : Nat) (s : State) : Host.Outcome State Fault Refusal :=
  done (guarded (fun s => reasonIf s [(!boxinfSel sel, 2)]) (fun s =>
    emitX 2 d nb (match s.b s.me k with
      | some b => boxInf b sel
      | none => 0) s)) s
/-- BOXMOV (R343). -/
def execBoxmov (d k : Nat) (s : State) : Host.Outcome State Fault Refusal :=
  done (fun s => emitBox d (if k == 16 then none else s.b s.me k) s) s
/-- FENCE (R232). -/
def execFence (scope m : Nat) (s : State) : Host.Outcome State Fault Refusal := done (fenceAct scope m) s
/-- PUB (R233). -/
def execPub (a : Src) (s : State) : Host.Outcome State Fault Refusal := done (guarded (pubFault a) (pubAct a)) s

end Sys2Proof.Machine
end

