-- ==== Sys2Proof/Machine/Dram.lean ====
section
/-! DEFINITION. The signal box (R250 to R275, R402, R403, R413): clock and bank timing, the interlock, vault programs,
refresh, and when the box serves far requests. -/

namespace Sys2Proof.Machine

/-! ### CK and cycles (R254, R256) -/

/-- Real CK at a program CK, at the present stretch level (R256, R387). A stretched cycle adds k/8 of a CK; where the whole
idle CK fall the spec does not say: the model inserts each at the end of the cycle in which the eighths, carried over every
change of level, complete one (DESIGN CHOICE, log 79). -/
def ckReal (s : State) (p : Nat) : Nat :=
  let q := p / 2 - s.dev.levelAt
  s.dev.realAt + 2 * q + (s.dev.frac + q * s.dev.level) / 8 + p % 2

/-- The first cycle that begins at or after a real CK. -/
def cycleOfReal (s : State) (r : Nat) : Nat :=
  s.dev.levelAt + ((r - s.dev.realAt) * 8 - s.dev.frac + 15 + s.dev.level) / (16 + s.dev.level)

/-- The first program CK at or after a real CK. -/
def ckOfReal (s : State) (r : Nat) : Nat :=
  let c := cycleOfReal s r
  ([2 * c - 2, 2 * c - 1].find? (fun p => 2 * s.dev.levelAt ≤ p && r ≤ ckReal s p)).getD (2 * c)

/-- The cycle of a CTIME value, past or to come. -/
def tickCycle (s : State) (t : Nat) : Nat :=
  if t ≤ s.ctime then s.cycle - (s.ctime - t) else s.cycle + (t - s.ctime)

/-- The route time from a core to a vault station (R253). -/
def coreVault (n v : Nat) : Nat := routeTime (coreStn n) (vaultStn v)

/-! ### Banks and the timing table (R261, R262) -/

/-- Key of a bank. -/
def bkey (pc bg bk : Nat) : Nat := 16 * pc + 4 * bg + bk
def Vault.bank (t : Vault) (k : Nat) : Bank := tget Bank.start t.banks k
def Vault.chan (t : Vault) (pc : Nat) : PChan := tget PChan.start t.chans pc
/-- Keys of the banks of a pseudo-channel. -/
def banksOf (pc : Nat) : List Nat := (List.range 16).map (16 * pc + ·)

/-- One constraint: its code, the constraining command's real CK plus one (0: none), and the gap. -/
abbrev Con := Nat × Nat × Nat

/-- The violated constraint of lowest code at real CK r: code, required gap, actual gap (R263, R264). -/
def violated (r : Nat) (l : List Con) : Option (Nat × Nat × Nat) :=
  l.foldl (fun best c =>
    if c.2.1 != 0 && r + 1 < c.2.1 + c.2.2 then
      let x := (c.1, c.2.2, r + 1 - c.2.1)
      match best with
      | none => some x
      | some b => if c.1 < b.1 || (c.1 == b.1 && x.2.2 < b.2.2) then some x else some b
    else best) none

/-- The earliest real CK from r on that meets every constraint. -/
def earliest (r : Nat) (l : List Con) : Nat :=
  l.foldl (fun a c => if c.2.1 == 0 then a else max a (c.2.1 - 1 + c.2.2)) r

/-- After a refresh of the bank or its pseudo-channel. -/
def refCons (t : Vault) (k : Nat) : List Con := [(0x0F, (t.bank k).ref, 224), (0x10, (t.chan (k / 16)).refab, 560)]

/-- tRRD and tFAW against earlier ACTs (a REFPB counts, R262). -/
def rrdCons (t : Vault) (pc bg : Nat) : List Con :=
  let a := (t.chan pc).acts
  (a.map (fun e => if e.2 == bg then (8, e.1, 6) else (7, e.1, 4))) ++ [(9, (a.getD 3 (0, 0)).1, 24)]

def actCons (t : Vault) (k : Nat) : List Con :=
  [(2, (t.bank k).pre, 24), (4, (t.bank k).act, 77)] ++ rrdCons t (k / 16) (k / 4 % 4) ++ refCons t k

/-- The last WR of each bank group of a pseudo-channel. -/
def lastWr (t : Vault) (pc bg : Nat) : Nat := ((List.range 4).map (fun b => (t.bank (bkey pc bg b)).wr)).foldl max 0

def colCons (t : Vault) (k : Nat) (isWr : Bool) : List Con :=
  let pc := k / 16
  let bg := k / 4 % 4
  let c := t.chan pc
  [(1, (t.bank k).act, 24), if c.colBg == bg then (6, c.colCk, 4) else (5, c.colCk, 2)] ++
  (if isWr then [(0xE, c.rdCk, 16)]
   else (List.range 4).map (fun g => if g == bg then (0xC, lastWr t pc g, 24) else (0xB, lastWr t pc g, 18))) ++
  refCons t k

def preCons (t : Vault) (k : Nat) : List Con :=
  (if (t.bank k).row.isSome then [(3, (t.bank k).act, 53), (0xA, (t.bank k).wr, 38), (0xD, (t.bank k).rd, 6)] else []) ++
  refCons t k

/-- The lowest code among state checks (code, failed) and timing (R263). -/
def firstCode (l : List (Bool × Nat)) (tm : Option (Nat × Nat × Nat)) : Option (Nat × Nat × Nat) :=
  let st := l.foldl (fun (best : Option Nat) e => if e.1 then (match best with
    | none => some e.2
    | some b => some (min b e.2)) else best) none
  match st, tm with
  | none, x => x
  | some c, none => some (c, 0, 0)
  | some c, some x => if c < x.1 then some (c, 0, 0) else some x

/-! Effects of commands on the banks. -/

def Vault.setBank (t : Vault) (k : Nat) (f : Bank → Bank) : Vault := { t with banks := tput t.banks k (f (t.bank k)) }
def Vault.setChan (t : Vault) (pc : Nat) (f : PChan → PChan) : Vault := { t with chans := tput t.chans pc (f (t.chan pc)) }

def Vault.onAct (t : Vault) (k row r : Nat) : Vault :=
  (t.setBank k (fun b => { b with row := some row, act := r + 1 })).setChan (k / 16)
    (fun c => { c with acts := ((r + 1, k / 4 % 4) :: c.acts).take 4 })

/-- A column command; with `auto` the bank counts as closed, precharged at the earliest CK (R259, R262). -/
def Vault.onCol (t : Vault) (k : Nat) (isWr auto : Bool) (r : Nat) : Vault :=
  let t := (t.setBank k (fun b => if isWr then { b with wr := r + 1 } else { b with rd := r + 1 })).setChan (k / 16)
    (fun c => { c with colCk := r + 1, colBg := k / 4 % 4, rdCk := if isWr then c.rdCk else r + 1 })
  if auto then
    let p := earliest r (preCons t k)
    t.setBank k (fun b => { b with row := none, pre := p + 1 })
  else t

def Vault.onPre (t : Vault) (k r : Nat) : Vault :=
  if (t.bank k).row.isSome then t.setBank k (fun b => { b with row := none, pre := r + 1 }) else t

def Vault.onRefpb (t : Vault) (k r : Nat) : Vault :=
  (t.setBank k (fun b => { b with ref := r + 1, debt := b.debt - 1 })).setChan (k / 16)
    (fun c => { c with acts := ((r + 1, k / 4 % 4) :: c.acts).take 4 })

/-- REFAB; a debt never falls below −8. -/
def Vault.onRefab (t : Vault) (pc r : Nat) : Vault :=
  ((banksOf pc).foldl (fun t k => t.setBank k (fun b => { b with debt := max (b.debt - 1) (-8) })) t).setChan pc
    (fun c => { c with refab := r + 1 })

/-- Close every open bank of a list at the earliest legal CK from r on: the last such CK. -/
def Vault.closeOn (ks : List Nat) (t : Vault) (r : Nat) : Vault × Option Nat :=
  ks.foldl (fun a k =>
    if (a.1.bank k).row.isSome then
      let p := earliest r (preCons a.1 k)
      (a.1.setBank k (fun b => { b with row := none, pre := p + 1 }), some (max p (a.2.getD 0)))
    else a) (t, none)
def Vault.closeAll : Vault → Nat → Vault × Option Nat := Vault.closeOn (List.range 64)

def Vault.anyOpen (t : Vault) (ks : List Nat) : Bool := ks.any (fun k => (t.bank k).row.isSome)

/-- The real CK from which every constraint has elapsed (R254). -/
def Vault.settledReal (t : Vault) : Nat :=
  let b := (List.range 64).foldl (fun a k =>
    let x := t.bank k
    [(x.pre, 24), (x.act, 77), (x.wr, 38), (x.rd, 16), (x.ref, 224)].foldl
      (fun a e => if e.1 == 0 then a else max a (e.1 - 1 + e.2)) a) 0
  (List.range 4).foldl (fun a pc =>
    let c := t.chan pc
    [(c.colCk, 4), (c.rdCk, 16), (c.refab, 560), ((c.acts.headD (0, 0)).1, 24)].foldl
      (fun a e => if e.1 == 0 then a else max a (e.1 - 1 + e.2)) a) b

/-- The first cycle that begins with the box settled, as far as past commands decide it. -/
def settleCycle (s : State) (t : Vault) : Nat := max t.settled (cycleOfReal s t.settledReal)

/-! ### What the box does next (R253, R254, R267 to R269) -/

def reqBank (a : Nat) : Nat := bkey (a / 2 ^ 10 % 4) (a / 2 ^ 14 % 4) (a / 2 ^ 12 % 4)

/-- Is an earlier far access of the same core to the same station still unperformed (R228)? -/
def behindOwn (s : State) (id : Nat) (r : Req) : Bool :=
  r.op.isNone && s.reqs.any (fun e => e.1 != id && e.2.core == r.core && e.2.op.isNone && e.2.st < 3 &&
    sameStation e.2.vault r.vault && issuePos e.2.issue e.2.slot < issuePos r.issue r.slot)

/-- Bank commands of a request, its ACT and its last column command at real CK a and c: for a turntable update the RD and
then the WRA (R268, R415). -/
def serveBanks (t : Vault) (r : Req) (a c : Nat) : Vault :=
  let k := reqBank r.addr
  let t := t.onAct k (r.addr / 65536) a
  if 2 ≤ r.kind then (t.onCol k false false (c - 16)).onCol k true true c else t.onCol k (r.kind == 1) true c

/-- The CK of the last column command of a request whose ACT stands at real CK a, from a CK on. -/
def colPlan (s : State) (t : Vault) (r : Req) (a from_ : Nat) : Nat :=
  let k := reqBank r.addr
  let c := ckOfReal s (earliest (max (a + 24) (ckReal s from_)) (colCons (t.onAct k (r.addr / 65536) a) k (r.kind == 1)))
  if 2 ≤ r.kind then ckOfReal s (ckReal s c + 16) else c

/-- The plan for the request at the head: the CK and the real CK of its ACT, the CK of its last column command, and the real
CK at which its bank is closed again with tRP elapsed. Its ACT comes after every column command before it (R268). -/
def servePlan (s : State) (t : Vault) (r : Req) (from_ : Nat) : Nat × Nat × Nat × Nat :=
  let last := (List.range 4).foldl (fun a pc => max a (t.chan pc).colCk) (ckReal s from_)
  let a := ckOfReal s (earliest last (actCons t (reqBank r.addr)))
  let c := colPlan s t r (ckReal s a) from_
  (a, ckReal s a, c, ((serveBanks t r (ckReal s a) (ckReal s c)).bank (reqBank r.addr)).pre - 1 + 24)

/-- The waiting far accesses that the issuer of the first start request made before it: they happen before the program
(R216; DEDUCED, log 100). -/
def aheadOfStart (s : State) (t : Vault) : List Nat :=
  match t.queue with
  | q :: _ => if q.kind == 1 then [] else t.waiting.filter (fun id => (tfind s.reqs id).any (fun r =>
      r.core == q.issuer && r.op.isNone && r.issue ≤ q.issue))
  | [] => []

/-- Serve refresh, then the request at the head of `waits`; `win` bounds an open window (R267, R268). -/
def serveNext (v : Nat) (waits : List Nat) (win : Option (Nat × Nat)) : Act := fun s =>
  let t := s.vault v
  let from_ := match win with
    | some w => max w.1 (2 * s.cycle)
    | none => 2 * s.cycle
  let fits (r : Nat) : Bool := match win with
    | some w => r < ckReal s w.2
    | none => true
  let debtOf (pc : Nat) : Int := ((banksOf pc).map (fun k => (t.bank k).debt)).foldl max (-8)
  let pcs := (List.range 4).filter (fun pc => !(t.chan pc).forced)
  let refAt (pc : Nat) : Nat := earliest (ckReal s from_) ((banksOf pc).flatMap (fun k => (2, (t.bank k).pre, 24) :: refCons t k))
  let refs (lim : Int) : List Nat := pcs.filter (fun pc => lim ≤ debtOf pc && fits (refAt pc + 560))
  let refU (l : List Nat) : List Upd := l.map (fun pc => postU (ckOfReal s (refAt pc) / 2) 4 (.insertedRefresh v pc))
  if !(refs 4).isEmpty && (win.isSome || t.queue.isEmpty) then refU (refs 4)
  else
    match waits with
    | [] => refU (refs 1)
    | id :: _ =>
      match tfind s.reqs id with
      | none => []
      | some r =>
        if (t.chan (r.addr / 2 ^ 10 % 4)).forced || behindOwn s id r then []
        else
          let pl := servePlan s t r (max from_ (2 * r.arrive))
          if fits pl.2.2.2 then
            [.vault v (fun t => { t with serve := some (id, pl.1, pl.2.1, pl.2.2.1) }),
              postU (pl.2.2.1 / 2) 4 (.foreignRequestService v)]
          else []

/-- Cancel a request that has not begun its ACT. -/
def unserve (v : Nat) : Act := fun s =>
  match (s.vault v).serve with
  | some (_, a, _) => if 2 * s.cycle ≤ a then [.vault v (fun t => { t with serve := none })] else []
  | none => []

/-- The next default-generator program enters the queue: one at a time, while there is room (R253, R275). -/
def genEnter (v : Nat) : Act := fun s =>
  let t := s.vault v
  match t.gens with
  | [] => []
  | q :: rest =>
    if 4 ≤ t.queue.length || t.queue.any (fun q => q.kind == 1) || (t.prog.any (fun p => p.req.kind == 1)) || vaultOff s v then []
    else seqA [pureA [.vault v (fun t => { t with queue := t.queue ++ [q], gens := rest })], unserve v] s

/-- Decide what an idle moment of the box leads to. -/
def vaultKick (v : Nat) : Act := seqA [genEnter v, fun s =>
  let t := s.vault v
  if t.serve.isSome then []
  else match t.prog with
    | some _ => match t.window with
      | some w => if 2 * s.cycle < w.2 then serveNext v t.waiting (some w) s else []
      | none => []
    | none => if t.queue.isEmpty then serveNext v t.waiting none s
      else if !(aheadOfStart s t).isEmpty then serveNext v (aheadOfStart s t) none s
      else [postU (max s.cycle (settleCycle s t)) 3 (.vaultProgramStart v)]]

/-- The request being served after a change of level: its column command is placed anew where its ACT has issued, and the
whole request where it has not (R256). -/
def reserve (v : Nat) : Act := seqA [unserve v, fun s =>
  let t := s.vault v
  match t.serve with
  | none => []
  | some (id, a, ra, _) =>
    match tfind s.reqs id with
    | none => []
    | some r =>
      let c := colPlan s t r ra (2 * s.cycle)
      [.vault v (fun t => { t with serve := some (id, a, ra, c) }), postU (c / 2) 4 (.foreignRequestService v)],
  vaultKick v]

/-! ### Vault programs -/

/-- The command at index i of a program's segment. -/
def vaultWord (s : State) (q : VStart) (i : Nat) : Option Nat :=
  match (s.ctx q.ctx).code with
  | some c => c.vault[q.first + i]?
  | none => none

/-- The gap field of a word. -/
def gapOf (w : Nat) : Nat := bitsOf w 22 5

/-- The cursor after a command that passes at CK ck (R260). -/
def VCur.after (s : State) (q : VStart) (c : VCur) (i : Instr) (ck : Nat) : VCur :=
  match i with
  | .wait _ n => { c with idx := c.idx + 1, pos := ck + n }
  | .start _ dt => { c with idx := c.idx + 1, pos := max ck (2 * tickCycle s (q.tbase + dt)) }
  | .vopen _ n => { c with idx := c.idx + 1, pos := ck + n }
  | .loop _ dist cnt =>
    let lc := if c.lc == 0 then cnt + 1 else c.lc
    let li := if c.lc == 0 then c.idx else c.li
    if 0 < lc - 1 then ⟨c.idx - dist, ck, lc - 1, li⟩ else ⟨c.idx + 1, ck, lc - 1, li⟩
  | .jump _ tgt => { c with idx := tgt, pos := ck }
  | _ => { c with idx := c.idx + 1, pos := ck }

/-- The closing of a program at CK ck: precharges, its end, and the join of its engine thread (R255, R403, R274). -/
def vfinish (v ck : Nat) (halt : Bool) : Act := fun s =>
  let t := s.vault v
  match t.prog with
  | none => []
  | some p =>
    if p.ends.isSome then []
    else
      let (t', last) := t.closeAll (ckReal s ck)
      let pl := match last with
        | some x => ckOfReal s x
        | none => ck
      let h := coreVault p.req.issuer v
      let fin := max p.stamp ((if halt then ck else pl) / 2 + 4 + h)
      [.vault v (fun _ => { t' with prog := some { p with ends := some (pl / 2), last := last, halted := halt }, window := none }),
        .op p.req.op (fun o => { o with st := .done, fin := fin }),
        postU (max s.cycle (pl / 2)) 3 (.vaultProgramEnd v),
        -- a TRET that waits for the join sees it then (R288)
        postU (max s.cycle fin) 3 (.vaultProgramEnd v)]

/-- A closing program after a change of level: its last precharge keeps its real CK, so its end and its join are reckoned
anew (R256, R403). -/
def reclose (v : Nat) : Act := fun s =>
  match (s.vault v).prog with
  | none => []
  | some p =>
    match p.ends, p.last with
    | some e, some x =>
      let pl := ckOfReal s x
      if e < s.cycle || pl / 2 == e then []
      else
        let fin := max p.stamp (pl / 2 + 4 + coreVault p.req.issuer v)
        [.vault v (fun t => { t with prog := some { p with ends := some (pl / 2) } }), postU (pl / 2) 3 (.vaultProgramEnd v)] ++
        (if p.halted then [] else [.op p.req.op (fun o => { o with fin := fin }), postU fin 3 (.vaultProgramEnd v)])
    | _, _ => []

/-- The interlock refuses the program's next command with a code (R263, R264, R402): the program stops and the context
takes an interlock fault. -/
def vrefuse (v code req actual ck close : Nat) : Act := fun s =>
  match (s.vault v).prog with
  | none => []
  | some p =>
    let word := (vaultWord s p.req p.cur.idx).getD 0
    let f := deferredFlt 0x11 0 p.req.slot p.req.pc
      [v + p.cur.idx % 4096 * 2 ^ 16 + code * 2 ^ 32, word, req + actual * 2 ^ 16, ck, p.issued % 2 ^ 32 + p.req.first * 2 ^ 32]
    seqA [dueFor p.req.issuer (some p.req.task) (ck / 2 + 4 + coreVault p.req.issuer v) f none p.req.sup,
      vfinish v close false] s

/-- The commands of a default-generator program (R275): its next command and its CK. Between two requests a REFAB comes first
for a pseudo-channel with a debt of 4 or more (R267); then an ACT and a column command with auto-precharge for each column,
each at the earliest legal CK, and HALT at the end. -/
def genCmd (s : State) (t : Vault) (p : VProg) : Nat × Instr :=
  let r := ckReal s (max p.cur.pos (2 * s.cycle))
  let owed := (List.range 4).find? (fun pc =>
    (banksOf pc).any (fun k => 4 ≤ (t.bank k).debt) && !t.anyOpen (banksOf pc))
  match p.cur.idx % 2 == 0, owed, p.req.cols[p.cur.idx / 2]? with
  | true, some pc, _ =>
    (ckOfReal s (earliest r ((banksOf pc).flatMap (fun k => (2, (t.bank k).pre, 24) :: refCons t k))), .refab 0 pc)
  | _, _, none => (max p.cur.pos (2 * s.cycle), .vaultHalt 0)
  | even, _, some (a, w) =>
    let k := reqBank a
    if even then (ckOfReal s (earliest r (actCons t k)), .act 0 (k / 16) (k / 4 % 4) (k % 4) (a / 65536))
    else
      let i : Instr := if w then .wra 0 (k / 16) (k / 4 % 4) (k % 4) (a / 64 % 16) 0 0
        else .rda 0 (k / 16) (k / 4 % 4) (k % 4) (a / 64 % 16) 0 0
      (ckOfReal s (earliest r (colCons t k w)), i)

/-- What a command of a default-generator program does to the banks at real CK r: the data move with the copy itself. -/
def genBanks (i : Instr) (t : Vault) (r : Nat) : Vault :=
  match i with
  | .act _ pc bg bk row => t.onAct (bkey pc bg bk) row r
  | .rda _ pc bg bk _ _ _ => t.onCol (bkey pc bg bk) false true r
  | .wra _ pc bg bk _ _ _ => t.onCol (bkey pc bg bk) true true r
  | .refab _ pc => t.onRefab pc r
  | _ => t

/-- A step of a default-generator program: no check can refuse it (R275). -/
def genStep (v : Nat) (i : Instr) : Act := fun s =>
  match (s.vault v).prog with
  | none => []
  | some p =>
    let ck := (genCmd s (s.vault v) p).1
    let up (q : VProg) : VProg := { q with
      cur := ⟨(match i with
        | .refab _ _ => q.cur.idx
        | _ => q.cur.idx + 1), ck + 1, 0, 0⟩
      issued := q.issued + 1 }
    match i with
    | .vaultHalt _ => vfinish v ck true s
    | _ => [.vault v (fun t => { genBanks i t (ckReal s ck) with prog := t.prog.map up })]

/-- A command of a vault program: its checks at its CK, then its effect. -/
def vcmd (i : Instr) (g : Nat) (chk : State → Vault → VProg → Nat → Option (Nat × Nat × Nat))
    (eff : Nat → Nat → VProg → Act) : Act := fun s =>
  let v := s.iss.vault
  let t := s.vault v
  match t.prog with
  | none => []
  | some p =>
    let ck := p.cur.pos + g
    if p.req.kind == 1 then genStep v i s
    else match chk s t p (ckReal s ck) with
    | some (code, req, act) => vrefuse v code req act ck ck s
    | none => seqA [eff v ck p, fun s => [.vault v (fun t => { t with
        prog := t.prog.map (fun q => { q with cur := q.cur.after s p.req i ck, issued := q.issued + 1 }) })]] s

/-- A change of the banks at the command's real CK. -/
def onBanks (f : Vault → VProg → Nat → Vault) : Nat → Nat → VProg → Act := fun v ck p s =>
  [.vault v (fun t => f t p (ckReal s ck))]

/-- The platform register of the owner core, and whether a command may use it (R270). -/
def platOf (s : State) (p : VProg) (pl : Nat) : Word := s.sr p.req.owner (srPLAT0 + pl)
def platBad (s : State) (p : VProg) (pl : Nat) : Bool :=
  let c := s.core p.req.owner
  !(platOf s p pl).getLsbD 21 || c.run == .idle || c.run == .fenced || c.ctx != p.req.ctx

/-- Scratchpad byte of unit u of a ring (R270). -/
def unitByte (plat : Word) (u : Nat) : Nat :=
  wbits plat 0 12 * 1024 + u * 64 % 2 ^ (wbits plat 12 4 + wbits plat 16 4)

/-- Byte offset in the vault of a column of the open row (R250). -/
def colAddr (t : Vault) (pc bg bk col : Nat) : Nat :=
  ((t.bank (bkey pc bg bk)).row.getD 0) * 65536 + bg * 2 ^ 14 + bk * 2 ^ 12 + pc * 2 ^ 10 + col * 64

def colChk (isWr : Bool) (pc bg bk pl : Nat) : State → Vault → VProg → Nat → Option (Nat × Nat × Nat) :=
  fun s t p r =>
    let k := bkey pc bg bk
    firstCode [((t.bank k).row.isNone, 0x12), (if isWr then !p.req.wr else !p.req.rd, 0x13), (platBad s p pl, 0x17)]
      (violated r (colCons t k isWr))

/-- RD and RDA: the column's 64 B travel to the unit, and a stamp with DS = 0 (R271). -/
def rdAct (auto : Bool) (pc bg bk col pl u : Nat) : Nat → Nat → VProg → Act := fun v ck p s =>
  let t := s.vault v
  let plat := platOf s p pl
  let key := vkey v (colAddr t pc bg bk col)
  let data := memGets s.dram key 64
  let d := (ck + 27) / 2 + 4 + coreVault p.req.owner v
  let byte := unitByte plat (u + p.req.uoff)
  let g := byte / 1024
  let stamp := if plat.getLsbD 20 then none else some (wbits plat 32 16)
  meetU .dram key 64 s ++ [.newPkt ⟨3, v, p.req.owner, 0, s.cycle, d, false, 0, 0, 0, byte, data, stamp, p.req.task, [], 0⟩,
    postU d 2 (.platformDelivery s.nid),
    .vault v (fun t => (t.onCol (bkey pc bg bk) false auto (ckReal s ck))),
    .vault v (fun t => { t with prog := t.prog.map (fun q => { q with
      lastD := tput q.lastD g (max d (tget 0 q.lastD g)), stamp := if stamp.isSome then max q.stamp (d + 1) else q.stamp }) })]

/-- The bytes a WR or WRA writes: those read ahead (R272). -/
def wrAct (auto : Bool) (pc bg bk col pl u : Nat) : Nat → Nat → VProg → Act := fun v ck p s =>
  let t := s.vault v
  let data := match p.units with
    | b :: _ => b
    | [] => memGets s.spad (skey p.req.owner (unitByte (platOf s p pl) (u + p.req.uoff))) 64
  seqA [storeU (some p.req.task) .dram (vkey v (colAddr t pc bg bk col)) data,
    fun s => [.vault v (fun t => t.onCol (bkey pc bg bk) true auto (ckReal s ck)),
      .vault v (fun t => { t with prog := t.prog.map (fun q => { q with units := q.units.drop 1 }) })]] s

/-- TAGW: the stamp follows the last delivery into its granule (R273). -/
def tagwAct (pl u : Nat) : Nat → Nat → VProg → Act := fun v ck p s =>
  let plat := platOf s p pl
  let byte := unitByte plat (u + p.req.uoff)
  let d := tget 0 p.lastD (byte / 1024)
  let vis := if d == 0 then ck / 2 + 5 + coreVault p.req.owner v else d + 1
  [.newPkt ⟨3, v, p.req.owner, 0, s.cycle, vis, false, 0, 0, 0, byte, [], some (wbits plat 32 16), p.req.task, [], 0⟩,
    postU vis 2 (.platformDelivery s.nid),
    .vault v (fun t => { t with prog := t.prog.map (fun q => { q with stamp := max q.stamp vis }) })]

/-- A delivery into a platform: data, then the stamp one cycle later (R271). -/
def platformDeliveryAct (o : Nat) : Act := fun s =>
  match tfind s.pkts o with
  | none => []
  | some k =>
    if k.kind != 3 || s.cycle < k.arrive then []
    else if k.data.isEmpty then
      (match k.tag with
        | some tb => [.tag k.dst (k.addr / 1024) (BitVec.ofNat 16 tb)]
        | none => []) ++ [.delPkt o]
    else seqA [storeU (some k.tries) .spad (skey k.dst k.addr) k.data,
      pureA (match k.tag with
        | some _ => [.pkt o (fun k => { k with data := [], arrive := s.cycle + 1 }),
            postU (s.cycle + 1) 2 (.platformDelivery o)]
        | none => [.delPkt o])] s

/-- Where the read-ahead stands next (R272): the next WR or WRA with its CK, platform and unit, or none after as many
commands as the fuel allows; and the cursor from which it goes on. -/
def aheadNext (s : State) (q : VStart) : Nat → VCur → Option (Option (Nat × Nat × Nat) × VCur)
  | 0, c => some (none, c)
  | f + 1, c =>
    match vaultWord s q c.idx with
    | none => none
    | some w =>
      match decodeVault w with
      | .error _ => none
      | .ok i =>
        let ck := c.pos + gapOf w
        match i with
        | .wr _ _ _ _ _ pl u => some (some (ck, pl, u), c.after s q i ck)
        | .wra _ _ _ _ _ pl u => some (some (ck, pl, u), c.after s q i ck)
        | .vaultHalt _ => none
        | _ => aheadNext s q f (c.after s q i ck)

/-- The cycle of the next move of a vault's read-ahead, if any: every WR from a cursor on has a CK no earlier. -/
def aheadCycle (s : State) (v : Nat) : Option Nat :=
  match (s.vault v).prog with
  | none => none
  | some p =>
    if p.ends.isSome || p.req.kind == 1 then none
    else match aheadNext s p.req 256 p.ahead with
      | some (some (ck, _), _) => some (ck / 2 - 4 - coreVault p.req.owner v)
      | some (none, c) => some (c.pos / 2 - 4 - coreVault p.req.owner v)
      | none => none

/-- WR_UNIT_READ (R272): the unit as a VLD in this cycle would read it. -/
def wrUnitReadAct (v : Nat) : Act := fun s =>
  match (s.vault v).prog with
  | none => []
  | some p =>
    match aheadNext s p.req 256 p.ahead with
    | none => []
    | some (none, c) => [.vault v (fun t => { t with prog := t.prog.map (fun q => { q with ahead := c }) })]
    | some (some (ck, pl, u), c) =>
      if s.cycle < ck / 2 - 4 - coreVault p.req.owner v then []
      else
        -- where the program came too late to its station for it, the read is the one of its cycle all the same
        let due := ck / 2 - 4 - coreVault p.req.owner v
        let key := skey p.req.owner (unitByte (platOf s p pl) (u + p.req.uoff))
        let data := (List.range 64).map (fun j => s.pastByte (key + j) due)
        meetU .spad key 64 s ++ [.vault v (fun t => { t with prog := t.prog.map (fun q => { q with ahead := c, units := q.units ++ [data] }) })]

/-- The cycle of the next command of a vault's program, if one is still to issue. -/
def nextCmd (s : State) (v : Nat) : Option (Nat × Option Nat) :=
  match (s.vault v).prog with
  | none => none
  | some p =>
    let t := s.vault v
    if p.ends.isSome || p.stop.isSome then none
    else if p.req.kind == 1 then
      if p.cur.idx % 2 == 0 && (List.range 4).any (fun pc => (t.chan pc).forced) then none
      else
        let x := genCmd s t p
        some (x.1, (encode x.2).map (·.1))
    else
      let w := vaultWord s p.req p.cur.idx
      some (p.cur.pos + gapOf (w.getD 0), w)

/-! ### Starting and stopping -/

/-- Rows a T2 box covers (R250). -/
def Box.rows (b : Box) : Nat :=
  let top := b.idx + (b.ext.zip b.str).foldl (fun a e => a + max 0 (e.2 * ((e.1 : Int) - 1))) 0
  ((b.offset top).toNat + b.esize + 65535) / 65536

def vrunLegal (bv xp prog : Nat) : State → Option Flt := fun s =>
  let x := if xp == 0 then 0 else s.x s.me xp
  let segLen := match (s.ctx (s.core s.me).ctx).code with
    | some c => c.vault.length
    | none => 0
  reasonIf s [(xp == 63 || x.getLsbD 15, 2), (segLen ≤ prog || (x.getLsbD 39 && 40 ≤ wbits x 32 7) ||
    s.boxHas bv (fun b => b.tier != 2 || (!x.getLsbD 39 && (b.home / 40 != s.me / 40 || 160 ≤ s.me))), 0xB)]

/-- The box is named and no element of it is on loan (R295). -/
def vrunFault (bv : Nat) : State → Option Flt := needBox bv (fun s b =>
  if regionOnLoan s (s.core s.me).task b then some (faultNow s 0x18 0 []) else none)

/-- Issue of a VRUN: its request reaches the station at c + 4 + 2h (R253). -/
def vrunAct (bv xp prog : Nat) : Act := fun s =>
  match s.b s.me bv with
  | none => []
  | some b =>
    let n := s.me
    let x := if xp == 0 then 0 else s.x n xp
    let tb := if xp == 0 then 0 else (s.x n (xp + 1)).toNat
    let owner := if x.getLsbD 39 then b.home / 40 * 40 + wbits x 32 7 else n
    let held := forkBlocked s n
    [.newOp { mkOp s .vrun [b] [prog, wbits x 0 15, wbits x 16 16, tb, owner] with phase := if held then 9 else 0 }] ++
    (if held then [] else [postU (s.cycle + 4 + coreVault n b.home) 2 (.vrunArrival s.nid)])

/-- VRUN_ARRIVAL: the request enters the queue of four, or is refused (R253). -/
def vrunArrivalAct (o : Nat) : Act := fun s =>
  match tfind s.ops o with
  | none => []
  | some p =>
    match p.kind == .vrun && p.st == .waiting, p.boxes with
    | true, b :: _ =>
      let v := b.home
      let h := coreVault p.core v
      -- an earlier far access still at the core goes first (R216)
      if p.behindHeld s then [.op o (fun q => { q with phase := 9 })]
      else if vaultOff s v then [.delOp o, postU s.cycle 3 (.taskFailure p.task 0x21)]
      else if 4 ≤ (s.vault v).queue.length then
        [.delOp o] ++ dueFor p.core (some p.task) (s.cycle + 4 + h)
          (deferredFlt 0x10 0 p.slot p.pc [v, 1, p.word]) none p.sup s
      else
        let q : VStart := ⟨0, p.task, p.ctx, p.core, p.par.getD 4 0, v, p.par.getD 0 0, p.par.getD 1 0, p.par.getD 2 0,
          p.par.getD 3 0, b.org, b.rows, b.rd, b.wr, s.cycle - 4 - h, p.sup, o, p.pc, p.slot, []⟩
        seqA [pureA [.op o (fun p => { p with st := .running }), .vault v (fun t => { t with queue := t.queue ++ [q] })],
          unserve v, vaultKick v] s
    | _, _ => []

/-- VAULT_PROGRAM_START: the first of the queue starts when the box is settled, its banks closed; its origin is O (R254). A
forced refresh under way comes first (R266). -/
def vaultProgramStartAct (v : Nat) : Act := fun s =>
  let t := s.vault v
  match t.prog, t.queue, t.serve with
  | none, q :: rest, none =>
    if !(aheadOfStart s t).isEmpty then vaultKick v s
    else if (List.range 4).any (fun pc => (t.chan pc).forced) then []
    else if t.anyOpen (List.range 64) then
      [.vault v (fun t => (t.closeAll (ckReal s (2 * s.cycle))).1), postU (s.cycle + 1) 3 (.vaultProgramStart v)]
    else if s.cycle < settleCycle s t then [postU (settleCycle s t) 3 (.vaultProgramStart v)]
    else
      let o := 2 * max (q.issue + 6 + coreVault q.issuer v) s.cycle
      let c : VCur := ⟨0, o, 0, 0⟩
      seqA [pureA [.vault v (fun t => { t with prog := some ⟨q, c, c, [], 0, [], 0, none, none, none, false⟩, queue := rest })],
        genEnter v] s
  | _, _, _ => []

/-- VAULT_PROGRAM_END: the box is idle again; the next program takes its origin from the following cycle (R403). -/
def vaultProgramEndAct (v : Nat) : Act := fun s =>
  match (s.vault v).prog with
  | none => []
  | some p =>
    match p.ends with
    | none => []
    | some e =>
      if s.cycle < e then []
      else seqA [pureA [.vault v (fun t => { t with prog := none, window := none, settled := s.cycle + 1 })], vaultKick v] s

/-- VSTOP's checks (R255). -/
def vstopLegal (bv : Nat) : State → Option Flt := fun s => reasonIf s [(s.boxHas bv (fun b => b.tier != 2), 0xB)]

/-- VSTOP_ARRIVAL (R255): a queued program of the context leaves the queue; a running one issues no command from this
cycle on, and an open window runs to its end. The stop's number is its core, and 256 times its context at issue; 4,096 more
is the end of the window of a program already stopped, 8,192 more the stop of a fenced core's program (R381). -/
def vstopArrivalAct (v n : Nat) : Act := fun s =>
  let t := s.vault v
  let k := n / 256 % 16
  let hit (p : VProg) : Bool :=
    if n / 4096 == 0 then p.req.ctx == k else if n / 4096 == 1 then p.stop.isSome else p.req.issuer == n % 256
  seqA [
    whenA (fun _ => n / 4096 == 0) (fun s => [.vault v (fun t => { t with queue := t.queue.filter (fun q => q.ctx != k || q.kind == 1) })] ++
      ((t.queue.filter (fun q => q.ctx == k && q.kind == 0)).map (fun q =>
        Upd.op q.op (fun o => { o with st := .done, fin := s.cycle })))),
    fun s => match t.prog with
      | none => []
      | some p =>
        if !hit p || p.req.kind == 1 || p.ends.isSome then []
        else match t.window with
          | some w =>
            if 2 * s.cycle + 1 < w.2 then
              [.vault v (fun t => { t with prog := t.prog.map (fun q => { q with stop := some (2 * s.cycle) }) }),
                postU ((w.2 + 1) / 2) 3 (.vstopArrival v (n % 4096 + 4096))]
            else vfinish v (2 * s.cycle) false s
          | none => vfinish v (2 * s.cycle) false s,
    vaultKick v] s

/-! ### Scrubbing (R383) -/

/-- Cycles between two scrub reads of a pseudo-channel: the period over its 2^23 columns. -/
def scrubGap (s : State) : Nat := max 1 (wbits (s.dsr 0x13E) 8 16 / 8)

/-- The scrub read of column k of a pseudo-channel: rows in order, then banks, then columns (log 26). -/
def scrubItem (v pc k : Nat) : Instr := .scrubRead v pc (k / 16 % 16) (k / 256 % 32768) (k % 16)

/-- While scrubbing is enabled, each pseudo-channel has a scrub read on its way. -/
def scrubKick (v pc : Nat) : Act := fun s =>
  let onItsWay (i : Item) : Bool := (match i.ev with
    | .scrubRead w p _ _ _ => w == v && p == pc
    | _ => false)
  if (s.dsr 0x13E).getLsbD 0 && !channelOff s v pc && !s.agenda.any onItsWay then
    [postU (s.cycle + 1) 4 (scrubItem v pc ((s.vault v).chan pc).scrub)]
  else []

/-! ### Refresh (R265 to R267) -/

/-- Step a refresh accrual chain: the next pseudo-channel at once, the first one at the next period (log 24). -/
def accrueNext (v pc : Nat) (s : State) : List Upd :=
  if pc < 3 then [postU s.cycle 2 (.refreshAccrual v (pc + 1))]
  else if v < 159 then [postU s.cycle 2 (.refreshAccrual (v + 1) 0)]
  else [postU (cycleOfReal s ((s.vault 0).chan 0).accrue) 2 (.refreshAccrual 0 0)]

/-- REFRESH_ACCRUAL: every bank of the pseudo-channel gains 1; a bank at 8 forces refresh (R265, R266). -/
def refreshAccrualAct (v pc : Nat) : Act := fun s =>
  if ckReal s (2 * s.cycle + 1) < ((s.vault v).chan pc).accrue then []
  else seqA [
    pureA [.vault v (fun t => ((banksOf pc).foldl (fun t k =>
      t.setBank k (fun b => { b with debt := min (b.debt + 1) 8 })) t).setChan pc
        (fun c => { c with accrue := c.accrue + 6240 }))],
    fun s =>
      if (banksOf pc).any (fun k => 8 ≤ ((s.vault v).bank k).debt) then
        seqA [
          fun s => match (s.vault v).prog with
            | some p =>
              if p.ends.isSome || p.req.kind == 1 then []
              else
                let w := (vaultWord s p.req p.cur.idx).getD 0
                let ck := p.cur.pos + gapOf w
                vrefuse v 0x14 0 0 ck (if (s.vault v).anyOpen (List.range 64) then 2 * s.cycle else max ck (2 * s.cycle)) s
            | none => [],
          unserve v,
          fun s => [.vault v (fun t => t.setChan pc (fun c => { c with forced := true })),
            postU s.cycle 4 (.forcedRefresh v pc)]] s
      else vaultKick v s,
    scrubKick v pc,
    accrueNext v pc] s

/-- The earliest real CK of a REFAB. -/
def refabAt (s : State) (t : Vault) (pc : Nat) : Nat :=
  earliest (ckReal s (2 * s.cycle)) ((banksOf pc).flatMap (fun k => (2, (t.bank k).pre, 24) :: refCons t k))

/-- Is a request of a pseudo-channel being served, its ACT issued? -/
def servedOn (s : State) (v pc : Nat) : Bool := match (s.vault v).serve with
  | some (id, _) => (match tfind s.reqs id with
    | some r => r.addr / 2 ^ 10 % 4 == pc
    | none => false)
  | none => false

/-- FORCED_REFRESH: PREA, then REFAB, each at the earliest legal CK, until no bank's debt is above 0 (R266). A request whose
ACT has issued and a column of the default generator complete first. -/
def forcedRefreshAct (v pc : Nat) : Act := fun s =>
  let t := s.vault v
  if !(t.chan pc).forced then []
  else if servedOn s v pc || (t.anyOpen (banksOf pc) && t.prog.any (fun p => p.ends.isNone)) then
    [postU (s.cycle + 1) 4 (.forcedRefresh v pc)]
  else if t.anyOpen (banksOf pc) then
    [.vault v (fun t => (t.closeOn (banksOf pc) (ckReal s (2 * s.cycle))).1), postU (s.cycle + 1) 4 (.forcedRefresh v pc)]
  else
    let r := refabAt s t pc
    if ckReal s (2 * s.cycle + 1) < r then [postU (ckOfReal s r / 2) 4 (.forcedRefresh v pc)]
    else
      let t' := t.onRefab pc r
      let more := (banksOf pc).any (fun k => 0 < (t'.bank k).debt)
      seqA [pureA [.vault v (fun _ => t'.setChan pc (fun c => { c with forced := more }))],
        fun s => if more then [postU (s.cycle + 1) 4 (.forcedRefresh v pc)] else vaultKick v s] s

/-- INSERTED_REFRESH: the box's own REFAB between two requests (R267). -/
def insertedRefreshAct (v pc : Nat) : Act := fun s =>
  let t := s.vault v
  let free := match t.prog with
    | some _ => (match t.window with
      | some w => 2 * s.cycle < w.2
      | none => false)
    | none => t.queue.isEmpty
  let r := refabAt s t pc
  if !free || t.serve.isSome || (t.chan pc).forced || !(banksOf pc).any (fun k => 1 ≤ (t.bank k).debt) ||
      t.anyOpen (banksOf pc) || ckReal s (2 * s.cycle + 1) < r then []
  else seqA [pureA [.vault v (fun t => t.onRefab pc r)], vaultKick v] s

/-! ### Commands (R258 to R260) -/

/-- ACT. -/
def execAct (g pc bg bk row : Nat) (s : State) : Host.Outcome State Fault Refusal :=
  done (vcmd (.act g pc bg bk row) g
    (fun _ t p r => firstCode [((t.bank (bkey pc bg bk)).row.isSome, 0x11), (p.req.nrows ≤ row + p.req.roff, 0x13)]
      (violated r (actCons t (bkey pc bg bk))))
    (onBanks (fun t p r => t.onAct (bkey pc bg bk) (p.req.row0 + p.req.roff + row) r))) s
/-- RD. -/
def execRd (g pc bg bk col pl u : Nat) (s : State) : Host.Outcome State Fault Refusal :=
  done (vcmd (.rd g pc bg bk col pl u) g (colChk false pc bg bk pl) (rdAct false pc bg bk col pl u)) s
/-- RDA. -/
def execRda (g pc bg bk col pl u : Nat) (s : State) : Host.Outcome State Fault Refusal :=
  done (vcmd (.rda g pc bg bk col pl u) g (colChk false pc bg bk pl) (rdAct true pc bg bk col pl u)) s
/-- WR. -/
def execWr (g pc bg bk col pl u : Nat) (s : State) : Host.Outcome State Fault Refusal :=
  done (vcmd (.wr g pc bg bk col pl u) g (colChk true pc bg bk pl) (wrAct false pc bg bk col pl u)) s
/-- WRA. -/
def execWra (g pc bg bk col pl u : Nat) (s : State) : Host.Outcome State Fault Refusal :=
  done (vcmd (.wra g pc bg bk col pl u) g (colChk true pc bg bk pl) (wrAct true pc bg bk col pl u)) s
/-- PRE. -/
def execPre (g pc bg bk : Nat) (s : State) : Host.Outcome State Fault Refusal :=
  done (vcmd (.pre g pc bg bk) g (fun _ t _ r => violated r (preCons t (bkey pc bg bk)))
    (onBanks (fun t _ r => t.onPre (bkey pc bg bk) r))) s
/-- PREA. -/
def execPrea (g pc : Nat) (s : State) : Host.Outcome State Fault Refusal :=
  done (vcmd (.prea g pc) g (fun _ t _ r => violated r ((banksOf pc).flatMap (preCons t)))
    (onBanks (fun t _ r => (banksOf pc).foldl (fun t k => t.onPre k r) t))) s
/-- REFPB. -/
def execRefpb (g pc bg bk : Nat) (s : State) : Host.Outcome State Fault Refusal :=
  done (vcmd (.refpb g pc bg bk) g
    (fun _ t _ r =>
      let k := bkey pc bg bk
      firstCode [((t.bank k).row.isSome, 0x11), ((t.bank k).debt ≤ -8, 0x15)]
        (violated r ((2, (t.bank k).pre, 24) :: rrdCons t pc bg ++ refCons t k)))
    (onBanks (fun t _ r => t.onRefpb (bkey pc bg bk) r))) s
/-- REFAB. -/
def execRefab (g pc : Nat) (s : State) : Host.Outcome State Fault Refusal :=
  done (vcmd (.refab g pc) g
    (fun _ t _ r => firstCode [(t.anyOpen (banksOf pc), 0x11), ((banksOf pc).any (fun k => (t.bank k).debt ≤ -8), 0x15)]
      (violated r ((banksOf pc).flatMap (fun k => (2, (t.bank k).pre, 24) :: refCons t k))))
    (onBanks (fun t _ r => t.onRefab pc r))) s
/-- WAIT. -/
def execWait (g n : Nat) (s : State) : Host.Outcome State Fault Refusal :=
  done (vcmd (.wait g n) g (fun _ _ _ _ => none) (fun _ _ _ _ => [])) s
/-- LOOP: another LOOP's count still running, or a target before the program, is an illegal command. -/
def execLoop (g dist cnt : Nat) (s : State) : Host.Outcome State Fault Refusal :=
  done (vcmd (.loop g dist cnt) g
    (fun _ _ p _ => if p.cur.idx < dist || (p.cur.lc != 0 && p.cur.li != p.cur.idx) then some (0x16, 0, 0) else none)
    (fun _ _ _ _ => [])) s
/-- JUMP. -/
def execJump (g tgt : Nat) (s : State) : Host.Outcome State Fault Refusal :=
  done (vcmd (.jump g tgt) g (fun s _ p _ => if (vaultWord s p.req tgt).isNone then some (0x16, 0, 0) else none)
    (fun _ _ _ _ => [])) s
/-- START. -/
def execStart (g dt : Nat) (s : State) : Host.Outcome State Fault Refusal :=
  done (vcmd (.start g dt) g (fun _ _ _ _ => none) (fun _ _ _ _ => [])) s
/-- HALT of a vault program. -/
def execVaultHalt (g : Nat) (s : State) : Host.Outcome State Fault Refusal :=
  done (vcmd (.vaultHalt g) g (fun _ _ _ _ => none) (fun v ck _ => vfinish v ck true)) s
/-- OPEN: a window of N CK (R268). -/
def execVopen (g n : Nat) (s : State) : Host.Outcome State Fault Refusal :=
  done (vcmd (.vopen g n) g
    (fun _ t _ _ => firstCode [(n == 0, 0x16), (t.anyOpen (List.range 64), 0x18)] none)
    (fun v ck _ => seqA [pureA [.vault v (fun t => { t with window := some (ck, ck + n) })], vaultKick v])) s
/-- TAGW. -/
def execTagw (g pl u : Nat) (s : State) : Host.Outcome State Fault Refusal :=
  done (vcmd (.tagw g pl u) g (fun s _ p _ => if platBad s p pl then some (0x17, 0, 0) else none) (tagwAct pl u)) s
/-- ILLEGAL_COMMAND: a word with a reserved code or a nonzero unused bit, or none at all (R70). -/
def execIllegalCommand (v : Nat) (s : State) : Host.Outcome State Fault Refusal :=
  done (fun s => match (s.vault v).prog with
    | none => []
    | some p =>
      if p.ends.isSome then []
      else
        let ck := p.cur.pos + gapOf ((vaultWord s p.req p.cur.idx).getD 0)
        vrefuse v 0x16 0 0 ck ck s) s

/-! ### Instructions and events -/

/-- VRUN (R252). -/
def execVrun (bv xp prog : Nat) (s : State) : Host.Outcome State Fault Refusal :=
  done (checked (vrunLegal bv xp prog) (vrunFault bv) (vrunAct bv xp prog)) s
/-- VSTOP (R255). -/
def execVstop (bv : Nat) (s : State) : Host.Outcome State Fault Refusal :=
  done (checked (vstopLegal bv) (needBox bv (fun _ _ => none)) (fun s => match s.b s.me bv with
    | some b => [postU (s.cycle + 4 + coreVault s.me b.home) 3 (.vstopArrival b.home (s.me + 256 * (s.core s.me).ctx))]
    | none => [])) s
/-- VRUN_ARRIVAL (R253). -/
def execVrunArrival (o : Nat) (s : State) : Host.Outcome State Fault Refusal := done (vrunArrivalAct o) s
/-- VAULT_PROGRAM_START (R254). -/
def execVaultProgramStart (v : Nat) (s : State) : Host.Outcome State Fault Refusal := done (vaultProgramStartAct v) s
/-- VSTOP_ARRIVAL (R255). -/
def execVstopArrival (v n : Nat) (s : State) : Host.Outcome State Fault Refusal := done (vstopArrivalAct v n) s
/-- VAULT_PROGRAM_END (R403). -/
def execVaultProgramEnd (v : Nat) (s : State) : Host.Outcome State Fault Refusal := done (vaultProgramEndAct v) s
/-- WR_UNIT_READ (R272). -/
def execWrUnitRead (v : Nat) (s : State) : Host.Outcome State Fault Refusal := done (wrUnitReadAct v) s
/-- PLATFORM_DELIVERY (R271). -/
def execPlatformDelivery (o : Nat) (s : State) : Host.Outcome State Fault Refusal := done (platformDeliveryAct o) s
/-- REFRESH_ACCRUAL (R265). -/
def execRefreshAccrual (v pc : Nat) (s : State) : Host.Outcome State Fault Refusal := done (refreshAccrualAct v pc) s
/-- FORCED_REFRESH (R266). -/
def execForcedRefresh (v pc : Nat) (s : State) : Host.Outcome State Fault Refusal := done (forcedRefreshAct v pc) s
/-- INSERTED_REFRESH (R267). -/
def execInsertedRefresh (v pc : Nat) (s : State) : Host.Outcome State Fault Refusal := done (insertedRefreshAct v pc) s

end Sys2Proof.Machine
end

