-- ==== Sys2Proof/Machine/Special.lean ====
section
/-! DEFINITION. The F-class functions on .f32 (R142, R143): each result is the rounding of a number
that lies within 2^-100 of the exact value, relative to it (log 12). -/

namespace Sys2Proof.Machine

/-- Binary places of the fixed-point work. -/
def fxP : Nat := 256
/-- One in fixed point. -/
def fxOne : Nat := 2 ^ 256

/-- floor(pi × 2^640). -/
def piBits : Nat :=
  0x3243f6a8885a308d313198a2e03707344a4093822299f31d0082efa98ec4e6c89452821e638d01377be5466cf34e90c6cc0ac29b7c97c50dd3f84d5b5b54709179216d5d98979fb1bd1310ba698dfb5ac

/-- floor(ln 2 × 2^448). -/
def ln2Bits : Nat :=
  0xb17217f7d1cf79abc9e3b39803f2f6af40f343267298b62d8a0d175b8baafa2be7b876206debac98559552fb4afa1b10ed2eae35c1382144

/-- ln 2 in fixed point. -/
def ln2Fx : Nat := ln2Bits / 2 ^ 192

/-- The terms of e^t from term number i on, each floored. -/
def expTerms (t : Nat) : Nat → Nat → Nat → Nat
  | 0, _, _ => 0
  | k + 1, i, term => term + expTerms t k (i + 1) (term * t / fxOne / (i + 1))

/-- e^t in fixed point for 0 ≤ t < 1. -/
def expFx (t : Nat) : Nat := expTerms t 80 0 fxOne

/-- A positive number num / den. -/
structure Pos where
  num : Nat
  den : Nat

/-- s × 2^k as a fraction. -/
def Pos.scale (s : Nat) (k : Int) : Pos :=
  if 0 ≤ k then ⟨s * 2 ^ k.toNat, 1⟩ else ⟨s, 2 ^ (-k).toNat⟩

/-- 2^y for a dyadic y. -/
def exp2Pos (y : Exact) : Pos :=
  let k := y.num / y.den
  let f := (y.num % y.den).toNat
  if f == 0 then Pos.scale 1 k
  else Pos.scale (2 * expFx (f * ln2Bits / (y.den * 2 ^ 192)) + 1) (k - fxP - 1)

/-- e^y for |y| at most 512. -/
def expPos (y : Exact) : Pos :=
  let yf := y.num * fxOne / y.den
  let k := yf / ln2Fx
  let t := (yf - k * ln2Fx).toNat
  Pos.scale (expFx t) (k - fxP)

/-- z + z^3/3 + z^5/5 + … in fixed point, from the odd number i on. -/
def atanhTerms (z2 : Nat) : Nat → Nat → Nat → Nat
  | 0, _, _ => 0
  | k + 1, i, pw => pw / i + atanhTerms z2 k (i + 2) (pw * z2 / fxOne)

/-- log2 of m × 2^e (m positive, not a power of two) in fixed point. -/
def log2Fx (m : Nat) (e : Int) : Int :=
  let l := Nat.log2 m
  -- m / 2^l lies in [1, 2); past 4/3 it is halved, so that the series converges fast
  let big := 4 * 2 ^ l < 3 * m
  let den := if big then 2 ^ (l + 1) else 2 ^ l
  let ex : Int := e + l + (if big then 1 else 0)
  let up := den ≤ m
  let d := if up then m - den else den - m
  let z := d * fxOne / (m + den)
  let s := 2 * atanhTerms (z * z / fxOne) 100 1 z
  let r : Int := (s * 2 ^ 448 / ln2Bits : Nat)
  ex * fxOne + (if up then r else -r)

/-- Terms of r − r^3/3! + … or 1 − r^2/2! + …, the sign alternating. -/
def altTerms (r2 : Nat) : Nat → Nat → Nat → Int
  | 0, _, _ => 0
  | k + 1, i, term => term - altTerms r2 k (i + 2) (term * r2 / fxOne / ((i + 1) * (i + 2)))

/-- sin x or cos x for a dyadic magnitude x at least 2^-20, in fixed point (exact argument reduction, R142). -/
def sinCosFx (x : Exact) (wantCos : Bool) : Int :=
  let a : Int := x.num * 2 ^ 640 / x.den
  let h : Int := piBits / 2
  let n := (2 * a + h) / (2 * h)
  let r := a - n * h
  let neg := r < 0
  let t := r.natAbs / 2 ^ 384
  let t2 := t * t / fxOne
  let sn := altTerms t2 60 1 t
  let sn := if neg then -sn else sn
  let cs := altTerms t2 60 0 fxOne
  match (n + (if wantCos then 1 else 0)) % 4 with
  | 0 => sn
  | 1 => cs
  | 2 => -sn
  | _ => -cs

/-- Integer square root by digits from bit k down. -/
def isqrtGo (n : Nat) : Nat → Nat → Nat
  | 0, r => r
  | k + 1, r => isqrtGo n k (if (r + 2 ^ k) * (r + 2 ^ k) ≤ n then r + 2 ^ k else r)

/-- Floor of the square root of n < 2^256. -/
def isqrt (n : Nat) : Nat := isqrtGo n 128 0

/-- Round a fixed-point number into .f32. -/
def roundFx (v : Int) (ftz : Bool) : Nat × Nat :=
  roundTo 0 (v < 0) v.natAbs fxOne 0 0 ftz

/-- √(num / den) into .f32: 70 or more bits of the root, odd in the last place when inexact. -/
def roundSqrt (num den : Nat) (ftz : Bool) : Nat × Nat :=
  let sh := (200 - floorLog2 num den) / 2
  let y := if 0 ≤ sh then num * 4 ^ sh.toNat / den else num / (den * 4 ^ (-sh).toNat)
  let s := isqrt y
  let exact := if 0 ≤ sh then s * s * den == num * 4 ^ sh.toNat else s * s * den * 4 ^ (-sh).toNat == num
  let v := if exact then 2 * s else 2 * s + 1
  let p := Pos.scale v (-sh - 1)
  roundTo 0 false p.num p.den 0 0 ftz

/-- FEXP2 (R142, R143). -/
def spExp2 (a : FVal) (ftz : Bool) : Nat × Nat :=
  match a with
  | .nan s g p => (nanResult 0 [.nan s g p]).getD (0, 0)
  | .inf s => if s then (0, 0) else (infBits 0, 0)
  | .fin s m e =>
    let y := exactOf s m e
    if y.num < -200 * (y.den : Int) then roundTo 0 false 1 (2 ^ 200) 0 0 ftz
    else if 200 * (y.den : Int) < y.num then overflowBits 0 false 0
    else
      let p := exp2Pos y
      roundTo 0 false p.num p.den 0 0 ftz

/-- FLOG2. -/
def spLog2 (a : FVal) (ftz : Bool) : Nat × Nat :=
  match a with
  | .nan s g p => (nanResult 0 [.nan s g p]).getD (0, 0)
  | .inf s => if s then invalid 0 else (infBits 0, 0)
  | .fin s m e =>
    if m == 0 then (withSign 0 true (infBits 0), DZ)
    else if s then invalid 0
    else if m == 2 ^ Nat.log2 m then roundExact 0 ⟨e + Nat.log2 m, 1⟩ false 0 0 ftz
    else roundFx (log2Fx m e) ftz

/-- FRCP. -/
def spRcp (a : FVal) (ftz : Bool) : Nat × Nat := fDivV 0 (.fin false 1 0) a 0 ftz

/-- FRSQ. -/
def spRsq (a : FVal) (ftz : Bool) : Nat × Nat :=
  match a with
  | .nan s g p => (nanResult 0 [.nan s g p]).getD (0, 0)
  | .inf s => if s then invalid 0 else (0, 0)
  | .fin s m e =>
    if m == 0 then (withSign 0 s (infBits 0), DZ)
    else if s then invalid 0
    else
      let x := exactOf false m e
      roundSqrt x.den x.num.natAbs ftz

/-- FSQRT. -/
def spSqrt (a : FVal) (ftz : Bool) : Nat × Nat :=
  match a with
  | .nan s g p => (nanResult 0 [.nan s g p]).getD (0, 0)
  | .inf s => if s then invalid 0 else (infBits 0, 0)
  | .fin s m e =>
    if m == 0 then (withSign 0 s 0, 0)
    else if s then invalid 0
    else
      let x := exactOf false m e
      roundSqrt x.num.natAbs x.den ftz

/-- Is a positive value below 2^-20? -/
def isTiny (x : Exact) : Bool := x.num.natAbs * 2 ^ 20 < x.den

/-- FSIN. -/
def spSin (a : FVal) (ftz : Bool) : Nat × Nat :=
  match a with
  | .nan s g p => (nanResult 0 [.nan s g p]).getD (0, 0)
  | .inf _ => invalid 0
  | .fin s m e =>
    let x := exactOf false m e
    if m == 0 then (withSign 0 s 0, 0)
    else if isTiny x then
      -- x − x³/6 + x⁵/120 bounds sin x from above, x − x³/6 from below
      let n := x.num.natAbs
      let d := x.den
      roundTo 0 s (120 * n * d ^ 4 - 20 * n ^ 3 * d ^ 2 + n ^ 5) (120 * d ^ 5) 0 0 ftz
    else
      let v := sinCosFx x false
      roundFx (if s then -v else v) ftz

/-- FCOS. -/
def spCos (a : FVal) (ftz : Bool) : Nat × Nat :=
  match a with
  | .nan s g p => (nanResult 0 [.nan s g p]).getD (0, 0)
  | .inf _ => invalid 0
  | .fin _ m e =>
    let x := exactOf false m e
    if m == 0 then (0x3F800000, 0)
    else if isTiny x then
      let n := x.num.natAbs
      let d := x.den
      roundTo 0 false (2 * d ^ 2 - n ^ 2) (2 * d ^ 2) 0 0 ftz
    else roundFx (sinCosFx x true) ftz

/-- FTANH. -/
def spTanh (a : FVal) (ftz : Bool) : Nat × Nat :=
  match a with
  | .nan s g p => (nanResult 0 [.nan s g p]).getD (0, 0)
  | .inf s => (withSign 0 s 0x3F800000, 0)
  | .fin s m e =>
    let x := exactOf false m e
    if m == 0 then (withSign 0 s 0, 0)
    else if isTiny x then
      let n := x.num.natAbs
      let d := x.den
      roundTo 0 s (15 * n * d ^ 4 - 5 * n ^ 3 * d ^ 2 + 2 * n ^ 5) (15 * d ^ 5) 0 0 ftz
    else if 32 * (x.den : Int) ≤ x.num then roundTo 0 s (2 ^ 80 - 1) (2 ^ 80) 0 0 ftz
    else
      let p := expPos ⟨2 * x.num, x.den⟩
      roundTo 0 s (p.num - p.den) (p.num + p.den) 0 0 ftz

/-- FSIGM. -/
def spSigm (a : FVal) (ftz : Bool) : Nat × Nat :=
  match a with
  | .nan s g p => (nanResult 0 [.nan s g p]).getD (0, 0)
  | .inf s => if s then (0, 0) else (0x3F800000, 0)
  | .fin s m e =>
    let x := exactOf s m e
    if m == 0 then (0x3F000000, 0)
    else if 64 * (x.den : Int) ≤ x.num then roundTo 0 false (2 ^ 80 - 1) (2 ^ 80) 0 0 ftz
    else if x.num ≤ -200 * (x.den : Int) then roundTo 0 false 1 (2 ^ 280) 0 0 ftz
    else
      let p := expPos ⟨-x.num, x.den⟩
      -- half a unit in the last place keeps a tiny argument from looking exact
      roundTo 0 false (2 * p.den) (2 * (p.num + p.den) + 1) 0 0 ftz

end Sys2Proof.Machine
end

