-- ==== Sys2Proof/Machine/Scalar.lean ====
section
/-! DEFINITION. The S and F classes (R136 to R143), with the latencies of R52. -/

namespace Sys2Proof.Machine

/-- Count of leading zero bits (R137). -/
def clzN (v : Nat) : Nat := if v == 0 then 64 else 63 - Nat.log2 v

/-- A signed (mod 0b00) or natural (mod 0b01) reading of a word (R59). -/
def readW (m : Nat) (w : Word) : Int := if m == 0 then w.toInt else w.toNat

/-- An integer as a word, modulo 2^64. -/
def wordOf (i : Int) : Word := BitVec.ofInt 64 i

/-- BFX (R139): `m` 0 signed, 1 natural. -/
def bfxW (a b : Word) (m : Nat) : Word :=
  let pos := wbits b 0 6
  let len := min (wbits b 8 7) 64
  let t := if m == 0 then a.sshiftRight pos else a >>> pos
  if len == 0 then 0
  else
    let f := t.toNat % 2 ^ len
    if m == 0 then wordOf (sextOf len f) else BitVec.ofNat 64 f

/-- BFI (R139). -/
def bfiW (d a b : Word) : Word :=
  let pos := wbits b 0 6
  let len := min (wbits b 8 7) 64
  let mask := BitVec.ofNat 64 ((2 ^ len - 1) * 2 ^ pos)
  (d &&& ~~~mask) ||| ((a <<< pos) &&& mask)

/-- DIV and REM never fault (R138). -/
def divW (a b : Word) (m : Nat) : Word :=
  if b == 0 then BitVec.allOnes 64 else wordOf ((readW m a).tdiv (readW m b))
def remW (a b : Word) (m : Nat) : Word :=
  if b == 0 then a else wordOf ((readW m a).tmod (readW m b))

/-- A scalar's .f32 value under FTZ (R117, R136). -/
def State.f32 (s : State) (w : Word) : FVal := fRead 0 s.ftz (w.toNat % 2 ^ 32)

/-- FCMP (R140): −1, 0, 1, or 2 for a NaN, with NV for a signalling one. -/
def fcmpR (a b : FVal) : Nat × Nat :=
  if a.isNan || b.isNan then (2, snanFlag [a, b])
  else ((wordOf (fCompare a b)).toNat, 0)

/-- FCVT by its selector (R141). -/
def fcvtR (s : Nat) (a : Word) (rm : Nat) (ftz : Bool) : Nat × Nat :=
  let f := fRead 0 ftz (a.toNat % 2 ^ 32)
  let toI (signed : Bool) (n : Nat) : Nat × Nat :=
    let r := toIntN signed n f rm 0
    ((wordOf r.1).toNat, r.2)
  match s with
  | 0 => toI true 32
  | 1 => toI false 32
  | 2 => toI true 64
  | 3 => toI false 64
  | 4 => intToF 0 (intOf 8 a.toNat) rm 0 ftz
  | 5 => intToF 0 (intOf 11 a.toNat) rm 0 ftz
  | 6 => intToF 0 a.toInt rm 0 ftz
  | 7 => intToF 0 a.toNat rm 0 ftz
  | 8 => fConvert 1 f rm 0 ftz
  | 9 => fConvert 2 f rm 0 ftz
  | 10 => fConvert 3 f rm 0 ftz
  | 11 => fConvert 4 f rm 0 ftz
  | 12 => fConvert 0 (fRead 1 ftz (a.toNat % 2 ^ 16)) rm 0 ftz
  | 13 => fConvert 0 (fRead 2 ftz (a.toNat % 2 ^ 16)) rm 0 ftz
  | 14 => fConvert 0 (fRead 3 ftz (a.toNat % 2 ^ 8)) rm 0 ftz
  | _ => fConvert 0 (fRead 4 ftz (a.toNat % 2 ^ 8)) rm 0 ftz

/-- An integer operation of two sources at a latency. -/
def sOp (lat d : Nat) (nb : Bool) (a b : Src) (f : Word → Word → Word) : Act := fun s =>
  emitX lat d nb (f (s.srcX a) (s.srcX b)) s

/-- A floating-point operation on .f32 values at a latency. -/
def fOp (lat d : Nat) (nb : Bool) (f : State → Nat × Nat) : Act := fun s => emitFX lat d nb (f s) s


/-- MOV (R137). -/
def execMov (d : Nat) (nb : Bool) (a : Src) (s : State) : Host.Outcome State Fault Refusal :=
  done (sOp 1 d nb a a (fun x _ => x)) s

/-- MOVI (R137). -/
def execMovi (d : Nat) (i : Int) (s : State) : Host.Outcome State Fault Refusal :=
  done (emitX 1 d false (wordOf i)) s

/-- MOVHI reads its destination (R137). -/
def execMovhi (d : Nat) (i : Int) (s : State) : Host.Outcome State Fault Refusal :=
  done (fun s => emitX 1 d false ((s.x s.me d <<< 15) ||| (wordOf i &&& 0x7FFF)) s) s

/-- ADD (R137). -/
def execAdd (d : Nat) (nb : Bool) (a b : Src) (s : State) : Host.Outcome State Fault Refusal :=
  done (sOp 1 d nb a b (fun x y => x + y)) s

/-- SUB (R137). -/
def execSub (d : Nat) (nb : Bool) (a b : Src) (s : State) : Host.Outcome State Fault Refusal :=
  done (sOp 1 d nb a b (fun x y => x - y)) s

/-- MUL (R137). -/
def execMul (d : Nat) (nb : Bool) (a b : Src) (s : State) : Host.Outcome State Fault Refusal :=
  done (sOp 3 d nb a b (fun x y => x * y)) s

/-- AND (R137). -/
def execAnd (d : Nat) (nb : Bool) (a b : Src) (s : State) : Host.Outcome State Fault Refusal :=
  done (sOp 1 d nb a b (fun x y => x &&& y)) s

/-- OR (R137). -/
def execOr (d : Nat) (nb : Bool) (a b : Src) (s : State) : Host.Outcome State Fault Refusal :=
  done (sOp 1 d nb a b (fun x y => x ||| y)) s

/-- XOR (R137). -/
def execXor (d : Nat) (nb : Bool) (a b : Src) (s : State) : Host.Outcome State Fault Refusal :=
  done (sOp 1 d nb a b (fun x y => x ^^^ y)) s

/-- ANDN (R137). -/
def execAndn (d : Nat) (nb : Bool) (a b : Src) (s : State) : Host.Outcome State Fault Refusal :=
  done (sOp 1 d nb a b (fun x y => x &&& ~~~y)) s

/-- SHL (R137). -/
def execShl (d : Nat) (nb : Bool) (a b : Src) (s : State) : Host.Outcome State Fault Refusal :=
  done (sOp 1 d nb a b (fun x y => x <<< wbits y 0 6)) s

/-- SHR (R137). -/
def execShr (d : Nat) (nb : Bool) (a b : Src) (s : State) : Host.Outcome State Fault Refusal :=
  done (sOp 1 d nb a b (fun x y => x >>> wbits y 0 6)) s

/-- SAR (R137). -/
def execSar (d : Nat) (nb : Bool) (a b : Src) (s : State) : Host.Outcome State Fault Refusal :=
  done (sOp 1 d nb a b (fun x y => x.sshiftRight (wbits y 0 6))) s

/-- ADDI (R137). -/
def execAddi (d : Nat) (a : Src) (i : Int) (s : State) : Host.Outcome State Fault Refusal :=
  done (fun s => emitX 1 d false (s.srcX a + wordOf i) s) s

/-- CLZ (R137). -/
def execClz (d : Nat) (nb : Bool) (a : Src) (s : State) : Host.Outcome State Fault Refusal :=
  done (sOp 1 d nb a a (fun x _ => BitVec.ofNat 64 (clzN x.toNat))) s

/-- POPC (R137). -/
def execPopc (d : Nat) (nb : Bool) (a : Src) (s : State) : Host.Outcome State Fault Refusal :=
  done (sOp 1 d nb a a (fun x _ => BitVec.ofNat 64 (popcN 64 x.toNat))) s

/-- MULH: bits 127 to 64 of the product (R137). -/
def execMulh (d : Nat) (nb : Bool) (a b : Src) (m : Nat) (s : State) : Host.Outcome State Fault Refusal :=
  done (sOp 3 d nb a b (fun x y => wordOf (readW m x * readW m y / 2 ^ 64))) s

/-- DIV (R138). -/
def execDiv (d : Nat) (nb : Bool) (a b : Src) (m : Nat) (s : State) : Host.Outcome State Fault Refusal :=
  done (sOp 18 d nb a b (fun x y => divW x y m)) s

/-- REM (R138). -/
def execRem (d : Nat) (nb : Bool) (a b : Src) (m : Nat) (s : State) : Host.Outcome State Fault Refusal :=
  done (sOp 18 d nb a b (fun x y => remW x y m)) s

/-- BFX (R139). -/
def execBfx (d : Nat) (nb : Bool) (a b : Src) (m : Nat) (s : State) : Host.Outcome State Fault Refusal :=
  done (sOp 1 d nb a b (fun x y => bfxW x y m)) s

/-- BFI reads its destination (R139). -/
def execBfi (d : Nat) (nb : Bool) (a b : Src) (s : State) : Host.Outcome State Fault Refusal :=
  done (fun s => emitX 1 d nb (bfiW (s.x s.me d) (s.srcX a) (s.srcX b)) s) s

/-- MIN (R137). -/
def execMin (d : Nat) (nb : Bool) (a b : Src) (m : Nat) (s : State) : Host.Outcome State Fault Refusal :=
  done (sOp 1 d nb a b (fun x y => if readW m x < readW m y then x else y)) s

/-- MAX (R137). -/
def execMax (d : Nat) (nb : Bool) (a b : Src) (m : Nat) (s : State) : Host.Outcome State Fault Refusal :=
  done (sOp 1 d nb a b (fun x y => if readW m x < readW m y then y else x)) s

/-- CMP (R137). -/
def execCmp (d : Nat) (nb : Bool) (a b : Src) (m : Nat) (s : State) : Host.Outcome State Fault Refusal :=
  done (sOp 1 d nb a b (fun x y => if readW m x < readW m y then wordOf (-1) else if x == y then 0 else 1)) s

/-- SEL reads its destination (R137). -/
def execSel (d : Nat) (nb : Bool) (a b : Src) (s : State) : Host.Outcome State Fault Refusal :=
  done (fun s => emitX 1 d nb (if s.x s.me d == 0 then s.srcX b else s.srcX a) s) s

/-- FADD (R140). -/
def execFadd (d : Nat) (nb : Bool) (a b : Src) (m : Nat) (s : State) : Host.Outcome State Fault Refusal :=
  done (fOp 4 d nb (fun s => fAddV 0 (s.f32 (s.srcX a)) (s.f32 (s.srcX b)) m s.ftz)) s

/-- FMUL (R140). -/
def execFmul (d : Nat) (nb : Bool) (a b : Src) (m : Nat) (s : State) : Host.Outcome State Fault Refusal :=
  done (fOp 4 d nb (fun s => fMulV 0 (s.f32 (s.srcX a)) (s.f32 (s.srcX b)) m s.ftz)) s

/-- FFMA reads its destination (R140). -/
def execFfma (d : Nat) (nb : Bool) (a b : Src) (m : Nat) (s : State) : Host.Outcome State Fault Refusal :=
  done (fOp 4 d nb (fun s =>
    fFmaV 0 false (s.f32 (s.srcX a)) (s.f32 (s.srcX b)) (s.f32 (s.x s.me d)) m s.ftz)) s

/-- FCMP (R140). -/
def execFcmp (d : Nat) (nb : Bool) (a b : Src) (s : State) : Host.Outcome State Fault Refusal :=
  done (fOp 2 d nb (fun s => fcmpR (s.f32 (s.srcX a)) (s.f32 (s.srcX b)))) s

/-- FCVT (R141). -/
def execFcvt (d : Nat) (nb : Bool) (a : Src) (sel m : Nat) (s : State) : Host.Outcome State Fault Refusal :=
  done (fOp 3 d nb (fun s => fcvtR sel (s.srcX a) m s.ftz)) s

/-- FEXP2 (R142, R143). -/
def execFexp2 (d : Nat) (nb : Bool) (a : Src) (s : State) : Host.Outcome State Fault Refusal :=
  done (fOp 6 d nb (fun s => spExp2 (s.f32 (s.srcX a)) s.ftz)) s

/-- FLOG2 (R142, R143). -/
def execFlog2 (d : Nat) (nb : Bool) (a : Src) (s : State) : Host.Outcome State Fault Refusal :=
  done (fOp 6 d nb (fun s => spLog2 (s.f32 (s.srcX a)) s.ftz)) s

/-- FRCP (R142, R143). -/
def execFrcp (d : Nat) (nb : Bool) (a : Src) (s : State) : Host.Outcome State Fault Refusal :=
  done (fOp 6 d nb (fun s => spRcp (s.f32 (s.srcX a)) s.ftz)) s

/-- FRSQ (R142, R143). -/
def execFrsq (d : Nat) (nb : Bool) (a : Src) (s : State) : Host.Outcome State Fault Refusal :=
  done (fOp 6 d nb (fun s => spRsq (s.f32 (s.srcX a)) s.ftz)) s

/-- FSQRT (R142, R143). -/
def execFsqrt (d : Nat) (nb : Bool) (a : Src) (s : State) : Host.Outcome State Fault Refusal :=
  done (fOp 10 d nb (fun s => spSqrt (s.f32 (s.srcX a)) s.ftz)) s

/-- FSIN (R142, R143). -/
def execFsin (d : Nat) (nb : Bool) (a : Src) (s : State) : Host.Outcome State Fault Refusal :=
  done (fOp 8 d nb (fun s => spSin (s.f32 (s.srcX a)) s.ftz)) s

/-- FCOS (R142, R143). -/
def execFcos (d : Nat) (nb : Bool) (a : Src) (s : State) : Host.Outcome State Fault Refusal :=
  done (fOp 8 d nb (fun s => spCos (s.f32 (s.srcX a)) s.ftz)) s

/-- FTANH (R142, R143). -/
def execFtanh (d : Nat) (nb : Bool) (a : Src) (s : State) : Host.Outcome State Fault Refusal :=
  done (fOp 8 d nb (fun s => spTanh (s.f32 (s.srcX a)) s.ftz)) s

/-- FSIGM (R142, R143). -/
def execFsigm (d : Nat) (nb : Bool) (a : Src) (s : State) : Host.Outcome State Fault Refusal :=
  done (fOp 8 d nb (fun s => spSigm (s.f32 (s.srcX a)) s.ftz)) s

/-- FDIV (R142, R143). -/
def execFdiv (d : Nat) (nb : Bool) (a b : Src) (s : State) : Host.Outcome State Fault Refusal :=
  done (fOp 10 d nb (fun s => fDivV 0 (s.f32 (s.srcX a)) (s.f32 (s.srcX b)) 0 s.ftz)) s

end Sys2Proof.Machine
end

