-- ==== Sys2Proof/Machine/Vector.lean ====
section
/-! DEFINITION. The V class (R144 to R161), with the latencies of R52. -/

namespace Sys2Proof.Machine

/-- R67's first row: the three wide floating-point types and the integers. -/
def tyArith (t : Nat) : Bool := t < 3 || tyInt t
/-- Every type except .qc4. -/
def tyPlain (t : Nat) : Bool := t < 12 && t != 5
/-- The pairs of VQNT and VDQNT (R157, R158). -/
def quantOk (e c w : Nat) : Bool := e < 3 && (c == 3 || c == 4 || (c == 5 && e != 0 && w == 2))
/-- The pairs of VPACK and VUNPK (R160). -/
def packOk (e c : Nat) : Bool := tyPlain e && tyPlain c && 2 * tySize c == tySize e && tyFloat e == tyFloat c

/-- One lane function of two or three operands on the type, mode and flush of FMT. -/
structure LaneOp where
  ty : Nat
  mode : Nat
  ftz : Bool

def State.lop (s : State) : LaneOp := ⟨s.ety, s.vrnd, s.ftz⟩

def LaneOp.rd (o : LaneOp) (b : Nat) : FVal := fRead o.ty o.ftz b
def LaneOp.int (o : LaneOp) (b : Nat) : Int := intOf o.ty b

/-- a + b (R150). -/
def LaneOp.add (o : LaneOp) (a b : Nat) : Nat × Nat :=
  if tyFloat o.ty then fAddV o.ty (o.rd a) (o.rd b) o.mode o.ftz else (wrapInt o.ty (o.int a + o.int b), 0)
/-- a − b; a NaN b keeps its sign (R119). -/
def LaneOp.sub (o : LaneOp) (a b : Nat) : Nat × Nat :=
  if tyFloat o.ty then fAddV o.ty (o.rd a) (o.rd b).negate o.mode o.ftz else (wrapInt o.ty (o.int a - o.int b), 0)
/-- a × b -/
def LaneOp.mul (o : LaneOp) (a b : Nat) : Nat × Nat :=
  if tyFloat o.ty then fMulV o.ty (o.rd a) (o.rd b) o.mode o.ftz else (wrapInt o.ty (o.int a * o.int b), 0)
/-- d + a × b, or d − a × b with `np` (R150). -/
def LaneOp.fma (o : LaneOp) (np : Bool) (a b d : Nat) : Nat × Nat :=
  if tyFloat o.ty then fFmaV o.ty np (o.rd a) (o.rd b) (o.rd d) o.mode o.ftz
  else (wrapInt o.ty (if np then o.int d - o.int a * o.int b else o.int d + o.int a * o.int b), 0)
/-- Minimum or maximum (R150). -/
def LaneOp.minmax (o : LaneOp) (wantMax : Bool) (a b : Nat) : Nat × Nat :=
  if tyFloat o.ty then fMinMaxV o.ty wantMax (o.rd a) (o.rd b)
  else if wantMax then (if o.int a < o.int b then b else a, 0) else (if o.int b < o.int a then b else a, 0)
/-- VABS: sign bit cleared, or wrap_int(|a|) (R150). The table acts on the sign bit alone, so a subnormal lane keeps its
other bits under FTZ = 1 too, where R117 could be read to clear them (DEDUCED, log 70). -/
def LaneOp.abs (o : LaneOp) (a : Nat) : Nat :=
  if tyFloat o.ty then a % signBit o.ty
  else if tySigned o.ty then wrapInt o.ty (if o.int a < 0 then -(o.int a) else o.int a) else a
/-- VNEG: sign bit inverted, or wrap_int(−a) (R150); a subnormal lane as in VABS (DEDUCED, log 70). -/
def LaneOp.neg (o : LaneOp) (a : Nat) : Nat :=
  if tyFloat o.ty then (a + signBit o.ty) % 2 ^ tySize o.ty else wrapInt o.ty (-(o.int a))
/-- VCLAMP: min(max(d, a), b); NaN order d, a, b (R150). -/
def LaneOp.clamp (o : LaneOp) (a b d : Nat) : Nat × Nat :=
  let r := o.minmax true d a
  orFlags r.2 (o.minmax false r.1 b)
/-- VSCALE (R150); beyond ±1,024 the power no longer changes the rounded result. -/
def LaneOp.scale (o : LaneOp) (a b : Nat) : Nat × Nat :=
  let n := tySize o.ty
  let k := max (min (sextOf n (b % 2 ^ n)) 1024) (-1024)
  if tyFloat o.ty then
    match o.rd a with
    | .fin s m e => fConvert o.ty (.fin s m (e + k)) o.mode 0 o.ftz
    | v => fConvert o.ty v o.mode 0 o.ftz
  else if 0 ≤ k then (satInt o.ty (o.int a * 2 ^ (min k.toNat 64)), 0)
  else
    let x := o.int a
    let r := roundInt ⟨x, 2 ^ (-k).toNat⟩ o.mode 0
    (wrapInt o.ty r.1, r.2)
/-- VIOTA: x + i (R150). -/
def LaneOp.iota (o : LaneOp) (x : Int) (i : Nat) : Nat × Nat :=
  if tyFloat o.ty then intToF o.ty (x + i) o.mode 0 o.ftz else (wrapInt o.ty (x + i), 0)
/-- Arithmetic right shift of a lane (R150). -/
def LaneOp.sar (o : LaneOp) (a b : Nat) : Nat :=
  let n := tySize o.ty
  ((sextOf n (a % 2 ^ n) / 2 ^ (b % n)) % 2 ^ n).toNat
/-- The least (or with `hi` the greatest) value of the type (R154). -/
def LaneOp.extreme (o : LaneOp) (hi : Bool) : Nat :=
  if tyFloat o.ty then (infTo o.ty (!hi)).1
  else wrapInt o.ty (if hi then intGreatest (tySigned o.ty) (tySize o.ty) else intLeast (tySigned o.ty) (tySize o.ty))

/-- Three lists lane by lane under a mask, inactive lanes absent (R149). -/
def lanes3 (f : Nat → Nat → Nat → Nat → Nat × Nat) : Nat → List Bool → List Nat → List Nat → List Nat → List LaneR
  | _, [], _, _, _ => []
  | i, m :: ms, as, bs, ds =>
    (if m then some (f i (as.headD 0) (bs.headD 0) (ds.headD 0)) else none) ::
      lanes3 f (i + 1) ms as.tail bs.tail ds.tail

/-- The frame of R149: sources A, B and the old destination, a function per lane. -/
def lanewise (lat : Nat) (d : Nat) (nb : Bool) (w : Nat) (a b : State → Nat)
    (f : State → Nat → Nat → Nat → Nat → Nat × Nat) : Act := fun s =>
  let sz := tySize s.ety
  let n := widthOf w / sz
  let l := lanes3 (f s) 0 (s.maskBits sz n) (lanesOf sz n (a s)) (lanesOf sz n (b s)) (lanesOf sz n (s.vn d).toNat)
  emitLanes lat d nb sz s.selector.2 l s

/-- A vector source as a number. -/
def vnat (a : Src) : State → Nat := fun s => (s.srcV a).toNat
/-- A scalar repeated in every lane. -/
def xrep (a : Src) : State → Nat := fun s =>
  let sz := tySize s.ety
  ofLanes sz (List.replicate (1024 / sz) (s.srcX a).toNat)

/-- Latency of an operation with an integer and a floating-point latency (R52). -/
def State.latIF (s : State) : Nat := if tyFloat s.ety then 3 else 1

/-- A lane-wise operation of R67's first row. -/
def arithV (lat : State → Nat) (d : Nat) (nb : Bool) (a b : Src) (w : Nat)
    (f : LaneOp → Nat → Nat → Nat → Nat × Nat) : Act :=
  guarded (typeCheck (fun s => tyArith s.ety)) (fun s =>
    lanewise (lat s) d nb w (vnat a) (vnat b) (fun s _ x y z => f s.lop x y z) s)

/-- A bitwise or moving lane operation: every type but .qc4. -/
def bitV (d : Nat) (nb : Bool) (a b : Src) (w : Nat) (f : Nat → Nat → Nat) : Act :=
  guarded (typeCheck (fun s => tyPlain s.ety))
    (lanewise 1 d nb w (vnat a) (vnat b) (fun _ _ x y _ => (f x y, 0)))

/-- A shift of integer lanes. -/
def shiftV (d : Nat) (nb : Bool) (a b : Src) (w : Nat) (f : LaneOp → Nat → Nat → Nat) : Act :=
  guarded (typeCheck (fun s => tyInt s.ety))
    (lanewise 1 d nb w (vnat a) (vnat b) (fun s _ x y _ => (f s.lop x y, 0)))

/-- Truth of a condition of VCMP (R151): 0 .eq, 1 .ne, 2 .lt, 3 .le. -/
def vcmpLane (o : LaneOp) (c a b : Nat) : Bool × Nat :=
  if tyFloat o.ty then
    let x := o.rd a
    let y := o.rd b
    if x.isNan || y.isNan then (c == 1, snanFlag [x, y])
    else
      let r := fCompare x y
      (match c with
        | 0 => r == 0
        | 1 => r != 0
        | 2 => r < 0
        | _ => r ≤ 0, 0)
  else
    let x := o.int a
    let y := o.int b
    (match c with
      | 0 => x == y
      | 1 => x != y
      | 2 => x < y
      | _ => x ≤ y, 0)

/-- VCMP writes the byte lanes of each active lane (R151). -/
def vcmpAct (c p : Nat) (nb : Bool) (a b : Src) (w : Nat) : Act := fun s =>
  let sz := tySize s.ety
  let g := sz / 8
  let n := widthOf w / sz
  let l := lanes3 (fun _ x y _ =>
    let r := vcmpLane s.lop c x y
    (if r.1 then 2 ^ g - 1 else 0, r.2)) 0 (s.maskBits sz n)
    (lanesOf sz n (s.srcV a).toNat) (lanesOf sz n (s.srcV b).toNat) []
  let v := laneValue g l
  emitF s.latIF (s.wrP p nb (BitVec.ofNat 128 (laneMask g s.selector.2 l)) (BitVec.ofNat 128 v)) (BitVec.ofNat 1024 v)
    (laneFlags l) (raisedAt l 0) false s

/-- VSEL writes every lane of the width (R150). -/
def vselAct (d : Nat) (nb : Bool) (a b : Src) (w : Nat) : Act := fun s =>
  let sz := tySize s.ety
  let n := widthOf w / sz
  let l := List.zipWith (fun (m : Bool) (p : Nat × Nat) => if m then p.1 else p.2) (s.maskBits sz n)
    (List.zip (lanesOf sz n (s.srcV a).toNat) (lanesOf sz n (s.srcV b).toNat))
  emitWide 1 d nb (widthOf w) (ofLanes sz l) 0 [] s

/-- VEXTR (R152). -/
def vextrAct (d : Nat) (nb : Bool) (a b : Src) (w : Nat) : Act := fun s =>
  let sz := tySize s.ety
  let n := widthOf w / sz
  let v := bitsOf (s.srcV a).toNat (sz * ((s.srcX b).toNat % n)) sz
  emitX 2 d nb (if tySigned s.ety then wordOf (sextOf sz v) else BitVec.ofNat 64 v) s

/-- VINS (R152): one lane written. -/
def vinsAct (d : Nat) (nb : Bool) (a b : Src) (w : Nat) : Act := fun s =>
  let sz := tySize s.ety
  let n := widthOf w / sz
  let at_ := sz * ((s.srcX b).toNat % n)
  let v := (s.srcX a).toNat % 2 ^ sz * 2 ^ at_
  emit 2 (s.wrV d nb ((2 ^ sz - 1) * 2 ^ at_) v) (BitVec.ofNat 1024 v) s

/-- VROT (R152). -/
def vrotAct (d : Nat) (nb : Bool) (a b : Src) (w : Nat) : Act := fun s =>
  let sz := tySize s.ety
  let n := widthOf w / sz
  let k := (s.srcX b).toNat % n
  let src := lanesOf sz n (s.srcV a).toNat
  lanewise 2 d nb w (fun _ => ofLanes sz ((List.range n).map (fun i => src.getD ((i + n - k) % n) 0))) (fun _ => 0)
    (fun _ _ x _ _ => (x, 0)) s

/-- The lanes of VPERM and VPERMZ, forbidden reads 0, and the lowest lane at fault (R153). -/
def permLanes (mask : List Bool) (n : Nat) (src idx : List Nat) : List LaneR × Option Nat :=
  let bad (i : Nat) : Bool := let j := idx.getD i 0; !(j < n && mask.getD j false)
  ((List.range n).map (fun i =>
      if mask.getD i false then some (if bad i then 0 else src.getD (idx.getD i 0) 0, 0) else none),
    (List.range n).find? (fun i => mask.getD i false && bad i))

/-- VPERM (strict) and VPERMZ (R153). A permute fault falls due at visibility and leaves a replay slot (R367). -/
def vpermAct (strict : Bool) (d : Nat) (nb : Bool) (a b : Src) (w : Nat) : Act := fun s =>
  let sz := tySize s.ety
  let n := widthOf w / sz
  let r := permLanes (s.maskBits sz n) n (lanesOf sz n (s.srcV a).toNat) (lanesOf sz n (s.srcV b).toNat)
  let v := laneValue sz r.1
  let wr := s.wrV d nb (laneMask sz s.selector.2 r.1) v
  let flt := match r.2 with
    | some i => if strict then some (deferredFlt 6 0 s.slot s.pcNow [0, i + 2 ^ 32]) else none
    | none => none
  [pushPend s.me (mkPend s 2 wr (some (BitVec.ofNat 1024 v)) 0 flt (if strict then .perm else .value) false)]

/-- A node of the tree of R154: value and lowest active leaf beneath. -/
structure Node where
  v : Nat
  leaf : Nat
  deriving DecidableEq, Repr

/-- One level of the tree; the accumulated flags go along, with those of each step by its lowest active leaf (R366). -/
def redLevel (f : Nat → Nat → Nat × Nat) :
    List (Option Node) → Nat × List (Nat × Nat) → List (Option Node) × (Nat × List (Nat × Nat))
  | some x :: some y :: r, (fl, hits) =>
    let c := f x.v y.v
    let t := redLevel f r (fl ||| c.2, hits ++ [(x.leaf, c.2)])
    (some ⟨c.1, x.leaf⟩ :: t.1, t.2)
  | x :: y :: r, acc =>
    let t := redLevel f r acc
    ((match x with
      | some n => some n
      | none => y) :: t.1, t.2)
  | [x], acc => ([x], acc)
  | [], acc => ([], acc)

/-- The tree, on fuel: ten levels are enough for 128 lanes. -/
def redTree (f : Nat → Nat → Nat × Nat) :
    Nat → List (Option Node) → Nat × List (Nat × Nat) → Option Node × (Nat × List (Nat × Nat))
  | 0, l, acc => (l.headD none, acc)
  | k + 1, l, acc =>
    match l with
    | [x] => (x, acc)
    | _ =>
      let t := redLevel f l acc
      redTree f k t.1 t.2

/-- VREDADD, VREDMAX, VREDMIN (R154): `kind` 0 add, 1 max, 2 min. -/
def vredAct (kind d : Nat) (nb : Bool) (a : Src) (w : Nat) : Act := fun s =>
  let sz := tySize s.ety
  let n := widthOf w / sz
  let o := s.lop
  let f (x y : Nat) : Nat × Nat := match kind with
    | 0 => o.add x y
    | 1 => o.minmax true x y
    | _ => o.minmax false x y
  let src := lanesOf sz n (s.srcV a).toNat
  let m := s.maskBits sz n
  let leaves := (List.range n).map (fun i => if m.getD i false then some (Node.mk (src.getD i 0) i) else none)
  let t := redTree f 10 leaves (0, [])
  let v := match t.1 with
    | some x => x.v
    | none => if kind == 0 then 0 else o.extreme (kind == 2)
  emitWide 6 d nb (widthOf w) v t.2.1 t.2.2 s

/-- Is lane b to be chosen over the best so far (R155)? NaNs above every number, +0 above −0, ties to the lower index. -/
def extremeBetter (o : LaneOp) (wantMax : Bool) (best b : Nat) : Bool :=
  if tyFloat o.ty then
    let x := o.rd best
    let y := o.rd b
    if x.isNan then (if wantMax then false else !y.isNan)
    else if y.isNan then wantMax
    else if wantMax then fCompareZ x y < 0 else fCompareZ y x < 0
  else if wantMax then o.int best < o.int b else o.int b < o.int best

/-- The extreme active lane: value, index, and the first signalling NaN. -/
def pickExtreme (o : LaneOp) (wantMax : Bool) : Nat → List Bool → List Nat → Option (Nat × Nat) × Option Nat →
    Option (Nat × Nat) × Option Nat
  | i, true :: ms, b :: bs, (best, sn) =>
    let sn' := if tyFloat o.ty && snanFlag [o.rd b] != 0 && sn.isNone then some i else sn
    let best' := match best with
      | none => some (b, i)
      | some (v, k) => if extremeBetter o wantMax v b then some (b, i) else some (v, k)
    pickExtreme o wantMax (i + 1) ms bs (best', sn')
  | i, false :: ms, _ :: bs, acc => pickExtreme o wantMax (i + 1) ms bs acc
  | _, _, _, acc => acc

/-- VMAXI, VMINI (R155). -/
def vextremeAct (wantMax : Bool) (d : Nat) (nb : Bool) (a : Src) (w : Nat) : Act := fun s =>
  let sz := tySize s.ety
  let n := widthOf w / sz
  let o := s.lop
  let r := pickExtreme o wantMax 0 (s.maskBits sz n) (lanesOf sz n (s.srcV a).toNat) (none, none)
  let (v, i) := match r.1 with
    | some (v, i) => (if tyFloat o.ty then fEncodeV o.ty (o.rd v) else v, i)
    | none => (o.extreme (!wantMax), 2 ^ sz - 1)
  emitWide 6 d nb (widthOf w) (ofLanes sz [v, i]) (if r.2.isSome then NV else 0)
    (r.2.toList.map (fun k => (k, NV))) s

/-- VCVT (R156). -/
def vcvtAct (d : Nat) (nb : Bool) (a : Src) (w : Nat) : Act := fun s =>
  let e := s.ety
  let c := s.cty
  let n := widthOf w / max (tySize e) (tySize c)
  let mode := fmtRnd s.fmt
  let l := lanes3 (fun i x _ _ => convertElem e c x mode (s.laneBits i) s.ftz) 0 (s.maskBits (tySize e) n)
    (lanesOf (tySize e) n (s.srcV a).toNat) [] []
  let v := laneValue (tySize c) l
  emitDrawn 4 (s.wrV d nb (laneMask (tySize c) s.selector.2 l) v) v (laneFlags l) (raisedAt l 0) n s

/-- Words VCVT pops, checked against the queue (R127). -/
def vcvtLanes (s : State) (w : Nat) : Nat := widthOf w / max (tySize s.ety) (tySize s.cty)
def vcvtCheck (w : Nat) : State → Option Flt :=
  andThen (typeCheck (fun s => tyPlain s.ety && tyPlain s.cty)) (fun s => underrun (vcvtLanes s w) s)

/-- The larger of two magnitudes. -/
def maxMag : List FVal → Exact → Exact
  | [], m => m
  | .fin _ k e :: r, m => maxMag r (if m.lt (exactOf false k e) then exactOf false k e else m)
  | _ :: r, m => maxMag r m

/-- One block of R157: the codes of its lanes, with flags, and its scale with SAT. The text does not say what the largest
magnitude of a block without an active lane is: it is 0 here, so the scale is 0x00 (DESIGN CHOICE, log 69). -/
def e8Block (c mode : Nat) (xs : List (Option (FVal × Nat))) : List LaneR × Nat × Nat :=
  let act := xs.filterMap (fun x => x.map (·.1))
  if act.any FVal.isNan then
    (xs.map (fun x => match x with
      | some (v, _) => some (0, if v.isNan then NV else 0)
      | none => some (0, 0)), 0xFF, 0)
  else
    let m := maxMag act ⟨0, 1⟩
    let sc := e8For m.num.natAbs m.den (act.any FVal.isInf)
    (xs.map (fun x => match x with
      | some (.fin s k e, rb) =>
        some (roundExact c (e8Quot s k e sc.1) s mode rb false)
      | some (v, rb) => some (fConvert c v mode rb false)
      | none => some (0, 0)), sc.1, sc.2)

/-- The blocks of 32 lanes from lane i on, on fuel: codes, scales, and the flags of the scales with the lowest lane of each
block that raised one (R157, R366). -/
def e8Blocks (c mode : Nat) : Nat → Nat → List (Option (FVal × Nat)) → List LaneR × List Nat × Nat × List (Nat × Nat)
  | 0, _, _ => ([], [], 0, [])
  | k + 1, i, xs =>
    if xs.isEmpty then ([], [], 0, []) else
    let b := e8Block c mode (xs.take 32)
    let t := e8Blocks c mode k (i + 32) (xs.drop 32)
    (b.1 ++ t.1, b.2.1 :: t.2.1, b.2.2 ||| t.2.2.1, (i, b.2.2) :: t.2.2.2)

/-- x / S exactly, S a magnitude given as .f32 bits; a zero element has quotient 0 (log 20). -/
def qc4Quot (x : FVal) (sbits : Nat) : Exact :=
  match x, fDecode 0 sbits with
  | .fin s m e, .fin _ k g =>
    let a := exactOf s m e
    let b := exactOf false k g
    if m == 0 then ⟨0, 1⟩
    else if k == 0 then ⟨if s then -2 else 2, 1⟩
    else ⟨a.num * b.den, a.den * b.num.natAbs⟩
  | _, _ => ⟨0, 1⟩

/-- The .qc4 form of VQNT (R158): codes, scale code, flags, those of S_b among them (R133), and the lanes that raised them,
SAT and those of S_b at the lowest of the block (R366). G is read, and S_b flushed, under FTZ (R117). -/
def qc4Vqnt (g mode : Nat) (ftz : Bool) (xs : List (Option (FVal × Nat))) : List Nat × Nat × Nat × List (Nat × Nat) :=
  let act := xs.filterMap (fun x => x.map (·.1))
  let odd (v : FVal) : Bool := v.isNan || v.isInf
  let gv := fRead 0 ftz g
  let gBad := match gv with
    | .fin s m _ => s || m == 0
    | _ => true
  if gBad || act.any odd then
    (xs.map (fun _ => 7), 0, NV,
      match xs.findIdx? (fun x => match x with
        | some (v, _) => odd v
        | none => false) with
      | some i => [(i, NV)]
      | none => [((xs.findIdx? Option.isSome).getD 0, NV)])
  else
    let m := maxMag act ⟨0, 1⟩
    let ge := match gv with
      | .fin _ k e => exactOf false k e
      | _ => ⟨1, 1⟩
    let big := ge.lt m
    let c := if big then 255 else qc4ScaleCode m ge
    let sb := qc4BlockScale g c ftz
    (xs.map (fun x => match x with
      | some (v, rb) => qc4Code (qc4Quot v sb.1) mode rb
      | none => 7), c, (if big then SAT else 0) ||| sb.2, [(0, (if big then SAT else 0) ||| sb.2)])

/-- VQNT (R157, R158). -/
def vqntAct (d : Nat) (nb : Bool) (a b : Src) (w : Nat) : Act := fun s =>
  let e := s.ety
  let c := s.cty
  let n := widthOf w / tySize e
  let m := s.maskBits (tySize e) n
  let mode := fmtRnd s.fmt
  let src := lanesOf (tySize e) n (s.srcV a).toNat
  let xs := (List.range n).map (fun i =>
    if m.getD i false then some (fRead e s.ftz (src.getD i 0), s.laneBits i) else none)
  if c == 5 then
    let r := qc4Vqnt ((s.srcX b).toNat % 2 ^ 32) mode s.ftz xs
    let v := ofLanes 4 r.1 + r.2.1 * 2 ^ 256
    emitDrawn 4 (s.wrV d nb (2 ^ 264 - 1) v) v r.2.2.1 r.2.2.2 n s
  else
    let r := e8Blocks c mode 4 0 xs
    let v := laneValue 8 r.1 + ofLanes 8 r.2.1 * 2 ^ (8 * n)
    emitDrawn 4 (s.wrV d nb (2 ^ (8 * (n + r.2.1.length)) - 1) v) v (laneFlags r.1 ||| r.2.2.1)
      (raisedAt r.1 0 ++ r.2.2.2) n s

/-- srcB is 0 in the 8-bit forms, then the pair of types (R157, R159): the lowest reason first (R69). -/
def quantCheck (b : Src) (w : Nat) : State → Option Flt :=
  andThen (fun s => if (s.cty == 3 || s.cty == 4) && b != .reg 0 then some (illegalNow s 2) else none)
    (typeCheck (fun s => quantOk s.ety s.cty w))
def vqntCheck (b : Src) (w : Nat) : State → Option Flt :=
  andThen (quantCheck b w) (fun s => underrun (widthOf w / tySize s.ety) s)

/-- One lane of VDQNT (R159). -/
def vdqntLane (o : LaneOp) (c g : Nat) (v : Nat) (n i : Nat) : Nat × Nat :=
  if c == 5 then qc4Decode o.ty g (bitsOf v 256 8) (bitsOf v (4 * i) 4) o.ftz
  else
    let sc := bitsOf v (8 * (n + i / 32)) 8
    if sc == 0xFF then (defaultNan o.ty, snanFlag [fDecode c (bitsOf v (8 * i) 8)])
    else
      match fDecode c (bitsOf v (8 * i) 8) with
      | .fin s m e => fConvert o.ty (.fin s m (e + sc - 127)) o.mode 0 o.ftz
      | x => fConvert o.ty x o.mode 0 o.ftz

/-- VDQNT (R159). -/
def vdqntAct (d : Nat) (nb : Bool) (a b : Src) (w : Nat) : Act := fun s =>
  let n := widthOf w / tySize s.ety
  let v := (s.srcV a).toNat
  let g := (s.srcX b).toNat % 2 ^ 32
  lanewise 4 d nb w (fun _ => 0) (fun _ => 0) (fun s i _ _ _ => vdqntLane s.lop s.cty g v n i) s

/-- VPACK (R160). -/
def vpackAct (d : Nat) (nb : Bool) (a b : Src) (w : Nat) : Act := fun s =>
  let e := s.ety
  let n := widthOf w / tySize e
  let src := lanesOf (tySize e) n (s.srcV a).toNat ++ lanesOf (tySize e) n (s.srcV b).toNat
  let l := src.map (fun x => some (convertElem e s.cty x s.vrnd 0 s.ftz))
  emitWide 4 d nb (widthOf w) (laneValue (tySize s.cty) l) (laneFlags l) (raisedAt l 0) s

/-- VUNPK (R160): exact, a subnormal .bf16 or .f16 source read as zero under FTZ. Two points the text leaves open are the
model's: a subnormal .e5m2 code unpacked to .f16 under FTZ = 1 stays the subnormal it is, unflushed (DEDUCED, log 71), and a
negative .s8 or .s16 lane unpacked to an .n type, which has no exact value there, wraps (DESIGN CHOICE, log 71). -/
def vunpkAct (d : Nat) (nb : Bool) (a b : Src) (w : Nat) : Act := fun s =>
  let e := s.ety
  let c := s.cty
  let n := widthOf w / tySize e
  let src := lanesOf (tySize c) n ((s.srcV a).toNat / 2 ^ (tySize c * n * ((s.srcX b).toNat % 2)))
  let l := src.map (fun x => some (
    if tyFloat e then fConvert e (fRead c s.ftz x) 0 0 false else (wrapInt e (intOf c x), 0)))
  emitWide 4 d nb (widthOf w) (laneValue (tySize e) l) (laneFlags l) (raisedAt l 0) s

/-- A predicate operation of latency 1 (R161). -/
def predAct (d : Nat) (nb : Bool) (v : State → PWord) : Act := fun s =>
  emit 1 (s.wrP d nb (BitVec.allOnes 128) (v s)) ((v s).setWidth 1024) s


/-- VADD (R150). -/
def execVadd (d : Nat) (nb : Bool) (a b : Src) (w : Nat) (s : State) : Host.Outcome State Fault Refusal :=
  done (arithV State.latIF d nb a b w (fun o x y _ => o.add x y)) s

/-- VSUB (R150). -/
def execVsub (d : Nat) (nb : Bool) (a b : Src) (w : Nat) (s : State) : Host.Outcome State Fault Refusal :=
  done (arithV State.latIF d nb a b w (fun o x y _ => o.sub x y)) s

/-- VMUL (R150). -/
def execVmul (d : Nat) (nb : Bool) (a b : Src) (w : Nat) (s : State) : Host.Outcome State Fault Refusal :=
  done (arithV (fun _ => 4) d nb a b w (fun o x y _ => o.mul x y)) s

/-- VFMA (R150). -/
def execVfma (d : Nat) (nb : Bool) (a b : Src) (w : Nat) (s : State) : Host.Outcome State Fault Refusal :=
  done (arithV (fun _ => 4) d nb a b w (fun o x y z => o.fma false x y z)) s

/-- VFNMA (R150). -/
def execVfnma (d : Nat) (nb : Bool) (a b : Src) (w : Nat) (s : State) : Host.Outcome State Fault Refusal :=
  done (arithV (fun _ => 4) d nb a b w (fun o x y z => o.fma true x y z)) s

/-- VMIN (R150). -/
def execVmin (d : Nat) (nb : Bool) (a b : Src) (w : Nat) (s : State) : Host.Outcome State Fault Refusal :=
  done (arithV State.latIF d nb a b w (fun o x y _ => o.minmax false x y)) s

/-- VMAX (R150). -/
def execVmax (d : Nat) (nb : Bool) (a b : Src) (w : Nat) (s : State) : Host.Outcome State Fault Refusal :=
  done (arithV State.latIF d nb a b w (fun o x y _ => o.minmax true x y)) s

/-- VABS (R150). -/
def execVabs (d : Nat) (nb : Bool) (a : Src) (w : Nat) (s : State) : Host.Outcome State Fault Refusal :=
  done (arithV State.latIF d nb a a w (fun o x _ _ => (o.abs x, 0))) s

/-- VNEG (R150). -/
def execVneg (d : Nat) (nb : Bool) (a : Src) (w : Nat) (s : State) : Host.Outcome State Fault Refusal :=
  done (arithV State.latIF d nb a a w (fun o x _ _ => (o.neg x, 0))) s

/-- VAND (R150). -/
def execVand (d : Nat) (nb : Bool) (a b : Src) (w : Nat) (s : State) : Host.Outcome State Fault Refusal :=
  done (bitV d nb a b w (fun x y => x &&& y)) s

/-- VOR (R150). -/
def execVor (d : Nat) (nb : Bool) (a b : Src) (w : Nat) (s : State) : Host.Outcome State Fault Refusal :=
  done (bitV d nb a b w (fun x y => x ||| y)) s

/-- VXOR (R150). -/
def execVxor (d : Nat) (nb : Bool) (a b : Src) (w : Nat) (s : State) : Host.Outcome State Fault Refusal :=
  done (bitV d nb a b w (fun x y => x ^^^ y)) s

/-- VANDN (R150). -/
def execVandn (d : Nat) (nb : Bool) (a b : Src) (w : Nat) (s : State) : Host.Outcome State Fault Refusal :=
  done (bitV d nb a b w (fun x y => x - (x &&& y))) s

/-- VMOV (R150). -/
def execVmov (d : Nat) (nb : Bool) (a : Src) (w : Nat) (s : State) : Host.Outcome State Fault Refusal :=
  done (bitV d nb a a w (fun x _ => x)) s

/-- VSHL (R150). -/
def execVshl (d : Nat) (nb : Bool) (a b : Src) (w : Nat) (s : State) : Host.Outcome State Fault Refusal :=
  done (shiftV d nb a b w (fun o x y => x * 2 ^ (y % tySize o.ty) % 2 ^ tySize o.ty)) s

/-- VSHR (R150). -/
def execVshr (d : Nat) (nb : Bool) (a b : Src) (w : Nat) (s : State) : Host.Outcome State Fault Refusal :=
  done (shiftV d nb a b w (fun o x y => x / 2 ^ (y % tySize o.ty))) s

/-- VSAR (R150). -/
def execVsar (d : Nat) (nb : Bool) (a b : Src) (w : Nat) (s : State) : Host.Outcome State Fault Refusal :=
  done (shiftV d nb a b w (fun o x y => o.sar x y)) s

/-- VCMP (R151). -/
def execVcmp (c p : Nat) (nb : Bool) (a b : Src) (w : Nat) (s : State) : Host.Outcome State Fault Refusal :=
  done (guarded (typeCheck (fun s => tyArith s.ety)) (vcmpAct c p nb a b w)) s

/-- VSEL (R150). -/
def execVsel (d : Nat) (nb : Bool) (a b : Src) (w : Nat) (s : State) : Host.Outcome State Fault Refusal :=
  done (guarded (typeCheck (fun s => tyPlain s.ety)) (vselAct d nb a b w)) s

/-- VBCAST (R150). -/
def execVbcast (d : Nat) (nb : Bool) (a : Src) (w : Nat) (s : State) : Host.Outcome State Fault Refusal :=
  done (guarded (typeCheck (fun s => tyPlain s.ety)) (lanewise 2 d nb w (xrep a) (fun _ => 0) (fun _ _ x _ _ => (x, 0)))) s

/-- VEXTR (R152). -/
def execVextr (d : Nat) (nb : Bool) (a b : Src) (w : Nat) (s : State) : Host.Outcome State Fault Refusal :=
  done (guarded (typeCheck (fun s => tyPlain s.ety)) (vextrAct d nb a b w)) s

/-- VINS (R152). -/
def execVins (d : Nat) (nb : Bool) (a b : Src) (w : Nat) (s : State) : Host.Outcome State Fault Refusal :=
  done (guarded (typeCheck (fun s => tyPlain s.ety)) (vinsAct d nb a b w)) s

/-- VPERMZ (R153). -/
def execVpermz (d : Nat) (nb : Bool) (a b : Src) (w : Nat) (s : State) : Host.Outcome State Fault Refusal :=
  done (guarded (typeCheck (fun s => tyPlain s.ety)) (vpermAct false d nb a b w)) s

/-- VPERM (R153). -/
def execVperm (d : Nat) (nb : Bool) (a b : Src) (w : Nat) (s : State) : Host.Outcome State Fault Refusal :=
  done (guarded (typeCheck (fun s => tyPlain s.ety)) (vpermAct true d nb a b w)) s

/-- VROT (R152). -/
def execVrot (d : Nat) (nb : Bool) (a b : Src) (w : Nat) (s : State) : Host.Outcome State Fault Refusal :=
  done (guarded (typeCheck (fun s => tyPlain s.ety)) (vrotAct d nb a b w)) s

/-- VIOTA (R150). -/
def execViota (d : Nat) (nb : Bool) (a : Src) (w : Nat) (s : State) : Host.Outcome State Fault Refusal :=
  done (guarded (typeCheck (fun s => tyPlain s.ety)) (lanewise 2 d nb w (fun _ => 0) (fun _ => 0)
    (fun s i _ _ _ => s.lop.iota (s.srcX a).toInt i))) s

/-- VREDADD (R154). -/
def execVredadd (d : Nat) (nb : Bool) (a : Src) (w : Nat) (s : State) : Host.Outcome State Fault Refusal :=
  done (guarded (typeCheck (fun s => tyArith s.ety)) (vredAct 0 d nb a w)) s

/-- VREDMAX (R154). -/
def execVredmax (d : Nat) (nb : Bool) (a : Src) (w : Nat) (s : State) : Host.Outcome State Fault Refusal :=
  done (guarded (typeCheck (fun s => tyArith s.ety)) (vredAct 1 d nb a w)) s

/-- VREDMIN (R154). -/
def execVredmin (d : Nat) (nb : Bool) (a : Src) (w : Nat) (s : State) : Host.Outcome State Fault Refusal :=
  done (guarded (typeCheck (fun s => tyArith s.ety)) (vredAct 2 d nb a w)) s

/-- VMAXI (R155). -/
def execVmaxi (d : Nat) (nb : Bool) (a : Src) (w : Nat) (s : State) : Host.Outcome State Fault Refusal :=
  done (guarded (typeCheck (fun s => tyArith s.ety)) (vextremeAct true d nb a w)) s

/-- VMINI (R155). -/
def execVmini (d : Nat) (nb : Bool) (a : Src) (w : Nat) (s : State) : Host.Outcome State Fault Refusal :=
  done (guarded (typeCheck (fun s => tyArith s.ety)) (vextremeAct false d nb a w)) s

/-- VCVT (R156). -/
def execVcvt (d : Nat) (nb : Bool) (a : Src) (w : Nat) (s : State) : Host.Outcome State Fault Refusal :=
  done (guarded (vcvtCheck w) (vcvtAct d nb a w)) s

/-- VQNT (R157, R158). -/
def execVqnt (d : Nat) (nb : Bool) (a b : Src) (w : Nat) (s : State) : Host.Outcome State Fault Refusal :=
  done (guarded (vqntCheck b w) (vqntAct d nb a b w)) s

/-- VDQNT (R159). -/
def execVdqnt (d : Nat) (nb : Bool) (a b : Src) (w : Nat) (s : State) : Host.Outcome State Fault Refusal :=
  done (guarded (quantCheck b w) (vdqntAct d nb a b w)) s

/-- VPACK (R160). -/
def execVpack (d : Nat) (nb : Bool) (a b : Src) (w : Nat) (s : State) : Host.Outcome State Fault Refusal :=
  done (guarded (typeCheck (fun s => packOk s.ety s.cty)) (vpackAct d nb a b w)) s

/-- VUNPK (R160). -/
def execVunpk (d : Nat) (nb : Bool) (a b : Src) (w : Nat) (s : State) : Host.Outcome State Fault Refusal :=
  done (guarded (typeCheck (fun s => packOk s.ety s.cty)) (vunpkAct d nb a b w)) s

/-- VSCALE (R150). -/
def execVscale (d : Nat) (nb : Bool) (a b : Src) (w : Nat) (s : State) : Host.Outcome State Fault Refusal :=
  done (guarded (typeCheck (fun s => tyPlain s.ety)) (lanewise 4 d nb w (vnat a) (vnat b) (fun s _ x y _ => s.lop.scale x y))) s

/-- VCLAMP (R150). -/
def execVclamp (d : Nat) (nb : Bool) (a b : Src) (w : Nat) (s : State) : Host.Outcome State Fault Refusal :=
  done (arithV (fun _ => 4) d nb a b w (fun o x y z => o.clamp x y z)) s

/-- PAND (R161). -/
def execPand (d : Nat) (nb : Bool) (a b : Src) (s : State) : Host.Outcome State Fault Refusal :=
  done (predAct d nb (fun s => s.srcP a &&& s.srcP b)) s

/-- POR (R161). -/
def execPor (d : Nat) (nb : Bool) (a b : Src) (s : State) : Host.Outcome State Fault Refusal :=
  done (predAct d nb (fun s => s.srcP a ||| s.srcP b)) s

/-- PXOR (R161). -/
def execPxor (d : Nat) (nb : Bool) (a b : Src) (s : State) : Host.Outcome State Fault Refusal :=
  done (predAct d nb (fun s => s.srcP a ^^^ s.srcP b)) s

/-- PNOT (R161). -/
def execPnot (d : Nat) (nb : Bool) (a : Src) (s : State) : Host.Outcome State Fault Refusal :=
  done (predAct d nb (fun s => ~~~(s.srcP a))) s

/-- PCNT (R161). -/
def execPcnt (d : Nat) (nb : Bool) (a : Src) (s : State) : Host.Outcome State Fault Refusal :=
  done (fun s => emitX 1 d nb (BitVec.ofNat 64 (popcN 128 (s.srcP a).toNat)) s) s

/-- PSET (R161). -/
def execPset (d : Nat) (nb : Bool) (c : Nat) (s : State) : Host.Outcome State Fault Refusal :=
  done (predAct d nb (fun _ => BitVec.ofNat 128 (2 ^ c - 1))) s

end Sys2Proof.Machine
end

