-- ==== Sys2Proof/Machine/Routine.lean ====
section
/-! DEFINITION. Operator routines (R180 to R189), the fixed trees (R197) and the binned sums (R200).
A routine is the list of words 0 to 42 of its table entry (R180). -/

namespace Sys2Proof.Machine

/-! ### The header and the issue-time checks (R72, R181 to R189) -/

def rtHW (r : List Nat) : Nat := r.getD 0 0
def rtLen (r : List Nat) : Nat := bitsOf (rtHW r) 26 6
def rtArity (r : List Nat) : Nat := bitsOf (rtHW r) 24 2
/-- Format of component i: F0 to F3. -/
def rtF (r : List Nat) (i : Nat) : Nat := bitsOf (rtHW r) (20 - 4 * i) 4
def rtAssoc (r : List Nat) : Bool := bitsOf (rtHW r) 7 1 == 1
def rtComm (r : List Nat) : Bool := bitsOf (rtHW r) 6 1 == 1
def rtIdv (r : List Nat) : Bool := bitsOf (rtHW r) 5 1 == 1
/-- Components of input 0. -/
def rtComps (r : List Nat) : Nat := if rtF r 1 == 15 then 1 else 2
/-- Input words an application has. -/
def rtInputs (r : List Nat) : Nat := rtComps r * rtArity r
/-- Step i. -/
def rtStep (r : List Nat) (i : Nat) : Nat := r.getD (11 + i) 0
/-- The identity's components (R180). -/
def rtIdent (r : List Nat) : List Nat := (List.range (rtComps r)).map (fun i => r.getD (1 + i) 0)

/-- Is an operand code legal (R184)? -/
def opndOk (inputs o : Nat) : Bool := o < inputs || (8 ≤ o && o < 0x18)

/-- Operands a step uses: A, B and C. -/
def stepUses (c : Nat) : Nat :=
  match c with
  | 0 => 0
  | 4 => 3
  | 10 => 3
  | 7 => 1
  | 8 => 1
  | 11 => 1
  | 12 => 1
  | 13 => 1
  | 19 => 1
  | 20 => 1
  | _ => 2

/-- A legal step other than OEND (R71, R183, R184, R186). -/
def stepOk (inputs w : Nat) : Bool :=
  let c := bitsOf w 27 5
  let a := bitsOf w 19 5
  let b := bitsOf w 14 5
  let cc := bitsOf w 9 5
  let k := bitsOf w 7 2
  let sel := bitsOf w 3 4
  let rm := bitsOf w 1 2
  0 < c && c < 0x15 && w % 2 == 0 && k < 3 && opndOk inputs a &&
    (if 1 < stepUses c then opndOk inputs b else b == 0) && (if 2 < stepUses c then opndOk inputs cc else cc == 0) &&
    (if c == 9 then sel < 4 else if c == 20 then sel < 9 else sel == 0) && ((c == 20 && sel != 8) || rm == 0) &&
    (if c == 10 || (11 ≤ c && c ≤ 16) || c == 20 then k == 0 else if c == 17 || c == 18 then k != 0 else true)

/-- A format a component may have. -/
def rtFmtOk (f : Nat) : Bool := f == 15 || (f < 12 && f != 5)

/-- The header rules of R181 and the steps up to the OEND, on an engine with a limit (R72, R188). -/
def routineOk (r : List Nat) (maxLen : Nat) (needAssoc : Bool) : Bool :=
  let n := rtLen r
  let ar := rtArity r
  0 < n && n ≤ 32 && n ≤ maxLen && (ar == 1 || ar == 2) && rtF r 0 != 15 &&
    (List.range 4).all (fun i => rtFmtOk (rtF r i)) && rtHW r % 32 == 0 &&
    (if ar == 1 then rtF r 2 == 15 && rtF r 3 == 15
     else rtF r 2 != 15 && (rtF r 1 == 15) == (rtF r 3 == 15)) &&
    rtStep r (n - 1) == 0 && (List.range (n - 1)).all (fun i => stepOk (rtInputs r) (rtStep r i)) &&
    (!needAssoc || rtAssoc r)

/-- Arity two with equal formats on both inputs (R189). -/
def routinePair (r : List Nat) : Bool := rtArity r == 2 && rtF r 2 == rtF r 0 && rtF r 3 == rtF r 1

/-- OUTER's steps (R72). -/
def routineCells (r : List Nat) : Bool :=
  (List.range (rtLen r)).all (fun i =>
    let c := bitsOf (rtStep r i) 27 5
    !(c == 11 || c == 12 || c == 13 || c == 20))

/-- The routine of a handle in the context's table; an undefined entry has a zero header (R180). -/
def routineOf (s : State) (k h : Nat) : List Nat :=
  match (s.ctx k).code with
  | some c => c.routines.getD h []
  | none => []

/-! ### One application (R185 to R187) -/

/-- How an engine runs steps: flush, trap enables, and whether shifts and codes fault (not in the matrix cells). -/
structure RtEnv where
  ftz : Bool
  enb : Nat
  cells : Bool
  deriving DecidableEq, Repr

/-- What an application came to: its locals and flags, or the step, cause and operands at fault. -/
structure RtRun where
  q : List Nat
  flags : Nat
  /-- 0 none, 1 flag, 2 codebook, 3 shift -/
  why : Nat
  step : Nat
  ops : List Nat
  deriving DecidableEq, Repr

/-- A component widened to a working word (R185). -/
def widenW (f bits : Nat) : Nat :=
  if tyFloat f then (match fDecode f bits with
    | .nan s sig p => withSign 0 s (infBits 0 + (if sig then 0 else 2 ^ 22) + p % 2 ^ 22)
    | v => fEncodeV 0 v)
  else (intOf f bits % 2 ^ 32).toNat

/-- Signed reading of a working word. -/
def sW (w : Nat) : Int := sextOf 32 (w % 2 ^ 32)

/-- OCVT (R186): value and flags, none for a bad code. -/
def ocvt (sel rm a : Nat) (ftz : Bool) : Option (Nat × Nat) :=
  let v := fRead 0 ftz a
  match sel with
  | 0 => some (toInt 8 v rm 0)
  | 1 => some (toInt 11 v rm 0)
  | 2 => some (intToF 0 (sW a) rm 0 ftz)
  | 3 => some (intToF 0 (a : Int) rm 0 ftz)
  | 8 => if 15 < a then none
    else
      let l := qc4Level a
      some (roundExact 0 ⟨l, 256⟩ false 0 0 false)
  | _ =>
    let t := sel - 3
    let r := fConvert t v rm 0 ftz
    some (widenW t r.1, r.2)

/-- One step's result: value and flags, or a cause (2 codebook, 3 shift). -/
def stepVal (e : RtEnv) (w a b c : Nat) : Except Nat (Nat × Nat) :=
  let k := bitsOf w 7 2
  let f (x : Nat) : FVal := fRead 0 e.ftz x
  let wrap (x : Int) : Nat × Nat := ((x % 2 ^ 32).toNat, 0)
  let rd (x : Nat) : Int := if k == 1 then sW x else x
  match bitsOf w 27 5 with
  | 1 => .ok (if k == 0 then fAddV 0 (f a) (f b) 0 e.ftz else wrap (rd a + rd b))
  | 2 => .ok (if k == 0 then fAddV 0 (f a) (f b).negate 0 e.ftz else wrap (rd a - rd b))
  | 3 => .ok (if k == 0 then fMulV 0 (f a) (f b) 0 e.ftz else wrap (rd a * rd b))
  | 4 => .ok (if k == 0 then fFmaV 0 false (f a) (f b) (f c) 0 e.ftz else wrap (rd a * rd b + rd c))
  | 5 => .ok (if k == 0 then fMinMaxV 0 false (f a) (f b) else wrap (min (rd a) (rd b)))
  | 6 => .ok (if k == 0 then fMinMaxV 0 true (f a) (f b) else wrap (max (rd a) (rd b)))
  | 7 => .ok (if k == 0 then (a % 2 ^ 31, 0) else if k == 1 then wrap (if sW a < 0 then -(sW a) else sW a) else (a, 0))
  | 8 => .ok (if k == 0 then ((a + 2 ^ 31) % 2 ^ 32, 0) else wrap (-(rd a)))
  | 9 =>
    let r := vcmpLane ⟨if k == 0 then 0 else if k == 1 then 8 else 11, 0, e.ftz⟩ (bitsOf w 3 4) a b
    .ok (if r.1 then 1 else 0, r.2)
  | 10 => .ok (if a != 0 then b else c, 0)
  | 11 => .ok (spExp2 (f a) e.ftz)
  | 12 => .ok (spLog2 (f a) e.ftz)
  | 13 => .ok (spRcp (f a) e.ftz)
  | 14 => .ok (a &&& b, 0)
  | 15 => .ok (a ||| b, 0)
  | 16 => .ok (a ^^^ b, 0)
  | 17 => if 32 ≤ b then (if e.cells then .ok (0, 0) else .error 3) else .ok (a * 2 ^ b % 2 ^ 32, 0)
  | 18 =>
    if 32 ≤ b && !e.cells then .error 3
    else .ok (if k == 1 then ((sW a / 2 ^ (min b 31)) % 2 ^ 32).toNat else if 32 ≤ b then 0 else a / 2 ^ b, 0)
  | 19 => .ok (a, 0)
  | _ => match ocvt (bitsOf w 3 4) (bitsOf w 1 2) a e.ftz with
    | some r => .ok r
    | none => if e.cells then .ok (0, 0) else .error 2

/-- An operand of a step (R184). -/
def opndVal (r ins q : List Nat) (o : Nat) : Nat :=
  if o < 4 then ins.getD o 0 else if o < 0x10 then q.getD (o - 8) 0 else r.getD (3 + (o - 0x10)) 0

/-- Run the steps from position i, on fuel. -/
def runSteps (e : RtEnv) (r ins : List Nat) : Nat → Nat → List Nat → Nat → RtRun
  | 0, i, q, fl => ⟨q, fl, 0, i, []⟩
  | n + 1, i, q, fl =>
    let w := rtStep r i
    if w == 0 then ⟨q, fl, 0, i, []⟩
    else
      let a := opndVal r ins q (bitsOf w 19 5)
      let b := opndVal r ins q (bitsOf w 14 5)
      let c := opndVal r ins q (bitsOf w 9 5)
      match stepVal e w a b c with
      | .error why => ⟨q, fl, why, i, [a, b, c]⟩
      | .ok v =>
        let fl' := fl ||| v.2
        if v.2 &&& e.enb != 0 then ⟨q, fl', 1, i, [a, b, c]⟩
        else runSteps e r ins n (i + 1) (q.set (bitsOf w 24 3) v.1) fl'

/-- The locals of an application on working words. -/
def rtWords (e : RtEnv) (r ins : List Nat) : RtRun := runSteps e r ins 32 0 (List.replicate 8 0) 0

/-- The conversion of a working word at OEND, flushed where the engine honours FTZ (R117, R185, R187). -/
def narrowW (f w : Nat) (ftz : Bool) : Nat × Nat :=
  if tyFloat f then fConvert f (fDecode 0 w) 0 0 ftz
  else (satInt f (if tySigned f then sW w else (w : Int)), 0)

/-- One whole application on components in their formats: the result's components in `q`. -/
def rtApply (e : RtEnv) (r : List Nat) (ins : List Nat) : RtRun :=
  let n := rtComps r
  let words := (List.range ins.length).map (fun i => widenW (rtF r (if i < n then i else 2 + (i - n))) (ins.getD i 0))
  let x := rtWords e r words
  if x.why != 0 then x
  else
    let outs := (List.range n).map (fun i => narrowW (rtF r i) (x.q.getD i 0) e.ftz)
    let fl := outs.foldl (fun a o => a ||| o.2) 0
    let res := outs.map (·.1)
    if fl &&& e.enb != 0 then ⟨x.q, x.flags ||| fl, 1, rtLen r - 1, (List.range 3).map (fun i => x.q.getD i 0)⟩
    else ⟨res, x.flags ||| fl, 0, 0, []⟩

/-! ### Sequences of applications -/

/-- Applications in order: how many ran, the flags gathered, the first fault. Those before `skip` ran before a resumption
and raise nothing; one that `repl` lists takes its replacement (R203). -/
structure Apps where
  k : Nat
  flags : Nat
  flt : Option RtRun
  skip : Nat
  repl : List (Nat × List Nat)
  /-- results so far, in order: the accumulator's values, or the tree nodes completed (R202) -/
  nodes : List (List Nat)
  /-- the element at fault, where an engine names one (R366), and the rank of input 1's first leaf -/
  elem : Nat
  leaf : Nat
  deriving DecidableEq, Repr

def Apps.start : Apps := ⟨0, 0, none, 0, [], [], 0, 0⟩

/-- An application has given a result. -/
def Apps.took (a : Apps) (v : List Nat) (fl : Nat) : Apps :=
  { a with k := a.k + 1, flags := a.flags ||| fl, nodes := a.nodes ++ [v] }

/-- One more application; after a fault none runs. -/
def appNext (e : RtEnv) (r : List Nat) (ins : List Nat) (a : Apps) : List Nat × Apps :=
  if a.flt.isSome then ([], a)
  else match tfind a.repl a.k with
    | some v => (v, a.took v 0)
    | none =>
      if a.k < a.skip then
        let v := (rtApply { e with enb := 0 } r ins).q
        (v, a.took v 0)
      else
        let x := rtApply e r ins
        if x.why != 0 then ([], { a with flags := a.flags ||| x.flags, flt := some x })
        else (x.q, a.took x.q x.flags)

/-- A combining function that threads its applications. -/
abbrev Comb := List Nat → List Nat → Apps → List Nat × Apps

def rtComb (e : RtEnv) (r : List Nat) : Comb := fun u v a => appNext e r (u ++ v) a

/-- Left fold in index order (R197). -/
def foldSeq (f : Comb) : List Nat → List (List Nat) → Apps → List Nat × Apps
  | acc, [], a => (acc, a)
  | acc, x :: r, a =>
    let t := f acc x a
    foldSeq f t.1 r t.2

/-- One level of the pairwise tree. -/
def treeLevel (f : Comb) : List (List Nat) → Apps → List (List Nat) × Apps
  | x :: y :: r, a =>
    let t := f x y a
    let u := treeLevel f r t.2
    (t.1 :: u.1, u.2)
  | l, a => (l, a)

/-- The pairwise tree of R154 and R197, on fuel. -/
def foldTree (f : Comb) : Nat → List (List Nat) → Apps → List Nat × Apps
  | 0, l, a => (l.headD [], a)
  | n + 1, l, a =>
    match l with
    | [] => ([], a)
    | [x] => (x, a)
    | _ =>
      let t := treeLevel f l a
      foldTree f n t.1 t.2

/-- The first leaf of input 1 of application k of the tree over n leaves (R202): level by level, on fuel. -/
def leafOf : Nat → Nat → Nat → Nat → Nat
  | 0, _, _, _ => 0
  | f + 1, l, n, k =>
    let m := n / 2
    if k < m then (2 * k + 1) * 2 ^ l else if m == 0 then 0 else leafOf f (l + 1) (n - m) (k - m)

/-- ceil(log2 n), 0 for n = 1 (R197). -/
def clog2 (n : Nat) : Nat := if n ≤ 1 then 0 else Nat.log2 (n - 1) + 1

/-! ### Binned sums (R200) -/

/-- The sum of exact contributions by bins: bits and flags. -/
def binSum (xs : List FVal) : Nat × Nat :=
  let both := xs.any (fun x => x.isInf && !x.sign) && xs.any (fun x => x.isInf && x.sign)
  if xs.any FVal.isNan then (defaultNan 0, snanFlag xs ||| (if both then NV else 0))
  else if both then (defaultNan 0, NV)
  else if xs.any FVal.isInf then
    (withSign 0 (xs.any (fun x => x.isInf && x.sign)) (infBits 0), 0)
  else if xs.all FVal.isZero then (withSign 0 (xs.all FVal.sign) 0, 0)
  else
    let lg (x : FVal) : Int := match x with
      | .fin _ m e => if m == 0 then -1000 else (Nat.log2 m : Int) + e
      | _ => -1000
    let m := (xs.map lg).foldl max (-126)
    let part (x : FVal) : Int × Bool := match x with
      | .fin s k e =>
        let q := exactOf false k (e + 95 - m)
        let t : Int := q.num / q.den
        (if s then -t else t, q.num % q.den != 0)
      | _ => (0, false)
    let parts := xs.map part
    let v := (parts.map (·.1)).foldl (· + ·) 0
    let cut := parts.any (·.2)
    let x := exactOf (v < 0) v.natAbs (m - 95)
    let r := roundExact 0 x false 0 0 false
    (r.1, r.2 ||| (if cut then NX else 0))

/-! ### Elementwise operators: add, max, min (R245, R294, R296, R315) -/

/-- `op` 0 add, 1 max, 2 min on a type: integer add wraps, float add rounds .rne. Of two .qc4 codes the text states no
result: it is free (DESIGN CHOICE, log 73). -/
def combine (op t a b : Nat) : Nat × Nat :=
  let o : LaneOp := ⟨t, 0, false⟩
  if t == 5 then ((Config.freeBits 4 (a % 16 + 16 * (b % 16) + 256 * op)).toNat, 0)
  else match op with
    | 0 => o.add a b
    | 1 => o.minmax true a b
    | _ => o.minmax false a b

/-- The identity an operator's inward image holds (R294). -/
def combineIdent (op t : Nat) : Nat :=
  match op with
  | 0 => if tyFloat t then signBit t else 0
  | 1 => (LaneOp.mk t 0 false).extreme false
  | _ => (LaneOp.mk t 0 false).extreme true

end Sys2Proof.Machine
end

