-- ==== Sys2Proof/Machine/Matrix.lean ====
section
/-! DEFINITION. The matrix array (R162 to R179) and OUTER (R194 to R196). A matrix operation reads a row and writes its
tile row at the row's own cycle; nothing sees the tile before its busy bit clears (R53, R178). -/

namespace Sys2Proof.Machine

/-! ### Column sums (R170 to R172) -/

/-- An infinite contribution of either sign among values. -/
def infSigns (l : List FVal) : Bool × Bool :=
  (l.any (fun v => v.isInf && !v.sign), l.any (fun v => v.isInf && v.sign))

/-- The exact product of two finite values, none when 0 × ∞ (R172). -/
def prodV (a b : FVal) : Option FVal :=
  match a, b with
  | .fin x m e, .fin y n g => some (.fin (x != y) (m * n) (e + g))
  | .inf x, .inf y => some (.inf (x != y))
  | .inf x, .fin y n _ => if n == 0 then none else some (.inf (x != y))
  | .fin x m _, .inf y => if m == 0 then none else some (.inf (x != y))
  | _, _ => none

/-- Exact sum of finite values; others count nothing. -/
def sumFin (l : List FVal) : Exact :=
  l.foldl (fun s v => match v with
    | .fin x m e => s.add (exactOf x m e)
    | _ => s) ⟨0, 1⟩

/-- floor(log2 |v|) of a nonzero finite value. -/
def fin2Log (v : FVal) : Option Int :=
  match v with
  | .fin _ m e => if m == 0 then none else some ((Nat.log2 m : Int) + e)
  | _ => none

/-- Truncate toward zero to a multiple of 2^k: the value, and whether a nonzero bit went. -/
def truncTo (k : Int) (v : FVal) : FVal × Bool :=
  match v with
  | .fin x m e =>
    let q := exactOf false m (e - k)
    (.fin x (q.num / q.den).toNat k, q.num % q.den != 0)
  | v => (v, false)

/-- The products of a .bf16 or .f16 block, truncated (R171). -/
def truncBlock (l : List FVal) : List FVal × Bool :=
  match (l.filterMap fin2Log).max? with
  | none => (l, false)
  | some emax =>
    let t := l.map (truncTo (emax - 48))
    (t.map (·.1), t.any (·.2))

/-- The sum of a .qc4 block times its scale S, none where it is invalid; a NaN S contributes nothing (R171, R172). -/
def scaledBlock (b : List FVal) (sc : FVal) : Option FVal :=
  let i := infSigns b
  let sum := sumFin b
  if i.1 && i.2 then none
  else if sc.isNan then some (.fin false 0 0)
  else if i.1 || i.2 then prodV (.inf i.2) sc
  else prodV (.fin (sum.num < 0 || (sum.num == 0 && b.all FVal.sign)) sum.num.natAbs (-(Nat.log2 sum.den : Int))) sc

/-- The sum of one column: `old` is none for MMAZ, pairs are (activation, weight), `scales` the four S of a .qc4 column
with its blocks of 64 pairs, `wide` a 16-bit type (R171, R172). Bits and flags. For .qc4 the infinities of both signs are looked for among the old word
and the scaled blocks, and among the products within each block (DESIGN CHOICE, log 95). -/
def columnSum (old : Option FVal) (pairs : List (FVal × FVal)) (scales : List FVal) (wide : Bool) : Nat × Nat :=
  let olds := match old with
    | some v => [v]
    | none => []
  -- a NaN contributes nothing here: only invalid operations of the other operands count (R120)
  let prods := pairs.map (fun p => if p.1.isNan || p.2.isNan then some (.fin false 0 0) else prodV p.1 p.2)
  let ps := prods.filterMap id
  let blocks : List (Option FVal) := match scales with
    | [] => ps.map some
    | _ => (List.range 4).map (fun m => scaledBlock ((ps.drop (64 * m)).take 64) (scales.getD m (.fin false 0 0)))
  let vs := blocks.filterMap id
  let i := infSigns (olds ++ vs)
  let bad := prods.any Option.isNone || blocks.any Option.isNone || (i.1 && i.2)
  match nanResult 0 (olds ++ pairs.flatMap (fun p => [p.1, p.2]) ++ scales) with
  | some r => orFlags (if bad then NV else 0) r
  | none =>
    if bad then invalid 0
    else if i.1 || i.2 then (withSign 0 i.2 (infBits 0), 0)
    else
      let t := if wide then truncBlock vs else (vs, false)
      let x := (sumFin (olds ++ t.1))
      let neg0 := (olds ++ ps).all (fun v => v.isZero && v.sign)
      let r := roundExact 0 x neg0 0 0 false
      (r.1, r.2 ||| (if t.2 then NX else 0))

/-- An integer column: wrap_int(.s32, old + sum) (R171). -/
def columnInt (old : Int) (pairs : List (Int × Int)) : Nat :=
  wrapInt 8 (pairs.foldl (fun s p => s + p.1 * p.2) old)

/-! ### Reads -/

/-- Bits of a box element by coordinates, as a load at this moment returns them. -/
def Box.load (s : State) (b : Box) (cs : List Int) : Nat :=
  match b.resolve cs with
  | .elem i => (b.read s i).getD 0
  | _ => 0

/-- A row of n elements [r, c0 ..]. -/
def rowOf (s : State) (b : Box) (r c0 : Int) (n : Nat) : List Nat :=
  (List.range n).map (fun (k : Nat) => b.load s [r, c0 + (k : Int)])

/-- Row period of an activation type (R163). -/
def rowPeriod (t : Nat) : Nat := if t == 1 || t == 2 then 4 else 1

/-- The tile key of a word. -/
def tkey (n tl row col : Nat) : Nat := ((8 * n + tl) * 128 + row) * 256 + col

/-- Cells (activation index, weight bits) of column `col` of a plane (R163, R167). -/
def cellsOf (p : Plane) (col : Nat) : List (Nat × Nat) :=
  (List.range 256).map (fun r =>
    (if p.sparse then 4 * (r / 2) + tget 0 p.route (512 * r + col) else r, tget 0 p.w (512 * r + col)))

/-- One activation row of an MMA or MMAZ into its tiles (R170). -/
def mmaRow (n : Nat) (m : MOp) (i : Nat) : Act := fun s =>
  let p := m.kept.getD (s.plane n m.plane)
  let k := if p.sparse then 512 else 256
  let acts := rowOf s m.boxA (m.c0 + i) m.c1 k
  let isInt := !tyFloat m.ty
  let cols := if p.ty == 5 then 512 else 256
  let outs := (List.range cols).map (fun c =>
    let tl := m.tile + c / 256
    let col := c % 256
    let old := (s.t n tl i col).toNat
    let cells := cellsOf p c
    if isInt then
      (tl, col, columnInt (if m.kind == 2 then intOf 8 old else 0)
        (cells.map (fun e => (intOf m.ty (acts.getD e.1 0), intOf p.ty e.2))), 0)
    else
      let w (b : Nat) : FVal :=
        if p.ty == 5 then (let l := qc4Level b; .fin (l < 0) l.natAbs (-8)) else fDecode p.ty b
      let r := columnSum (if m.kind == 2 then some (fDecode 0 old) else none)
        (cells.map (fun e => (fDecode m.ty (acts.getD e.1 0), w e.2)))
        (if p.ty == 5 then (List.range 4).map (fun q => fDecode 0 (tget 0 p.scale (4 * c + q))) else [])
        (m.ty == 1 || m.ty == 2)
      (tl, col, r.1, r.2))
  outs.map (fun o => Upd.tile (tkey n o.1 i o.2.1) (BitVec.ofNat 32 o.2.2.1)) ++
  [.core n (fun c => { c with mops := c.mops.map (fun x =>
    if x == m then { x with next := i + 1, flags := x.flags ||| outs.foldl (fun f o => f ||| o.2.2.2) 0 } else x) })]

/-- The environment of the matrix cells: no flush, no trap enables (R196). -/
def cellsEnv : RtEnv := ⟨false, 0, true⟩

/-- Read k of OUTER: at c + 1 the column operand, then row k − 1 (R195, R196). -/
def outerRow (n : Nat) (m : MOp) (k : Nat) : Act := fun s =>
  if k == 0 then [.core n (fun c => { c with mops := c.mops.map (fun x => if x == m then { x with
    next := 1
    col := (List.range 256).map (fun (j : Nat) => widenW m.ty (m.boxB.load s [(j : Int)])) } else x) })]
  else
  let i := k - 1
  let a := widenW m.ty (m.boxA.load s [(i : Int)])
  let outs := (List.range 256).map (fun (j : Nat) =>
    let b := m.col.getD j 0
    let g := rtWords cellsEnv m.rtn [a, b]
    let gw := g.q.getD 0 0
    if m.c0 == 1 then
      let h := rtWords cellsEnv m.rtn [(s.t n m.tile i j).toNat, gw]
      (j, h.q.getD 0 0, g.flags ||| h.flags)
    else (j, gw, g.flags))
  outs.map (fun o => Upd.tile (tkey n m.tile i o.1) (BitVec.ofNat 32 o.2.1)) ++
  [.core n (fun c => { c with mops := c.mops.map (fun x =>
    if x == m then { x with next := k + 1, flags := x.flags ||| outs.foldl (fun f o => f ||| o.2.2) 0 } else x) })]

/-- Bytes of the group-record stream of a .qc4 box (R412): 256 bytes of chunk k, of which the last is short. -/
def qc4Chunk (s : State) (b : Box) (c0 : Int) (k : Nat) : List Byte :=
  let base := (b.org : Int) + (b.idx + c0) / 16384 * 8452
  memGets s.spad (skey b.home (base.toNat + 256 * k)) (min 256 (8 * 8452 - 256 * k))

/-- Two codes of byte q of record g into a plane: element e is row 64·m + j of column 64·g + b / 4, b = e div 64 its block
and m = b mod 4 (R166). -/
def qc4Codes (p : Plane) (g q v : Nat) : Plane :=
  let at_ (e : Nat) : Nat := 512 * (64 * (e / 64 % 4) + e % 64) + 64 * g + e / 256
  let e := 2 * (q - 260)
  { p with w := tput (tput p.w (at_ e) (v % 16)) (at_ (e + 1)) (v / 16) }

/-- Byte o of the record stream taken into a plane, with the group scale G as far as it has been read: G, then the scale
codes, then the codes (R110, R166). The flags of S = qc4_block_scale(G, c) are raised by no operation (DESIGN CHOICE, log 95). -/
def qc4Byte (a : Plane × Nat) (o : Nat) (v : Byte) : Plane × Nat :=
  let g := o / 8452
  let q := o % 8452
  if q < 4 then (a.1, (if q == 0 then 0 else a.2) + v.toNat * 256 ^ q)
  else if q < 260 then ({ a.1 with scale := tput a.1.scale (256 * g + (q - 4)) (qc4BlockScale a.2 v.toNat false).1 }, a.2)
  else (qc4Codes a.1 g q v.toNat, a.2)

/-- Read k of a fill (R164, R166, R167). Weight rows come first, then LDWS's routing rows; a .qc4 fill reads 256 bytes at a
time. -/
def fillRow (n : Nat) (m : MOp) (k : Nat) : Act := fun s =>
  let step : Upd := .core n (fun c => { c with mops := c.mops.map (fun x => if x == m then { x with next := k + 1 } else x) })
  let old := s.plane n m.plane
  if m.ty == 5 then
    let bs := qc4Chunk s m.boxA m.c0 k
    let r := ((List.range bs.length).zip bs).foldl (fun a e => qc4Byte a (256 * k + e.1) e.2) (old, m.col.headD 0)
    [.plane (2 * n + m.plane) r.1, .core n (fun c => { c with mops := c.mops.map (fun x =>
      if x == m then { x with next := k + 1, col := [r.2] } else x) })]
  else if k < 256 then
    let row := rowOf s m.boxA (m.c0 + k) m.c1 256
    [.plane (2 * n + m.plane) { old with
      w := ((List.range 256).filter (fun c => row.getD c 0 != 0)).foldl (fun w c => tput w (512 * k + c) (row.getD c 0)) old.w }, step]
  else
    let r := k - 256
    let row := rowOf s m.boxB (m.c0 + r) m.c1 256
    [.plane (2 * n + m.plane) { old with
      route := ((List.range 256).filter (fun c => row.getD c 0 % 4 != 0)).foldl
        (fun w c => tput w (512 * r + c) (row.getD c 0 % 4)) old.route }, step]

/-- Reads a matrix operation makes in all, and the cycle of read k. -/
def MOp.reads (m : MOp) : Nat :=
  match m.kind with
  | 0 => if m.ty == 5 then 265 else 256
  | 1 => 512
  | 4 => m.rows + 1
  | _ => m.rows
def MOp.readAt (m : MOp) (k : Nat) : Nat :=
  match m.kind with
  | 1 => if k < 256 then m.issue + 2 + m.period * k else m.issue + 2 + m.period * 256 + (k - 256)
  | 4 => m.issue + 1 + k
  | _ => m.issue + 2 + m.period * k

/-- One read of a matrix operation; the first finds the flipped bits of its boxes (R380; log 26). -/
def mopRead (n : Nat) (m : MOp) : Act := seqA [
  match m.kind with
  | 0 => fillRow n m m.next
  | 1 => fillRow n m m.next
  | 4 => outerRow n m m.next
  | _ => mmaRow n m m.next,
  whenA (fun _ => m.next == 0) (seqA [meetBox m.boxA, whenA (fun _ => m.kind == 1 || m.kind == 4) (meetBox m.boxB)])]

/-- The next read that is due by cycle t: the earliest, then the operation issued first. -/
def nextRead (t : Nat) (l : List MOp) : Option MOp :=
  l.foldl (fun best m =>
    if m.next < m.reads && m.readAt m.next ≤ t then
      match best with
      | none => some m
      | some b => if m.readAt m.next < b.readAt b.next then some m else some b
    else best) none

/-- Make the reads of core n due by cycle t, in order of cycle, on fuel. -/
def readRows (n t : Nat) : Nat → Act
  | 0 => fun _ => []
  | f + 1 => fun s =>
    match nextRead t (s.core n).mops with
    | none => []
    | some m =>
      let u := mopRead n m s
      u ++ readRows n t f (applyAll u s)

/-- All reads due by cycle t. -/
def readsDue (n t : Nat) : Act := fun s =>
  readRows n t (((s.core n).mops.map MOp.reads).foldl (· + ·) 0) s

/-! ### Issue -/

/-- Tiles a core provides, by its capacity class (R278). -/
def tilesOf (s : State) (n : Nat) : Nat :=
  match wbits (s.sr n 5) 0 2 with
  | 0 => 4
  | 1 => 6
  | _ => 8

/-- Mark a tile busy until a cycle, with the period of a chain. -/
def setBusy (n t until_ period : Nat) : Upd :=
  .core n (fun c => { c with busy := tput c.busy t (max until_ (tget 0 c.busy t)), chain := tput c.chain t period })

/-- The busy bit of a tile (R53). -/
def Core.tileBusy (c : Core) (t cyc : Nat) : Bool := cyc < tget 0 c.busy t

/-- The physical plane that is shadow now. -/
def Core.shadow (c : Core) : Nat := 1 - c.act
/-- The last cycle a plane is in use. -/
def Core.useOf (c : Core) (p : Nat) : Nat := if p == 0 then c.use0 else c.use1

/-- A weight type LDW accepts (R165). -/
def weightOk (t : Nat) : Bool := t == 3 || t == 4 || t == 6 || t == 9 || t == 1 || t == 2

/-- Whole group records (R412). -/
def recordsOk (b : Box) : Bool :=
  b.str.headD 0 == 1 && b.ext.headD 0 % 16384 == 0 && (b.str.drop 1).all (fun x => x % 16384 == 0) && b.idx % 16384 == 0

/-- A rank-2 T1 box with s1 = 1 (R166, R169). -/
def matBox (b : Box) (ty : Nat) : Bool := b.tier == 1 && b.rank == 2 && b.str.getD 1 0 == 1 && b.fmt == ty

/-- The first coordinates out of bounds of a rectangle read row by row, if there are any (R18). -/
def firstOut (e0 e1 : Nat) (c0 c1 : Int) (rows cols : Nat) : Option (List Int) :=
  let rowIn := 0 ≤ c0 && c0 < e0
  if !rowIn || !(0 ≤ c1 && c1 < e1) then some [c0, c1]
  else if e1 < c1 + cols then some [c0, (e1 : Int)]
  else if e0 < c0 + rows then some [(e0 : Int), c1]
  else none

/-- The first fault of a rectangle of accesses: FAULT mode out of bounds (R18), or an element on loan (R295). -/
def regionCheck (s : State) (k : Nat) (b : Box) (c0 c1 : Int) (rows cols : Nat) : Option Flt :=
  match (if b.oob == 2 then firstOut (b.ext.getD 0 0) (b.ext.getD 1 0) c0 c1 rows cols else none) with
  | some cs => some (protFlt s k b.tier cs)
  | none =>
    match (s.core s.me).task with
    | none => none
    | some t =>
      if (loansOf s t).isEmpty then none
      else if (List.range rows).any (fun i => (List.range cols).any (fun j =>
          match b.resolve [c0 + i, c1 + j] with
          | .elem e => onLoan s (some t) b e
          | _ => false)) then some (faultNow s 0x18 0 [])
      else none

/-- Legality of LDW and LDWS; `br` is the routing box of LDWS (R165 to R167). Three points the text leaves open are the
model's (DESIGN CHOICE, log 72): XC = 63 of a rank-2 form, which has no second register, is reason 0x2 as R169 has it for MMA,
and a .qc4 form whose c0 is negative, no multiple of 16,384, or reaches past e0 is reason 0xB. -/
def ldwLegal (bw : Nat) (br : Option Nat) (xc wt : Nat) : State → Option Flt := fun s =>
  let c0 := s.coord xc
  let okT := if wt == 5 then br.isNone else weightOk wt
  let okB (b : Box) : Bool := if wt == 5 then b.tier == 1 && b.rank == 1 && b.fmt == 5 && recordsOk b &&
      c0 % 16384 == 0 && 0 ≤ c0 && c0 + 131072 ≤ b.ext.headD 0
    else matBox b wt
  reasonIf s [(xc == 63 && (wt != 5 || br.isSome), 2),
    (!okT || s.boxHas bw (fun b => !okB b) || br.any (fun r => s.boxHas r (fun b => !matBox b 9)), 0xB)]

def ldwFault (bw : Nat) (br : Option Nat) (xc wt : Nat) : State → Option Flt := fun s =>
  let c := s.core s.me
  needBox bw (fun s b =>
    match needRight s bw b false with
    | some f => some f
    | none =>
      let rf := match br with
        | none => none
        | some r => needBox r (fun s x => match needRight s r x false with
          | some f => some f
          | none => regionCheck s r x (s.coord xc) (s.coord (xc + 1)) 256 256) s
      match rf with
      | some f => some f
      | none =>
        match (if wt == 5 then none else regionCheck s bw b (s.coord xc) (s.coord (xc + 1)) 256 256) with
        | some f => some f
        | none =>
          if s.cycle < c.fill then some (faultNow s 7 2 [])
          else if s.cycle ≤ c.useOf c.shadow && 0 < c.useOf c.shadow then some (faultNow s 7 3 [])
          else none) s

/-- Start a fill of the shadow plane (R166). -/
def ldwAct (kind bw br xc wt : Nat) : Act := fun s =>
  let n := s.me
  let c := s.core n
  match s.b n bw with
  | none => []
  | some b =>
    let wide := wt == 1 || wt == 2
    let len := if wt == 5 then 265 else (if wide then 512 else 256) + (if kind == 1 then 256 else 0)
    let m : MOp := ⟨kind, s.cycle, 0, 0, if wide then 2 else 1, wt, c.shadow, b, s.coord xc,
      if wt == 5 then 0 else s.coord (xc + 1), (s.b n br).getD b, [], 0, 0, false, c.task.getD 0, [], none⟩
    [.plane (2 * n + c.shadow) ⟨wt, kind == 1, [], [], []⟩,
      .core n (fun c => { c with fill := s.cycle + 2 + len, mops := c.mops ++ [m] }),
      postU (s.cycle + 2 + len) 1 (.weightFillComplete n)]

/-- SWPW's schedule check (R179). -/
def swpwFault : State → Option Flt := fun s =>
  if s.cycle < (s.core s.me).fill then some (faultNow s 7 4 []) else none

/-- A pair of R163. -/
def pairOk (w a : Nat) (sparse : Bool) : Bool :=
  ((w == 3 || w == 4) && (a == 3 || a == 4)) || ((w == 6 || w == 9) && (a == 6 || a == 9)) ||
    (w == 1 && a == 1) || (w == 2 && a == 2) || (w == 5 && !sparse && (a == 3 || a == 4))

/-- The tiles an MMA writes on the plane now active. -/
def mmaTiles (s : State) (t : Nat) : List Nat :=
  let c := s.core s.me
  if (s.plane s.me c.act).ty == 5 then [t, t + 1] else [t]

def rowsOf (s : State) (xr : Nat) : Nat := wbits (s.x s.me xr) 0 8

def mmaLegal (t b xc xr ty : Nat) : State → Option Flt := fun s =>
  let p := s.plane s.me (s.core s.me).act
  let r := rowsOf s xr
  -- an odd td on a .qc4 plane is reason 0xB, td + 1 or not (R163)
  let odd := p.ty == 5 && t % 2 == 1
  reasonIf s [(xc == 63, 2), ((if odd then [t] else mmaTiles s t).any (fun x => tilesOf s s.me ≤ x), 4),
    (r == 0 || 128 < r || !pairOk p.ty ty p.sparse || odd || s.boxHas b (fun x => !matBox x ty), 0xB)]

def mmaFault (b xc xr : Nat) : State → Option Flt := fun s =>
  let p := s.plane s.me (s.core s.me).act
  needBox b (fun s bx =>
    match needRight s b bx false with
    | some f => some f
    | none =>
      match regionCheck s b bx (s.coord xc) (s.coord (xc + 1)) (rowsOf s xr) (if p.sparse then 512 else 256) with
      | some f => some f
      | none => if s.cycle + 2 ≤ (s.core s.me).entry && 0 < (s.core s.me).entry then some (faultNow s 7 1 []) else none) s

/-- Start an MMA (kind 2) or MMAZ (kind 3) (R173, R174). -/
def mmaAct (kind t b xc xr ty : Nat) : Act := fun s =>
  let n := s.me
  let c := s.core n
  match s.b n b with
  | none => []
  | some bx =>
    let r := rowsOf s xr
    let p := rowPeriod ty
    let clear := s.cycle + 266 + p * (r - 1)
    let m : MOp := ⟨kind, s.cycle, t, r, p, ty, c.act, bx, s.coord xc, s.coord (xc + 1), bx, [], 0, 0,
      (s.plane n c.act).ty == 5, c.task.getD 0, [], none⟩
    (mmaTiles s t).map (fun x => setBusy n x clear p) ++
    [.core n (fun c => { c with
        mops := c.mops ++ [m], entry := s.cycle + 1 + p * r,
        use0 := if c.act == 0 then s.cycle + 257 + p * (r - 1) else c.use0,
        use1 := if c.act == 1 then s.cycle + 257 + p * (r - 1) else c.use1 }),
      postU clear 1 (.tileBusyClear n)]

def tileLegal (t : Nat) : State → Option Flt := fun s =>
  if tilesOf s s.me ≤ t then some (illegalNow s 4) else none

/-- A result of matrix work, no part of an in-flight image (R367). -/
def matPend (s : State) (lat : Nat) (wr : List Wr) (lv : Option VWord) : Pend :=
  { mkPend s lat wr lv 0 none .value false with matrix := true }

/-- Row and block of TRD and TWR (R175). -/
def rowBlock (s : State) (xs : Nat) : Nat × Nat := (wbits (s.x s.me xs) 0 7, wbits (s.x s.me xs) 8 3)

/-- TRD (R175): the register and the slot's latch take the words at c + 3 (R45, R49). -/
def trdAct (t xs v : Nat) : Act := fun s =>
  let n := s.me
  let (r, b) := rowBlock s xs
  let words := BitVec.ofNat 1024 (ofLanes 32 ((List.range 32).map (fun j => (s.t n t r (32 * b + j)).toNat)))
  [setBusy n t (s.cycle + 2) 0, pushPend n (matPend s 3 [.v (s.vp v) (BitVec.allOnes 1024) words] (some words)),
    postU (s.cycle + 2) 1 (.tileBusyClear n)]

/-- TWR (R175). -/
def twrAct (t xs v : Nat) : Act := fun s =>
  let n := s.me
  let (r, b) := rowBlock s xs
  let words := lanesOf 32 32 (s.vn v).toNat
  (List.range 32).map (fun j => Upd.tile (tkey n t r (32 * b + j)) (BitVec.ofNat 32 (words.getD j 0))) ++
  [setBusy n t (s.cycle + 3) 0, postU (s.cycle + 3) 1 (.tileBusyClear n)]

/-- One tile word converted to an output type (R176). -/
def tstConv (ty w : Nat) : Nat × Nat :=
  if tyFloat ty then fConvert ty (fDecode 0 w) 0 0 false else (satInt ty (intOf 8 w), 0)

def tstLegal (t b xc xr ty : Nat) : State → Option Flt := fun s =>
  let r := rowsOf s xr
  reasonIf s [(xc == 63, 2), (tilesOf s s.me ≤ t, 4),
    (r == 0 || 128 < r || ty == 5 || s.boxHas b (fun x => !matBox x ty), 0xB)]

def tstFault (b xc xr : Nat) : State → Option Flt := needBox b (fun s bx =>
  match needRight s b bx true with
  | some f => some f
  | none => regionCheck s b bx (s.coord xc) (s.coord (xc + 1)) (rowsOf s xr) 256)

/-- TST (R176): row i is written at c + 2 + q·i and visible two cycles later (R164). -/
def tstAct (t b xc xr ty : Nat) : Act := fun s =>
  let n := s.me
  match s.b n b with
  | none => []
  | some bx =>
    let r := rowsOf s xr
    let q := if tySize ty == 32 then 2 else 1
    let clear := s.cycle + 3 + q * (r - 1)
    let rows := (List.range r).map (fun i => (List.range 256).map (fun j => (j, tstConv ty (s.t n t i j).toNat)))
    let flags := rows.foldl (fun f row => row.foldl (fun f e => f ||| e.2.2) f) 0
    let wr (i : Nat) (row : List (Nat × Nat × Nat)) : List Wr := row.filterMap (fun e =>
      match bx.resolve [s.coord xc + i, s.coord (xc + 1) + e.1] with
      | .elem x => match bx.place s x false true with
        | .at_ sp k => some (.mem sp k (bytesOf bx.esize e.2.1))
        | _ => none
      | _ => none)
    [setBusy n t clear 0,
      .core n (fun c => { c with mflags := c.mflags ++ [(clear, c.task.getD 0, flags)] }),
      postU clear 1 (.tileBusyClear n)] ++
    (List.range r).map (fun i => pushPend n (matPend s (4 + q * i) (wr i (rows.getD i [])) none))

/-- TZERO (R177). -/
def tzeroAct (t : Nat) : Act := fun s =>
  let n := s.me
  (List.range 32768).map (fun i => Upd.tile (tkey n t 0 0 + i) 0) ++
  [setBusy n t (s.cycle + 2) 0, postU (s.cycle + 2) 1 (.tileBusyClear n)]

/-- OUTER's checks (R194, R179). -/
def outerLegal (t ba bb xr ty : Nat) : State → Option Flt := fun s =>
  let w := s.x s.me xr
  let r := wbits w 0 8
  let rt := routineOf s (s.core s.me).ctx (wbits w 16 6)
  let box1 (b : Box) : Bool := b.tier == 1 && b.rank == 1 && b.fmt == ty
  reasonIf s [(tilesOf s s.me ≤ t, 4),
    (r == 0 || 128 < r || ty == 5 || 11 < ty || ty != rtF rt 0 || ty != rtF rt 2 ||
      s.boxHas ba (fun b => !box1 b) || s.boxHas bb (fun b => !box1 b), 0xB),
    (!(routineOk rt 4 true && routinePair rt && rtComps rt == 1 && routineCells rt), 0xC)]

def outerFault (ba bb xr : Nat) : State → Option Flt := fun s =>
  let r := wbits (s.x s.me xr) 0 8
  needBox ba (fun s a => needBox bb (fun s b =>
    match needRight s ba a false with
    | some f => some f
    | none =>
      match needRight s bb b false with
      | some f => some f
      | none =>
        if a.oob == 2 && a.ext.getD 0 0 < r then some (protFlt s ba 1 [(a.ext.getD 0 0 : Int)])
        else if b.oob == 2 && b.ext.getD 0 0 < 256 then some (protFlt s bb 1 [(b.ext.getD 0 0 : Int)])
        else if (loansOf s ((s.core s.me).task.getD 0)).isEmpty then
          (if s.cycle + 2 ≤ (s.core s.me).entry && 0 < (s.core s.me).entry then some (faultNow s 7 1 []) else none)
        else if (List.range r).any (fun i => match a.resolve [(i : Int)] with
            | .elem e => onLoan s (s.core s.me).task a e
            | _ => false) || (List.range 256).any (fun i => match b.resolve [(i : Int)] with
            | .elem e => onLoan s (s.core s.me).task b e
            | _ => false) then some (faultNow s 0x18 0 [])
        else if s.cycle + 2 ≤ (s.core s.me).entry && 0 < (s.core s.me).entry then some (faultNow s 7 1 []) else none) s) s

/-- OUTER (R195, R196): `c0` of its record holds ACC. -/
def outerAct (t ba bb xr ty : Nat) : Act := fun s =>
  let n := s.me
  let w := s.x n xr
  let r := wbits w 0 8
  match s.b n ba, s.b n bb with
  | some a, some b =>
    let m : MOp := ⟨4, s.cycle, t, r, 1, ty, 0, a, wbits w 8 1, 0, b,
      routineOf s (s.core n).ctx (wbits w 16 6), 0, 0, false, (s.core n).task.getD 0, [], none⟩
    let clear := s.cycle + 266 + (r - 1)
    [setBusy n t clear 0,
      .core n (fun c => { c with mops := c.mops ++ [m], entry := s.cycle + 1 + r }),
      postU clear 1 (.tileBusyClear n)]
  | _, _ => []

/-- Tiles a matrix operation writes. -/
def MOp.tiles (m : MOp) : List Nat := if m.kind < 2 then [] else if m.two then [m.tile, m.tile + 1] else [m.tile]

/-- When a matrix operation of a core is over: every read made, and the busy bits of its tiles clear, a chain's with the
last of it (R172, R174). -/
def Core.past (c : Core) (m : MOp) (t : Nat) : Bool :=
  m.reads ≤ m.next && m.tiles.all (fun k => tget 0 c.busy k ≤ t)

/-- A busy bit clears: the reads of earlier cycles are made (those of this cycle follow its deliveries, R164), and the flags of the operations now over are ORed into their task's FLG
(R172). -/
def tileBusyClearAct (n : Nat) : Act := seqA [
  fun s => readsDue n (s.cycle - 1) s,
  fun s =>
    let c := s.core n
    let ended := c.mops.filter (fun m => 2 ≤ m.kind && c.past m s.cycle)
    let tst := c.mflags.filter (fun e => e.1 ≤ s.cycle)
    seqA [
      pureA [.core n (fun c => { c with
        mops := c.mops.filter (fun m => !(2 ≤ m.kind && c.past m s.cycle)),
        mflags := c.mflags.filter (fun e => s.cycle < e.1),
        busy := c.busy.filter (fun e => s.cycle < e.2),
        chain := c.chain.filter (fun e => s.cycle < tget 0 c.busy e.1) })],
      forA (ended.map (fun m => (m.task, m.flags)) ++ tst.map (·.2)) (fun e => flagFor n e.1 e.2)] s]

/-- A fill is complete (R166). -/
def weightFillCompleteAct (n : Nat) : Act := seqA [
  fun s => readsDue n (s.cycle - 1) s,
  pureA [.core n (fun c => { c with mops := c.mops.filter (fun m => !(m.kind < 2 && m.reads ≤ m.next)) })]]

/-- LDW (R166). -/
def execLdw (bw xc wt : Nat) (s : State) : Host.Outcome State Fault Refusal :=
  done (checked (ldwLegal bw none xc wt) (ldwFault bw none xc wt) (ldwAct 0 bw bw xc wt)) s
/-- LDWS (R167). -/
def execLdws (bw br xc wt : Nat) (s : State) : Host.Outcome State Fault Refusal :=
  done (checked (ldwLegal bw (some br) xc wt) (ldwFault bw (some br) xc wt) (ldwAct 1 bw br xc wt)) s
/-- SWPW (R168). -/
def execSwpw (s : State) : Host.Outcome State Fault Refusal :=
  done (guarded swpwFault (fun s => [.core s.me (fun c => { c with act := 1 - c.act })])) s
/-- MMA (R170). -/
def execMma (t b xc xr ty : Nat) (s : State) : Host.Outcome State Fault Refusal :=
  done (checked (mmaLegal t b xc xr ty) (mmaFault b xc xr) (mmaAct 2 t b xc xr ty)) s
/-- MMAZ (R170). -/
def execMmaz (t b xc xr ty : Nat) (s : State) : Host.Outcome State Fault Refusal :=
  done (checked (mmaLegal t b xc xr ty) (mmaFault b xc xr) (mmaAct 3 t b xc xr ty)) s
/-- TRD (R175). -/
def execTrd (t xs v : Nat) (s : State) : Host.Outcome State Fault Refusal :=
  done (guarded (tileLegal t) (trdAct t xs v)) s
/-- TWR (R175). -/
def execTwr (t xs v : Nat) (s : State) : Host.Outcome State Fault Refusal :=
  done (guarded (tileLegal t) (twrAct t xs v)) s
/-- TST (R176). -/
def execTst (t b xc xr ty : Nat) (s : State) : Host.Outcome State Fault Refusal :=
  done (checked (tstLegal t b xc xr ty) (tstFault b xc xr) (tstAct t b xc xr ty)) s
/-- TZERO (R177). -/
def execTzero (t : Nat) (s : State) : Host.Outcome State Fault Refusal :=
  done (guarded (tileLegal t) (tzeroAct t)) s
/-- OUTER (R194 to R196). -/
def execOuter (t ba bb xr ty : Nat) (s : State) : Host.Outcome State Fault Refusal :=
  done (checked (outerLegal t ba bb xr ty) (outerFault ba bb xr) (outerAct t ba bb xr ty)) s
/-- TILE_BUSY_CLEAR (R178). -/
def execTileBusyClear (n : Nat) (s : State) : Host.Outcome State Fault Refusal := done (tileBusyClearAct n) s
/-- WEIGHT_FILL_COMPLETE (R166). -/
def execWeightFillComplete (n : Nat) (s : State) : Host.Outcome State Fault Refusal := done (weightFillCompleteAct n) s

end Sys2Proof.Machine
end

