-- ==== Sys2Proof/Machine/Units.lean ====
section
/-! DEFINITION. What engine operations share (R216, R229, R234 to R236, R415): the units an operation moves, reading and
writing their elements at each tier, the requests of a T2 or T3 side, stamps, and faults after issue. -/

namespace Sys2Proof.Machine

/-! ### Places of bytes -/

/-- The place of n bytes at a byte offset from a box's origin. -/
def Box.placeOff (s : State) (b : Box) (o : Int) (n : Nat) (rd wr : Bool) : Place :=
  match b.tier with
  | 1 =>
    let a := (b.org : Int) + o
    if 0 ≤ a && a + n ≤ 2 ^ 22 then .at_ .spad (skey b.home a.toNat) else .none (Xlate.bad 3 0 false 0)
  | 2 =>
    let a := (b.org * 65536 : Nat) + o
    if 0 ≤ a && a + n ≤ 2 ^ 31 then .at_ .dram (vkey b.home a.toNat) else .none (Xlate.bad 3 0 false 0)
  | 5 => .peer b.home b.org o
  | _ =>
    let x := translate s b.key (b.offAddr s o) rd wr
    if x.cause != 0 then .none x
    else if x.host then .sealed b.key x.entry x.phys x.shadow (rangeWord s b.key x.entry 2 % 2 ^ 48)
    else .at_ .dram (t3key x.phys)

/-- Does a side of an operation go through vault stations (R415)? -/
def Box.remote (s : State) (b : Box) : Bool :=
  b.tier == 2 || (b.tier == 3 && (match b.placeOff s 0 1 false false with
    | .at_ .dram _ => true
    | _ => false))

/-- One write of a unit: an element with its bits, or bytes at an offset. -/
inductive UW where
  | elem (i : Int) (v : Nat)
  /-- an element of the operation's second written box -/
  | elem2 (i : Int) (v : Nat)
  | raw (o : Int) (bs : List Byte)
  deriving DecidableEq, Repr

/-- What a unit comes to. -/
structure UnitR where
  ws : List UW
  flags : Nat
  /-- the lowest element with an enabled flag -/
  bad : Option Nat
  acc : List Nat
  /-- a fault that stops the operation: cause and detail words -/
  stop : Option (Nat × List Nat)
  /-- nothing remains after this unit -/
  last : Bool
  deriving DecidableEq, Repr

def UnitR.ok (ws : List UW) (acc : List Nat) : UnitR := ⟨ws, 0, none, acc, none, false⟩

/-- The span of an element in bytes from its box's origin. -/
def Box.span (b : Box) (i : Int) : Int × Nat := (b.offset i, b.esize)

/-- Element index of linear position l; positions past the box have none and give the origin. -/
def Box.at (b : Box) (l : Nat) : Int := (b.elemIdx l).getD 0

/-- The record of a .qc4 box that unit k is (R412). -/
def recOff (b : Box) (k : Nat) : Int := b.at (16384 * k) / 16384 * 8452

/-! ### What a box reaches -/

/-- Does a box reach a page whose accesses fall in one total order (R213)? -/
def Box.strongAny (s : State) (b : Box) : Bool :=
  b.tier == 3 && (List.range (b.imageLen / 4096 + 2)).any (fun j =>
    let a := b.offAddr s b.first / 4096 + j
    let o := b.first + ((4096 * a : Nat) : Int) - b.offAddr s b.first
    strongKind (translate s b.key (4096 * a) false false).kind &&
      (List.range 4096).any (fun (k : Nat) => b.covers (o + (k : Int))))

/-! ### Reading -/

/-- A byte of HBM as the operation sees it: its own writes, then what its requests brought. -/
def Op.seen (p : Op) (k : Nat) : Byte := match tfind p.ovl k with
  | some b => b
  | none => tget 0#8 p.got k

/-- The scratchpad bytes a result still to come will write, by key. -/
def Pend.byte (p : Pend) (k : Nat) : Option Byte :=
  p.wr.foldl (fun a w => match w with
    | .mem .spad k0 bs => if k0 ≤ k && k < k0 + bs.length then some (bs.getD (k - k0) 0) else a
    | _ => a) none

/-- Results of core n still to come that no fault withholds: those on their way and those of a trap's image. -/
def State.coming (s : State) (n : Nat) : List Pend :=
  ((s.core n).pend ++ ((s.core n).img.map (·.pend)).getD []).filter (fun q => q.flt.isNone)

/-- A byte of a scratchpad as an operation reads it: the stores of its core up to its issue come before it though they are not
visible yet (R216); with `turn`, as a turntable reads it (R218). -/
def Op.byteAt (s : State) (p : Op) (turn : Bool) (k : Nat) : Byte :=
  let l := (s.coming p.core).filter (fun q => q.ord ≤ p.issue && (q.byte k).isSome)
  match l.foldl (fun (a : Option Pend) q => match a with
      | none => some q
      | some x => if x.vis ≤ q.vis then some q else a) none with
  | some q => (q.byte k).getD 0
  | none => if turn then s.turnByte .spad k else memGet s.spad k

/-- Has the core of an operation a RECVOP of its issue or before that has not read its elements yet (R216)? -/
def Op.behindRecvop (s : State) (p : Op) : Bool :=
  (s.coming p.core).any (fun q => q.ord ≤ p.issue && (match q.again with
    | .recvop _ _ _ _ _ _ _ => true
    | _ => false))

/-- A store of its core that an operation's write follows no longer writes those bytes. -/
def Pend.outside (k n ord : Nat) (p : Pend) : Pend :=
  if ord < p.ord || !(List.range n).any (fun j => (p.byte (k + j)).isSome) then p
  else { p with wr := p.wr.flatMap (fun w => match w with
    | .mem .spad a bs =>
      if a + bs.length ≤ k || k + n ≤ a then [w]
      else (if a < k then [Wr.mem .spad a (bs.take (k - a))] else []) ++
        (if k + n < a + bs.length then [Wr.mem .spad (k + n) (bs.drop (k + n - a))] else [])
    | _ => [w]) }

/-- The bytes an operation writes stand over the stores of its core up to its issue (R216). -/
def overEarlier (p : Op) (k n : Nat) : Act := fun s =>
  if (s.coming p.core).any (fun q => q.ord ≤ p.issue && (List.range n).any (fun j => (q.byte (k + j)).isSome)) then
    [.core p.core (fun c => { c with
      pend := c.pend.map (Pend.outside k n p.issue)
      img := c.img.map (fun i => { i with pend := i.pend.map (Pend.outside k n p.issue) }) })]
  else []

/-- Read one byte at an offset of a source box. -/
def readOff (s : State) (p : Op) (b : Box) (o : Int) : Byte :=
  match b.placeOff s o 1 true false with
  | .at_ .dram k => if b.remote s then p.seen k else memGet s.dram k
  | .at_ .spad k => p.byteAt s false k
  | .at_ sp k => memGet (s.mem sp) k
  | .sealed k entry phys shadow base =>
    match t4Open s k entry base shadow ((phys - base) / 64) with
    | some u => u.getD ((phys - base) % 64) 0
    | none => 0
  | .peer _ _ o => (Config.freeBits 8 (s.fresh + o.toNat))
  | .none _ => 0

/-- Read an element of a source box. -/
def readElem (s : State) (p : Op) (b : Box) (i : Int) : Nat :=
  b.bitsAt i ((List.range b.esize).map (fun (j : Nat) => readOff s p b (b.offset i + (j : Int))))

/-- A sealed unit among spans whose tag fails (R356): range entry, unit and generation. -/
def sealBroken (s : State) (b : Box) (spans : List (Int × Nat)) : Option (List Nat) :=
  if b.tier != 3 && b.tier != 4 then none
  else spans.findSome? (fun e => match b.placeOff s e.1 e.2 false false with
    | .sealed k entry phys shadow base =>
      let u := (phys - base) / 64
      if (t4Open s k entry base shadow u).isNone then some [entry, u, (t4Rec s shadow u).2] else none
    | _ => none)

/-- Have the bytes of spans arrived, where they come by request? -/
def arrived (s : State) (p : Op) (b : Box) (spans : List (Int × Nat)) : Bool :=
  !b.remote s || spans.all (fun e => match b.placeOff s e.1 e.2 true false with
    | .at_ .dram k => (List.range e.2).all (fun j => (tfind p.got (k + j)).isSome || (tfind p.ovl (k + j)).isSome)
    | _ => true)

/-! ### Runs of bytes within one column (R415) -/

/-- Join spans of keys that follow one another within a 64 B column. -/
def runsOf : List (Nat × Nat) → List (Nat × Nat)
  | [] => []
  | a :: r =>
    match runsOf r with
    | [] => [a]
    | b :: t => if a.1 + a.2 == b.1 && a.1 / 64 == (b.1 + b.2 - 1) / 64 then (a.1, a.2 + b.2) :: t else a :: b :: t

/-- The keys of spans of a remote box. -/
def spanKeys (s : State) (b : Box) (spans : List (Int × Nat)) : List (Nat × Nat) :=
  spans.filterMap (fun e => match b.placeOff s e.1 e.2 true false with
    | .at_ .dram k => some (k, e.2)
    | _ => none)

/-- Add a run to the write runs still to be sent, joining the last one where it continues. A joined run goes when its last
byte has come, from where that came from. -/
def addRun (outs : List WRun) (r : WRun) : List WRun :=
  match outs.getLast? with
  | none => [r]
  | some a =>
    if a.key + a.bytes.length == r.key && a.key / 64 == (r.key + r.bytes.length - 1) / 64 then
      outs.dropLast ++ [{ a with src := r.src, bytes := a.bytes ++ r.bytes }]
    else outs ++ [r]

/-- Put bytes in a byte table, zeros too. -/
def putBytes (m : List Host.Cell) (k : Nat) : List Byte → List Host.Cell
  | [] => m
  | b :: r => putBytes (tput m k b) (k + 1) r

/-- Pod and member of a device identifier (log 25). -/
def podOf (dv : Nat) : Nat := dv / 1024 % 1024
def memberOf (dv : Nat) : Nat := dv % 1024

/-- The route of a pod peer: valid, latency, port (R414). -/
def routeOf (s : State) (member : Nat) : Bool × Nat × Nat :=
  let w := tget 0 s.dev.routes member
  (w.getLsbD 63, wbits w 4 16, wbits w 0 4)

/-! ### Flits (R311, R312, R358) -/

/-- The key of a port's link (R358); of the two devices the lower identifier comes first (DESIGN CHOICE, log 77). -/
def linkKey (d : Dev) (port : Nat) : List Nat :=
  let q := tget Port.start d.ports port
  Config.hkdf (Config.linkSecret (min d.ident q.peer) (max d.ident q.peer) q.keys) ([0x6C, 0x69, 0x6E, 0x6B] ++
    if d.ident ≤ q.peer then [d.ident, q.peer, port, q.peerPort] else [q.peer, d.ident, q.peerPort, port])

/-- A payload under the link's seal: the nonce is the direction and the frame's number. -/
def linkSeal (d : Dev) (port : Nat) (bs : List Byte) : List Byte :=
  let q := tget Port.start d.ports port
  let nonce := [if d.ident ≤ q.peer then 0 else 1, q.frames]
  let c := Config.gcmEnc (linkKey d port) nonce bs
  c ++ Config.gcmTag (linkKey d port) nonce c

/-- Bits of an injector's mask that fall on n bytes from position d of a stream on (R385, R409). -/
def injXor (where_ mask d n : Nat) : Nat :=
  (List.range n).foldl (fun x j =>
    let at_ := d + j
    if where_ ≤ at_ && at_ < where_ + 8 then x + (mask / 2 ^ (8 * (at_ - where_)) % 256) * 2 ^ (8 * j) else x) 0

/-- The armed injectors of a kind that name a unit (R385, R409). -/
def injectorsOf (s : State) (kind n : Nat) : List Nat :=
  (List.range 4).filter (fun j =>
    let w := s.dsr (0x140 + 4 * j)
    w.getLsbD 63 && wbits w 0 4 == kind && wbits w 4 8 == n)

/-- What a flit carries under its seal: its kind (1 of a timetable, 2 of an LSEND, 3 a copy's bytes for a peer, 4 an
acknowledgement, 5 a collective's partial), its home, sequence and number, what it names there, and its payload (the order
of the fields: DESIGN CHOICE, log 98). -/
def flitBytes (kind dst seq num : Nat) (names : List Nat) (bs : List Byte) : List Byte :=
  ([kind, dst, seq, num] ++ names).flatMap (bytesOf 8) ++ bs

/-- The armed kind-3 injectors of a port whose bytes fall in its next flit (R385; log 97). -/
def flitInjectors (d : Dev) (port : Nat) : List Nat :=
  let at_ := 256 * (tget Port.start d.ports port).carried
  (List.range 4).filter (fun j =>
    let w := tget 0 d.sr (0x140 + 4 * j)
    let o := (tget 0 d.sr (0x141 + 4 * j)).toNat
    w.getLsbD 63 && wbits w 0 4 == 3 && wbits w 4 8 == port && o < at_ + 256 && at_ < o + 8)

/-- A flit leaves by a port that is up: altered by the injectors that fire on it, sealed, in its turn at 125 B a tick. A link
rekeys before 2^32 frames have passed under one key (R311, R358, R385). -/
def Dev.flit (now port kind dst seq num : Nat) (names : List Nat) (bs : List Byte) (d : Dev) : Dev :=
  let q := tget Port.start d.ports port
  if q.mode == 0 then d
  else
    let free := max (125 * now) q.busy + 256
    let js := flitInjectors d port
    let bit (i : Nat) : Nat := js.foldl (fun x j => x ^^^
      injXor (tget 0 d.sr (0x141 + 4 * j)).toNat (tget 0 d.sr (0x142 + 4 * j)).toNat (256 * q.carried + i) 1) 0
    let out := (List.range bs.length).map (fun i => bs.getD i 0 ^^^ BitVec.ofNat 8 (bit i))
    { d with
      outbox := d.outbox ++ [.flit port ((free + 124) / 125) (linkSeal d port (flitBytes kind dst seq num names out))]
      sr := js.foldl (fun r j => tput r (0x140 + 4 * j) (tget 0 r (0x140 + 4 * j) &&& ~~~(1#64 <<< 63))) d.sr
      ports := tput d.ports port { q with
        busy := free
        carried := q.carried + 1
        frames := (q.frames + 1) % (2 ^ 32 - 1)
        keys := q.keys + (q.frames + 1) / (2 ^ 32 - 1) } }

/-- What an LSEND flit names at its home: its producer, the handles of its boxes, and their element and stride fields. -/
def Pkt.names (p : Pkt) : List Nat := p.prod :: p.boxes.flatMap (fun b => [b.org, b.fmt, (b.idx % 2 ^ 64).toNat] ++ b.ext ++
  b.str.map (fun x => (x % 2 ^ 64).toNat))

/-- One more flit resent or dropped on a port (R331). -/
def resendU (port : Nat) : Upd := .dev (fun d => { d with
  ports := tput d.ports port (let q := tget Port.start d.ports port; { q with resends := q.resends + 1 }) })

/-- Packet k leaves by its port: an LSEND's flit or a collective's (kind 2), or one kept for a resend, its flit kind in `op`
(kind 6). One that an injector altered fails its check at the far end: on a short-reach port the failure comes back within
P, a long-haul frame is dropped, counted and sent again (R311, R312, R385). -/
def sendFrames (k : Nat) (p : Pkt) : Nat → Act
  | 0 => fun _ => []
  | f + 1 => fun s =>
    let q := s.port p.port
    let own := p.kind == 2
    let hit := q.mode != 0 && !(flitInjectors s.dev p.port).isEmpty
    seqA [
      pureA [.dev (Dev.flit s.cycle p.port (if own then (if p.boxes.isEmpty then 5 else 2) else p.op) p.dst
        (if own then p.op else p.seq) p.num (if own || p.op == 2 then p.names else []) p.data)],
      if !hit then pureA []
      else if q.mode == 1 then pureA [.fresh,
        postU (s.cycle + 1 + Config.freeNat s.fresh % (q.lat + 1)) 6 (.linkFlitResend p.port k)]
      else seqA [pureA [resendU p.port], sendFrames k p f]] s

def flitU (k : Nat) (p : Pkt) : Act := sendFrames k p 5

/-- A flit leaves; on a short-reach port it is kept while it may have to be sent again, within P (R311). -/
def keepFlit (p : Pkt) : Act := fun s =>
  let q : Pkt := { p with
    kind := 6
    issue := s.cycle
    arrive := s.cycle }
  if (s.port p.port).mode == 1 then
    flitU s.nid q s ++ [.newPkt q, postU (s.cycle + (s.port p.port).lat) 6 (.farEndAcknowledgement p.port s.nid)]
  else flitU 0 q s

/-- The source and destination of a copy, and its transform. -/
def Op.src (p : Op) : Box := p.boxes.getD 0 ⟨1, 0, [], [], 0, 0, 0, false, false, 0, 0, 0, 0, 0, 0, false⟩
def Op.dst (p : Op) : Box := p.boxes.getD 1 p.src
def Op.tr (p : Op) : Nat := p.par.getD 0 0

/-- The bytes of a copy gathered for a peer leave as a flit. -/
def sendGathered (p : Op) (r : WRun) : Act := fun s =>
  let b := p.boxes.getD 1 ⟨5, 0, [], [], 0, 0, 0, false, false, 0, 0, 0, 0, 0, 0, false⟩
  keepFlit ⟨6, p.core, b.home, (routeOf s (memberOf b.home)).2.2, 0, 0, false, b.org, r.key, 3, 0, r.bytes, none, 0, [], 0⟩ s

/-- Translated now: the mapping that governs is its own to its end. -/
def Op.mapped (s : State) (p : Op) : Op :=
  { p with
    rtab := (s.ctx p.ctx).rtabNow
    ptroot := (s.ctx p.ctx).ptrootNow
    frozen := [] }

/-- Supervisor software overwrites bytes, of a table perhaps: operations translated already keep what stood there (R351). -/
def freezeU (key : Nat) (n : Nat) : Act := fun s =>
  let old := (List.range n).map (fun j => (key + j, memGet s.dram (key + j)))
  (s.ops.filter (fun e => e.2.st == .running && e.2.kind != .land)).map (fun e =>
    Upd.op e.1 (fun p => { p with frozen := p.frozen ++ old.filter (fun c => (tfind p.frozen c.1).isNone) }))

/-- The state as a translated operation finds it: with the range table and page table it was translated by. What lands for
no core of this device is translated as it lands. -/
def Op.view (p : Op) (s : State) : State :=
  if p.st == .running && p.kind != .land then
    { s with ctxs := tput s.ctxs p.ctx { s.ctx p.ctx with
        rtabNow := p.rtab
        ptrootNow := p.ptroot
        frozen := p.frozen } }
  else s

/-- The range entry, integrity region and base of a host address in a context's sealed ranges (R349, R356). -/
def sealedAt (s : State) (k phys : Nat) : Option (Nat × Nat × Nat) :=
  ((List.range 64).find? (fun i =>
    let w3 := rangeWord s k i 3
    let base := rangeWord s k i 2 % 2 ^ 48
    w3 % 2 == 1 && bitsOf w3 6 2 == 1 && base ≤ phys && phys ≤ base + rangeWord s k i 1 % 2 ^ 48)).map (fun i =>
      (i, bitsOf (rangeWord s k i 3) 20 36 * 4096, rangeWord s k i 2 % 2 ^ 48))

/-- Bytes gathered for a peer leave as a flit; those of a sealed unit are written as one write of it (R311, R356). -/
def sendRun (p : Op) (r : WRun) : Act := fun s =>
  if (p.boxes.getD 1 p.dst).tier == 5 then sendGathered p r s
  else match sealedAt (p.view s) p.ctx r.key with
    | some (entry, shadow, base) => sealU (some p.task) p.ctx entry r.key shadow base r.bytes s
    | none => []

/-- What remains gathered leaves. -/
def flushPeer (o : Nat) : Act := fun s =>
  match tfind s.ops o with
  | none => []
  | some p => seqA [forA p.gather (sendRun p), pureA (if p.gather.isEmpty then [] else [.op o (fun q => { q with gather := [] })])] s

/-! ### Writing -/

/-- The element a unit's writes belong to, the vault its data came from plus one (0: none), and whether they go to the
operation's second written box. -/
structure From where
  elem : Nat
  src : Nat
  second : Bool
  deriving DecidableEq, Repr

/-- The granules n bytes of the scratchpads touch, with a mark of the box. -/
def granSpan (k n : Nat) (second : Bool) : List Nat :=
  (List.range ((k + n - 1) / 1024 + 1 - k / 1024)).map (fun j => k / 1024 + j + if second then 2 ^ 32 else 0)

/-- Bytes of a destination at a place: the scratchpad at once, a station by request, sealed host memory through the hub,
a peer through a port. -/
def writeAt (o : Nat) (w : From) (remote : Bool) (pl : Place) (bs : List Byte) : Act := fun s =>
  match tfind s.ops o with
  | none => []
  | some p =>
    match pl with
    | .at_ .dram k =>
      if remote then
        [.op o (fun p => { p with outs := addRun p.outs ⟨k, w.elem, w.src, bs⟩, ovl := putBytes p.ovl k bs })]
      else storeU (some p.task) .dram k bs s
    | .at_ .spad k =>
      .op o (fun p =>
        let gs := granSpan k bs.length w.second
        { p with
          grans := p.grans.filter (fun g => !gs.contains g) ++ gs
          wrote := s.cycle }) ::
      (overEarlier p k bs.length s ++ storeU (some p.task) .spad k bs s)
    | .at_ .host k => storeU (some p.task) .host k bs s
    | .sealed _ _ phys _ base =>
      -- bytes of one unit that follow each other are one write of it
      (match p.gather with
        | [r] =>
          if r.key + r.bytes.length == phys && (r.key - base) / 64 == (phys - base) / 64 then
            let r := { r with bytes := r.bytes ++ bs }
            if (phys + bs.length - base) % 64 == 0 then .op o (fun p => { p with gather := [] }) :: sendRun p r s
            else [.op o (fun p => { p with gather := [r] })]
          else .op o (fun p => { p with gather := [⟨phys, w.elem, 0, bs⟩] }) :: sendRun p r s
        | _ => [.op o (fun p => { p with gather := [⟨phys, w.elem, 0, bs⟩] })])
    | .peer _ _ off =>
      -- runs of up to 256 bytes make a flit (R311)
      let k := (off % 2 ^ 64).toNat
      (match p.gather with
        | [r] =>
          if r.key + r.bytes.length == k && r.bytes.length + bs.length ≤ 256 then
            [.op o (fun p => { p with gather := [{ r with bytes := r.bytes ++ bs }] })]
          else .op o (fun p => { p with gather := [⟨k, w.elem, 0, bs⟩] }) :: sendRun p r s
        | _ => [.op o (fun p => { p with gather := [⟨k, w.elem, 0, bs⟩] })])
    | .none _ => []

/-- Write one element. -/
def writeElem (o : Nat) (w : From) (b : Box) (i : Int) (v : Nat) : Act := fun s =>
  match tfind s.ops o with
  | none => []
  | some p =>
    let old := match b.placeOff s (b.offset i) 1 false false with
      | .at_ .dram k => (tfind p.ovl k).getD (memGet s.dram k)
      | .sealed _ _ phys _ _ => (p.gather.findSome? (fun (r : WRun) => if r.key ≤ phys then r.bytes[phys - r.key]? else none)).getD
          (readOff s p b (b.offset i))
      | _ => readOff s p b (b.offset i)
    let bs := if b.fmt == 5 then
        [BitVec.ofNat 8 (if i % 2 == 0 then old.toNat / 16 * 16 + v % 16 else old.toNat % 16 + v % 16 * 16)]
      else bytesOf b.esize v
    writeAt o w (b.remote s) (b.placeOff s (b.offset i) b.esize false true) bs s

/-- One write of a unit: to the operation's destination box, or its second one. -/
def writeUW (o : Nat) (f : From) (b b2 : Box) (w : UW) : Act := fun s =>
  let rem := b.remote s
  match w with
  | .elem i v => writeElem o f b i v s
  | .elem2 i v => writeElem o { f with second := true } b2 i v s
  | .raw off bs => forA (List.range bs.length) (fun (j : Nat) => fun s =>
      writeAt o f rem (b.placeOff s (off + (j : Int)) 1 false true) [bs.getD j 0] s) s

/-- Where a write falls, for stamps. -/
def UW.spanOf (b : Box) : UW → Int × Nat
  | .elem i _ => b.span i
  | .elem2 i _ => b.span i
  | .raw o bs => (o, bs.length)

/-- Stamp granules with a box's tag base (R229). -/
def stampU (b : Box) (gs : List Nat) : List Upd := gs.map (fun g => .tag (g / 4096) (g % 4096) (BitVec.ofNat 16 b.tb))

/-- Granule keys of spans of a scratchpad box. -/
def granKeys (b : Box) (second : Bool) (spans : List (Int × Nat)) : List Nat :=
  if b.tier != 1 then []
  else spans.flatMap (fun e => granSpan (skey b.home ((b.org : Int) + e.1).toNat) e.2 second)

/-! ### Faults after issue -/

/-- The box register an operation's field names: 0 bits 22–19, 1 bits 18–15, 2 bits 14–11. -/
def opReg (p : Op) (j : Nat) : Nat := bitsOf p.word (19 - 4 * j) 4

/-- A deferred fault of an engine operation, from its issuing bundle and slot. -/
def opFlt (p : Op) (cause : Nat) (detail : List Nat) : Flt := deferredFlt cause 0 p.slot p.pc detail

/-- Protection or translation, with the slot word and tick (R236, R366). -/
def opBoxFlt (p : Op) (cause j : Nat) (b : Box) (cs : List Int) (x : Xlate) : Flt :=
  opFlt p cause (boxDetail p.slot p.word (opReg p j) b.tier cs x ++ [p.word, if p.kind == .cpy then p.tick else p.start])

/-- The fault reaches the core as a trap on the first bundle at or after `since`. The counter of a stochastic operation's
random bits is recorded in the save area, for its re-issue (R125; log 10). -/
def opTrap (p : Op) (since : Nat) (f : Flt) : Act := fun s =>
  dueFor p.core (some p.task) since f none p.sup s ++
    (if p.rm == 4 then [areaU p.ctx (Config.freeNat s.fresh) [f.opc, f.oslot, p.seq], .fresh] else [])

/-- What keeps an operation from touching an element: place, page kinds, front half (R215, R236). A read-modify-write of
the turntable may write a sync page. -/
def elemBar (s : State) (p : Op) (b : Box) (o : Int) (n : Nat) (store rmw : Bool) : Option Xlate :=
  match b.placeOff s o n (!store || rmw) (store || rmw) with
  | .none x => some (if x.cause == 0 then { x with cause := 3 } else x)
  | _ =>
    if b.tier != 3 && b.tier != 4 then none
    else (b.pages s o n).findSome? (byteBar s b p.sup (!store || rmw) (store || rmw) (store && !rmw))

/-- The first bar among the elements of a box, made before an operation's first write (R236). -/
def boxBar (s : State) (p : Op) (j : Nat) (b : Box) (store rmw : Bool) : Option Flt :=
  if b.tier == 1 || b.tier == 2 then
    (List.range b.count).findSome? (fun l => match b.elemIdx l with
      | some i => (match b.place s i (!store) store with
        | .none x => some (opBoxFlt p 3 j b (coordsOf b.ext l) x)
        | _ => none)
      | none => none)
  else if b.tier == 5 then none
  else
    -- a copy that writes or reads group records touches their headers too (R412)
    let heads := if p.kind == .cpy && b.fmt == 5 && p.par.getD 0 0 == (if store then 2 else 3) then b.count / 16384 else 0
    match (List.range heads).findSome? (fun k =>
        (elemBar s p b (recOff b k) 260 store rmw).map (fun x => opBoxFlt p x.cause j b (coordsOf b.ext (16384 * k)) x)) with
    | some f => some f
    | none => (List.range b.count).findSome? (fun l => match b.elemIdx l with
      | some i => (elemBar s p b (b.offset i) b.esize store rmw).map (fun x => opBoxFlt p x.cause j b (coordsOf b.ext l) x)
      | none => none)

/-- Is an element of an operand box on loan from the caller (R295)? -/
def loanBar (ks : List Nat) : State → Option Flt := fun s =>
  if (loansOf s ((s.core s.me).task.getD 0)).isEmpty then none
  else if ks.any (fun k => match s.b s.me k with
      | some b => regionOnLoan s (s.core s.me).task b
      | none => false) then some (faultNow s 0x18 0 [])
  else none

/-- The right of each box of an operation (R191, R225). -/
def rightsBar (l : List (Nat × Bool × Bool)) : State → Option Flt := fun s =>
  firstFlt (fun e => needBox e.1 (fun s b =>
    if (e.2.1 && !b.rd) || (e.2.2 && !b.wr) then some (protFlt s e.1 b.tier []) else none) s) l

/-! ### Transit (R239) -/

/-! ### The mapping an operation was translated by (R351) -/

/-- A piece of operation o, by its own mapping. -/
def viewA (o : Nat) (a : Act) : Act := fun s =>
  match tfind s.ops o with
  | some p => a (p.view s)
  | none => a s

/-- The stations a box's data lies at: tier 4 at the hub, tier 5 past a port. -/
def Box.stn (s : State) (b : Box) : Stn :=
  match b.tier with
  | 1 => coreStn b.home
  | 2 => vaultStn b.home
  | 3 => (match b.placeOff s 0 1 false false with
    | .at_ .dram k => vaultStn (k / 2 ^ 31)
    | _ => ⟨4, 0, 0⟩)
  | _ => ⟨4, 0, 0⟩

def isHost (s : State) (b : Box) : Bool :=
  b.tier == 4 || (b.tier == 3 && (match b.placeOff s 0 1 false false with
    | .sealed _ _ _ _ _ => true
    | _ => false))

/-- The way between a station and the home of a box, the first four cycles of R239 left out: past the hub to the host,
through a port to a peer (hops there are free, log 10), or by R13 and R14. -/
def wayTo (s : State) (a : Stn) (b : Box) : Nat :=
  if b.tier == 5 then 2 * (a.y + Config.freeNat s.fresh) + 48 + (routeOf s (memberOf b.home)).2.1
  else if isHost s b then (if a.die == 4 then 0 else 2 * a.y) + 24 + hlat s
  else routeTime a (b.stn s)

/-- Transit between a source and a destination box (R239). A box at a vault reaches the formulas only where the other
side is the host's or a peer's; its requests have ways of their own (R415). -/
def transit (s : State) (a b : Box) : Nat :=
  if a.tier == 5 || b.tier == 5 then
    let x := if a.tier == 5 then b else a
    4 + wayTo s (x.stn s) (if a.tier == 5 then a else b)
  else if isHost s a || isHost s b then
    let x := if isHost s a then b else a
    4 + wayTo s (x.stn s) (if isHost s a then a else b)
  else if a.tier == 1 && b.tier == 1 && a.home == b.home then 2
  else if a.tier == 1 && b.tier == 1 && a.home / 40 == b.home / 40 && quadOf' a.home == quadOf' b.home then 6
  else 4 + routeTime (a.stn s) (b.stn s)

/-! ### Requests (R415) -/

/-- Transit of a request from its core to a vault station. -/
def reqTransit (n v : Nat) : Nat := 4 + coreVault n v

/-- The way of a write run of an operation to vault v: from the vault its data came from, or from a copy's source, or
from its core (R239, R415). -/
def runWay (s : State) (p : Op) (src v : Nat) : Nat :=
  if src != 0 then routeTime (vaultStn (src - 1)) (vaultStn v)
  else if p.kind == .cpy then 4 + wayTo s (vaultStn v) p.src
  else reqTransit p.core v

/-- Send one request of an operation at its next sending cycle; `way` is its time to the station. -/
def sendReq (o : Nat) (kind key len : Nat) (data : List Byte) (elem way : Nat) : Act := fun s =>
  match tfind s.ops o with
  | none => []
  | some p =>
    let t := max s.cycle p.sendAt
    let v := key / 2 ^ 31
    let a := t + way
    let r : Req := ⟨kind, p.core, some o, p.task, v, key % 2 ^ 31, len, data, t, a, 0, p.slot, 0, false, true, p.pc, p.sup,
      elem, 0, [], 1, 0⟩
    [.newReq r, .op o (fun p => { p with sendAt := t + 1, reqs := p.reqs + 1 }), postU a 2 (.farRequestArrival s.nid)]

/-- Which engine of its core an operation occupies (R234, R198): 0 the transfer path, 1 the gather engine, 2 the
turntable, 3 the random-bit generator, 4 the copy engine's routine datapath, 5 the vector routine path, 6 others. -/
def Op.engine (p : Op) : Nat :=
  match p.kind with
  | .cpy => 0
  | .gath => 1
  | .scac => 2
  | .rbfill => 3
  | .fold => if p.par.getD 1 0 == 1 then 5 else 4
  | .scan => if p.par.getD 1 0 == 1 then 5 else 4
  | .zip => if p.par.getD 1 0 == 1 then 5 else 4
  | _ => 6

/-- An operation of the same engine issued before number `o` and not yet finished (R234). -/
def engineBusy (s : State) (p : Op) (o : Nat) : Bool :=
  s.ops.any (fun e => e.1 < o && e.2.core == p.core && e.2.engine == p.engine && e.2.st != .done)

/-- Issue of an engine operation: it starts `delay` cycles later if its engine is idle (R234, R198), or behind a fence. -/
def enqueue (p : Op) (delay : Nat) : Act := fun s =>
  let held := forkBlocked s s.me
  [.newOp { p with phase := if held then 9 else 0 }] ++
  (if held || engineBusy s p s.nid then [] else [postU (s.cycle + delay) 2 (.engineOpStart s.nid)])

/-- The next waiting operation of an engine starts as the one ahead of it finishes. -/
def engineNext (p : Op) : Act := fun s =>
  match s.ops.find? (fun e => e.2.core == p.core && e.2.engine == p.engine && e.2.st == .waiting) with
  | some e => if e.2.phase == 9 || p.engine == 6 || p.engine == 0 then [] else [postU s.cycle 2 (.engineOpStart e.1)]
  | none => []

/-- A member's COLL ends: another may run. -/
def collEnd (o : Nat) (p : Op) : List Upd :=
  [.delOp o, .core p.core (fun c => { c with
    collQ := c.collQ - 1
    collDone := c.collDone + 1 })]

/-- Does an operation touch host memory to which a far store issued before it, or with it, is still on its way (R216)? -/
def Op.behindSealed (s : State) (p : Op) : Bool :=
  p.boxes.any (isHost s) && s.reqs.any (fun e => e.2.core == p.core && e.2.op.isNone && e.2.kind == 1 && !e.2.sealed.isEmpty &&
    e.2.st < 3 && e.2.issue ≤ p.issue)

/-- Do the accesses of an operation fall in one total order, so that each is performed before the next is sent (R213)? -/
def Op.serial (s : State) (p : Op) : Bool := p.boxes.any (fun b => b.strongAny s)

/-- Requests an operation may have outstanding (R415): one at a time where a side lies on a page whose accesses fall in
one total order (R213), and none before the core's earlier far accesses have left. -/
def Op.window (s : State) (p : Op) : Nat :=
  if p.behindHeld s then 0
  else if p.serial s then 1 else 64

/-- Join (key, length, element) runs within columns. -/
def runsE : List (Nat × Nat × Nat) → List (Nat × Nat × Nat)
  | [] => []
  | a :: r =>
    match runsE r with
    | [] => [a]
    | b :: t => if a.1 + a.2.1 == b.1 && a.1 / 64 == (b.1 + b.2.1 - 1) / 64 then (a.1, a.2.1 + b.2.1, a.2.2) :: t
      else a :: b :: t

/-- Cut a run at column boundaries, on fuel. -/
def columns : Nat → Nat × Nat × Nat → List (Nat × Nat × Nat)
  | 0, _ => []
  | f + 1, (k, n, e) =>
    let m := 64 - k % 64
    if n ≤ m then [(k, n, e)] else (k, m, e) :: columns f (k + m, n - m, e)

/-- Is the write run at the head of those still to be sent complete? Where accesses go one by one, also before a further
read, in the order of the copy (R213, R241). -/
def Op.flushable (s : State) (p : Op) : Bool :=
  match p.outs with
  | [] => false
  | _ :: rest => !rest.isEmpty || p.total ≤ p.next || p.flt.isSome || p.serial s

/-- Send what may be sent: reads in iteration order first, then the write runs that are complete, of a strong page each
write before further reads; at most 64 outstanding, none after a refusal, and no read after another fault (R202). `reads`
are the read runs with their first elements. -/
def pump (o : Nat) (reads : State → Op → List (Nat × Nat × Nat)) : Nat → Act
  | 0 => fun _ => []
  | f + 1 => fun s =>
    match tfind s.ops o with
    | none => []
    | some p =>
      if p.window s ≤ p.reqs || p.busy.isSome then []
      else
        let first := p.serial s && p.flushable s
        match (if p.flt.isSome || first then none else (reads s p)[p.sent]?) with
        | some (k, n, e) =>
          seqA [sendReq o 0 k n [] e (reqTransit p.core (k / 2 ^ 31)),
            pureA [.op o (fun p => { p with sent := p.sent + 1 })], pump o reads f] s
        | none =>
          match p.outs with
          | r :: _ =>
            if !p.flushable s then []
            else seqA [sendReq o 1 r.key r.bytes.length r.bytes r.elem (runWay s p r.src (r.key / 2 ^ 31)),
              pureA [.op o (fun p => { p with outs := p.outs.drop 1 })], pump o reads f] s
          | [] => []

/-! ### CRC-32C (R242) -/

/-- One bit of the reflected polynomial 0x82F63B78. -/
def crcBit : Nat → Nat → Nat
  | 0, c => c
  | n + 1, c => crcBit n (if c % 2 == 1 then (c / 2) ^^^ 0x82F63B78 else c / 2)

/-- The running value over bytes. -/
def crcBytes (c : Nat) (bs : List Byte) : Nat := bs.foldl (fun c b => crcBit 8 (c ^^^ b.toNat)) c

end Sys2Proof.Machine
end

