-- ==== Sys2Proof/Machine/Copy.lean ====
section
/-! DEFINITION. CPY (R193, R237 to R242, R408, R409): its checks, its units by transform, departure, transfer end. -/

namespace Sys2Proof.Machine

/-! ### Operation fields: boxes [source, destination] (`Op.src`, `Op.dst`); par [TR, chain, cmp, EXP, RT] and [on, WHERE, MASK] of each injector that fires;
acc [record position in the source, position in the destination, bytes delivered, running CRC]. -/


/-- Blocks of 32 along dimension 0. -/
def blocks32 (e : Nat) : Nat := (e + 31) / 32

/-- The shape and format rules of R240; of the source of a .dcmpz no extent is asked (DESIGN CHOICE, log 95). -/
def cpyShape (tr : Nat) (a b : Box) : Bool :=
  let same := a.ext == b.ext
  let q (f : Nat) : Bool := f == 0 || f == 1 || f == 2
  match tr with
  | 0 => a.fmt == b.fmt && same
  | 7 => a.fmt == b.fmt && same
  | 1 => a.fmt != 5 && b.fmt != 5 && same
  | 2 => q a.fmt && a.rank == b.rank && (if b.fmt == 5 then same && recordsOk b && a.ext.headD 0 % 16384 == 0
      else (b.fmt == 3 || b.fmt == 4) && a.ext.tail == b.ext.tail && b.ext.headD 0 == 33 * blocks32 (a.ext.headD 0))
  | 3 => q b.fmt && a.rank == b.rank && (if a.fmt == 5 then same && recordsOk a && b.ext.headD 0 % 16384 == 0
      else (a.fmt == 3 || a.fmt == 4) && a.ext.tail == b.ext.tail && a.ext.headD 0 == 33 * blocks32 (b.ext.headD 0))
  | 4 => tySize a.fmt == 32 && a.rank == 1 && b.fmt == 11 && b.rank == 1 &&
      a.ext.headD 0 + blocks32 (a.ext.headD 0) ≤ b.ext.headD 0
  | 5 => a.fmt == 11 && a.rank == 1 && tySize b.fmt == 32 && b.rank == 1
  | 6 => a.fmt == b.fmt && a.rank == 2 && b.rank == 2 && a.ext == b.ext.reverse
  | _ => same && a.fmt == b.fmt

/-- What R240 asks of one side alone. -/
def cpySide (tr : Nat) (dst : Bool) (x : Box) : Bool :=
  let q := x.fmt == 0 || x.fmt == 1 || x.fmt == 2
  let c := x.fmt == 3 || x.fmt == 4 || (x.fmt == 5 && recordsOk x)
  match tr with
  | 1 => x.fmt != 5
  | 2 => if dst then c else q
  | 3 => if dst then q else c
  | 4 => x.rank == 1 && (if dst then x.fmt == 11 else tySize x.fmt == 32)
  | 5 => x.rank == 1 && (if dst then tySize x.fmt == 32 else x.fmt == 11)
  | 6 => x.rank == 2
  | _ => true

def cpyLegal (bd bs xt tr cmp : Nat) : State → Option Flt := fun s =>
  let r := routineOf s (s.core s.me).ctx (wbits (s.x s.me (xt + 1)) 32 6)
  let far (x : Box) : Bool := x.tier == 5 && podOf x.home != s.dev.pod
  reasonIf s [(xt == 63 && (cmp == 1 || tr == 8), 2),
    (s.boxHas bs (fun x => far x || !cpySide tr false x) || s.boxHas bd (fun x => far x || !cpySide tr true x) || s.boxHas bs (fun a => s.boxHas bd (fun b => !cpyShape tr a b)) ||
      (tr == 8 && (s.boxHas bs (fun a => a.fmt != rtF r 0) || s.boxHas bd (fun b => b.fmt != rtF r 0))), 0xB),
    (tr == 8 && !(routineOk r 16 false && rtArity r == 1), 0xC)]

/-- Late departure and board overflow (R238); the late departure where both hold (DESIGN CHOICE, log 95). -/
def boardBar (xt asap : Nat) : State → Option Flt := fun s =>
  let t := (s.x s.me xt).toNat
  let n := (s.core s.me).board.length
  let d := [s.iss.word, t, s.ctime, n]
  if asap == 0 && t + 2 < s.ctime then some (faultNow s 0x0C 0 d)
  else if 64 ≤ n then some (faultNow s 0x0D 0 d)
  else none

def cpyFault (bd bs xt asap : Nat) : State → Option Flt :=
  andThen (rightsBar [(bs, true, false), (bd, false, true)]) (andThen (loanBar [bs, bd]) (boardBar xt asap))

/-- Units of a copy: elements of the source or of the destination, blocks or groups to quantise, records to compress. -/
def cpyTotal (tr : Nat) (a b : Box) : Nat :=
  match tr with
  | 2 => if b.fmt == 5 then a.count / 16384 else if a.ext.headD 0 == 0 then 0 else a.count / a.ext.headD 0 * blocks32 (a.ext.headD 0)
  | 3 => b.count
  | 4 => blocks32 a.count
  | 5 => b.count
  | _ => a.count

/-- Random bits of element e (R125): eng 1 the copy engine, 2 the collective engine. -/
def engBits (p : Op) (eng e : Nat) : Nat :=
  if p.rm == 4 then (gen128 ⟨e % 2 ^ 32, eng, p.seq % 2 ^ 32, p.seq / 2 ^ 32 % 2 ^ 32⟩ (genKey p.key0 p.key1)).w0 else 0

/-- Linear positions of a block: its fiber's start, and how many of the 32 there are. -/
def blockAt (e0 k : Nat) : Nat × Nat × Nat :=
  let nb := blocks32 e0
  (k / nb, k % nb, min 32 (e0 - 32 * (k % nb)))

/-- Offset of a byte of the group record that holds element k of a .qc4 source, and the element's place in the group. -/
def recAt (a : Box) (k : Nat) : Int × Nat := (recOff a (k / 16384), k % 16384)

/-- Linear positions of the code and of the scale of element k of a block-scaled source. -/
def codeAt (p : Op) (k : Nat) : Nat × Nat :=
  let e0 := p.dst.ext.headD 1
  let f := k / e0 * p.src.ext.headD 0 + 33 * (k % e0 / 32)
  (f + k % e0 % 32, f + 32)

/-- The source spans unit k reads. -/
def cpySpans (p : Op) (k : Nat) : List (Int × Nat) :=
  let a := p.src
  match p.tr with
  | 2 =>
    if p.dst.fmt == 5 then (List.range 16384).map (fun j => a.span (a.at (16384 * k + j)))
    else
      let (f, q, n) := blockAt (a.ext.headD 0) k
      (List.range n).map (fun j => a.span (a.at (f * a.ext.headD 0 + 32 * q + j)))
  | 3 =>
    if a.fmt == 5 then
      let (o, j) := recAt a k
      [(o, 4), (o + 4 + (j / 64 : Nat), 1), (o + 260 + (j / 2 : Nat), 1)]
    else [a.span (a.at (codeAt p k).1), a.span (a.at (codeAt p k).2)]
  | 4 => (List.range (min 32 (a.count - 32 * k))).map (fun j => a.span (a.at (32 * k + j)))
  | 5 => [a.span (a.at (min (p.acc.getD 0 0) (a.count - 1)))]
  | _ => [a.span (a.at k)]

/-- The spans a copy reads in all, in iteration order, each with the element its first byte belongs to (R415): of a .qc4
source whole records, of a .dcmpz source all of it. -/
def cpyReadSpans (p : Op) : List (Nat × Int × Nat) :=
  let a := p.src
  if p.tr == 3 then
    if a.fmt == 5 then (List.range (a.count / 16384)).map (fun g => (16384 * g, recOff a g, 8452))
    else (List.range a.count).map (fun l => (l, a.span (a.at l)))
  else if p.tr == 5 then (List.range a.count).map (fun l => (l, a.span (a.at l)))
  else (List.range p.total).flatMap (fun k => (cpySpans p k).map (fun e => (k, e)))

/-- The element, in iteration order, that unit k begins with. -/
def cpyElem (p : Op) (k : Nat) : Nat :=
  match p.tr with
  | 2 =>
    if p.dst.fmt == 5 then 16384 * k
    else
      let (f, q, _) := blockAt (p.src.ext.headD 0) k
      f * p.src.ext.headD 0 + 32 * q
  | 4 => 32 * k
  | _ => k

/-- Merge of lane results with the lowest element that raised an enabled flag. -/
def laneBad (enb base : Nat) (l : List (Nat × Nat)) : Nat × Option Nat :=
  (l.foldl (fun f e => f ||| e.2) 0,
    (l.findIdx? (fun e => e.2 &&& enb != 0)).map (· + base))

/-- A QC4 group record of 16,384 elements (R110, R112): bytes and flags, then those of the scales S_b by block (R133). -/
def qc4Group (mode : Nat) (xs : List FVal) (rb : Nat → Nat) : List Byte × Nat × List Nat :=
  if xs.any (fun v => v.isNan || v.isInf) then
    (bytesOf 4 0x7FC00000 ++ List.replicate 256 0#8 ++ List.replicate 8192 0x77#8, NV, [])
  else
    let m := maxMag xs ⟨0, 1⟩
    let g := (roundExact 0 m false 0 0 false).1
    let blk (b : Nat) : List FVal := (xs.drop (64 * b)).take 64
    let cs := (List.range 256).map (fun b => qc4ScaleCode (maxMag (blk b) ⟨0, 1⟩) m)
    let sbs := cs.map (fun c => qc4BlockScale g c false)
    let codes := (List.range 256).flatMap (fun b =>
      let sb := (sbs.getD b (0, 0)).1
      (List.range 64).map (fun j => qc4Code (qc4Quot ((blk b).getD j (.fin false 0 0)) sb) mode (rb (64 * b + j))))
    (bytesOf 4 g ++ cs.map (BitVec.ofNat 8) ++ (List.range 8192).map (fun j =>
      BitVec.ofNat 8 (codes.getD (2 * j) 0 + 16 * codes.getD (2 * j + 1) 0)),
      sbs.foldl (fun f x => f ||| x.2) 0, sbs.map (·.2))

/-- The detail words of a routine fault (R202, R366). Behind the eight words of the trap record stand those that only the
record in the save area holds: the first leaf of input 1, the locals, and the accumulator's values or tree nodes. -/
def routineDetail (s : State) (engine handle index leaf : Nat) (nodes : List (List Nat)) (x : RtRun) : List Nat :=
  [Config.freeNat s.fresh, engine + handle * 2 ^ 8 + x.step * 2 ^ 16 + (x.why - 1) * 2 ^ 24 + x.flags * 2 ^ 32, index,
    x.ops.getD 0 0, x.ops.getD 1 0, x.ops.getD 2 0, 0, 0, leaf] ++ x.q ++ nodes.length :: nodes.flatten

/-- Unit k of a copy, from the state it runs in (R240, R241). -/
def cpyUnit (s : State) (p : Op) (k : Nat) : UnitR :=
  let a := p.src
  let b := p.dst
  let rd (l : Nat) : Nat := readElem s p a (a.at l)
  let put (l v : Nat) : UW := .elem (b.at l) v
  match p.tr with
  | 1 =>
    let v := convertElem a.fmt b.fmt (rd k) p.rm (engBits p 1 k) false
    ⟨[put k v.1], v.2, if v.2 &&& p.enb != 0 then some k else none, p.acc, none, false⟩
  | 2 =>
    if b.fmt == 5 then
      let xs := (List.range 16384).map (fun j => fDecode a.fmt (rd (16384 * k + j)))
      let g := qc4Group p.rm xs (fun j => engBits p 1 (16384 * k + j))
      ⟨[.raw (recOff b k) g.1], g.2.1, if g.2.1 &&& p.enb != 0 then some (16384 * k +
        (match xs.findIdx? (fun v => v.isNan || v.isInf) with
          | some j => j
          | none => 64 * (g.2.2.findIdx? (fun f => f &&& p.enb != 0)).getD 0)) else none, p.acc, none, false⟩
    else
      let e0 := a.ext.headD 0
      let (f, q, n) := blockAt e0 k
      let base := f * e0 + 32 * q
      let r := e8Block b.fmt p.rm ((List.range n).map (fun j => some (fDecode a.fmt (rd (base + j)), engBits p 1 (base + j))))
      let l := r.1.map (fun x => x.getD (0, 0))
      let db := f * b.ext.headD 0 + 33 * q
      let fb := laneBad p.enb base l
      ⟨(List.range n).map (fun j => put (db + j) (l.getD j (0, 0)).1) ++ [put (db + 32) r.2.1], fb.1 ||| r.2.2, fb.2,
        p.acc, none, false⟩
  | 3 =>
    -- one element at a time: an overlapping destination shows in later reads (R241)
    let v := if a.fmt == 5 then
        let (o, j) := recAt a k
        let byte (i : Nat) : Nat := (readOff s p a (o + (i : Int))).toNat
        let g := natOf ((List.range 4).map (fun (i : Nat) => readOff s p a (o + (i : Int))))
        qc4Decode b.fmt g (byte (4 + j / 64)) (byte (260 + j / 2) / (if j % 2 == 0 then 1 else 16) % 16) false
      else
        let sc := rd (codeAt p k).2
        if sc == 0xFF then (defaultNan b.fmt, 0)
        else match fDecode a.fmt (rd (codeAt p k).1) with
          | .fin x m e => fConvert b.fmt (.fin x m (e + sc - 127)) 0 0 false
          | v => fConvert b.fmt v 0 0 false
    ⟨[put k v.1], v.2, if v.2 &&& p.enb != 0 then some k else none, p.acc, none, false⟩
  | 4 =>
    let n := min 32 (a.count - 32 * k)
    let ws := (List.range n).map (fun j => rd (32 * k + j))
    let mask := (List.range n).foldl (fun m j => if ws.getD j 0 != 0 then m + 2 ^ j else m) 0
    let recd := mask :: ws.filter (· != 0)
    let pos := p.acc.getD 1 0
    UnitR.ok ((List.range recd.length).map (fun j => put (pos + j) (recd.getD j 0))) (p.acc.set 1 (pos + recd.length))
  | 5 =>
    -- lane k mod 32 of a record; acc 4 holds the record's mask
    let pos := p.acc.getD 0 0
    let j := k % 32
    let n := min 32 (b.count - k)
    let m := if j != 0 then p.acc.getD 4 0 else if pos < a.count then rd pos else 0
    let cnt := ((List.range 32).filter (fun i => m.testBit i)).length
    if j == 0 && (a.count ≤ pos || m / 2 ^ n != 0 || a.count < pos + 1 + cnt) then
      ⟨[], 0, none, p.acc, some (0x0A, [pos, 1, p.word]), true⟩
    else
      let q := if j == 0 then pos + 1 else pos
      let acc := (p.acc.set 0 (if m.testBit j then q + 1 else q)).take 4 ++ [m]
      UnitR.ok [put k (if m.testBit j then rd q else 0)] acc
  | 6 =>
    let e0 := a.ext.getD 0 1
    let e1 := a.ext.getD 1 1
    UnitR.ok [put (k / e0 + e1 * (k % e0)) (rd k)] p.acc
  | 7 =>
    let v := rd k
    -- two .qc4 codes make a byte; acc 4 holds the first plus one
    let crc := p.acc.getD 3 0
    if a.fmt != 5 then UnitR.ok [put k v] (p.acc.set 3 (crcBytes crc (bytesOf a.esize v)))
    else if k % 2 == 0 && k + 1 != p.total then UnitR.ok [put k v] (p.acc.take 4 ++ [v + 1])
    else
      let w := if k % 2 == 0 then v else p.acc.getD 4 1 - 1 + 16 * v
      UnitR.ok [put k v] ((p.acc.set 3 (crcBytes crc (bytesOf 1 w))).take 4)
  | 8 =>
    match p.repl with
    | r :: _ => UnitR.ok [put k (r.2.getD 0 0)] p.acc
    | [] =>
      -- of a routine with two components the text gives an element no second one: its bits are free (log 74)
      let ins := if rtComps p.rtn == 1 then [rd k]
        else [rd k, (Config.freeBits 32 (s.fresh + k)).toNat % 2 ^ tySize (rtF p.rtn 1)]
      let x := rtApply ⟨false, p.enb, false⟩ p.rtn ins
      if x.why != 0 then ⟨[], x.flags, none, p.acc ++ [0], some (8, routineDetail s 2 (p.par.getD 4 0) k 0 [] x), true⟩
      else ⟨[put k (x.q.getD 0 0)], x.flags, none, p.acc, none, false⟩
  | _ => UnitR.ok [put k (rd k)] p.acc

/-- The bits of a copy's injectors on n delivered bytes from position d on: triples of the parameters, each on, WHERE and MASK. -/
def injBits : List Nat → Nat → Nat → Nat
  | on :: w :: m :: r, d, n => (if on == 1 then injXor w m d n else 0) ^^^ injBits r d n
  | _, _, _ => 0

/-- The delivered bytes of a unit as the injectors alter them, and the count delivered (of .qc4 codes, two to a byte). -/
def injWs (p : Op) (ws : List UW) : List UW × Nat :=
  let bits (d n : Nat) : Nat := injBits (p.par.drop 5) d n
  ws.foldl (fun (a : List UW × Nat) w =>
    match w with
    | .elem i v =>
      let n := p.dst.esize
      if p.dst.fmt == 5 then
        (a.1 ++ [.elem i (v ^^^ (bits (a.2 / 2) 1 / (if a.2 % 2 == 0 then 1 else 16) % 16))], a.2 + 1)
      else (a.1 ++ [.elem i (v ^^^ bits a.2 n)], a.2 + n)
    | .elem2 i v => (a.1 ++ [.elem2 i v], a.2)
    | .raw o bs =>
      (a.1 ++ [.raw o ((List.range bs.length).map (fun j => bs.getD j 0 ^^^ BitVec.ofNat 8 (bits (a.2 + j) 1)))],
        a.2 + bs.length)) ([], p.acc.getD 2 0)

/-- Destination bytes a copy writes from unit k on (B of R238). A .cmpz copy has counted its own in `acc`. -/
def cpyBytes (p : Op) (k : Nat) : Nat :=
  let a := p.src
  let b := p.dst
  match p.tr with
  | 2 => if b.fmt == 5 then a.count / 16384 * 8452 else a.count + cpyTotal 2 a b
  | 4 => p.acc.getD 2 0
  | _ => if b.fmt == 5 then (b.count - k + 1) / 2 else (b.count - k) * b.esize

/-- Must every write wait until no enabled flag can come? -/
def cpyHolds (p : Op) : Bool := p.enb != 0 && (p.tr == 1 || p.tr == 2 || p.tr == 3)

/-! ### Issue and departure (R238) -/

/-- Board order: T, then issue. -/
def boardInsert (s : State) (o t : Nat) : List Nat → List Nat
  | [] => [o]
  | q :: r => match tfind s.ops q with
    | some x => if t < x.tick then o :: q :: r else q :: boardInsert s o t r
    | none => q :: boardInsert s o t r

/-- Issue of a CPY: it enters the departure board (R237, R238). -/
def cpyAct (bd bs xt tr ch cmp rm : Nat) : Act := fun s =>
  let n := s.me
  match s.b n bs, s.b n bd with
  | some a, some b =>
    let t := (s.x n xt).toNat
    let w := if cmp == 1 || tr == 8 then s.x n (xt + 1) else 0
    let d := if t ≤ s.ctime then s.cycle + 1 else s.cycle + (t - s.ctime)
    -- a departure that lies ahead is a tick of CTIME, whatever an MTS makes of it (R238, R309)
    let held := forkBlocked s n
    let seq := s.sr n srRBSEQ
    let p : Op := { mkOp s .cpy [a, b] [tr, ch, cmp, wbits w 0 32, wbits w 32 6, 0, 0, 0] with
      tick := t
      start := if t ≤ s.ctime then d else 0
      rm := rm
      seq := seq.toNat
      total := cpyTotal tr a b
      acc := [0, 0, 0, 0xFFFFFFFF]
      rtn := if tr == 8 then routineOf s (s.core n).ctx (wbits w 32 6) else []
      phase := if held then 9 else 0 }
    [.newOp p, .core n (fun c => { c with board := boardInsert s s.nid t c.board })] ++
    (if rm == 4 then [.sr n srRBSEQ (seq + 1)] else []) ++
    (if b.tier == 5 then escapeU (s.core n).task else []) ++
    (if held then [] else [postU d 2 (.cpyDeparture s.nid)])
  | _, _ => []

/-- A copy whose destination or source cannot be reached faults as a whole (R236, R356, R414). -/
def cpyBar (s : State) (p : Op) : Option Flt :=
  let a := p.src
  let b := p.dst
  let t5 (j : Nat) (x : Box) : Option Flt :=
    if x.tier != 5 then none
    else
      let r := routeOf s (memberOf x.home)
      if !r.1 || (s.port r.2.2).mode != 1 then some (opBoxFlt p 4 j x [] (Xlate.bad 4 0 false 0)) else none
  let broken (x : Box) : Option Flt :=
    (sealBroken s x ((List.range x.count).filterMap (fun l => (x.elemIdx l).map x.span))).map (opFlt p 0x22)
  [boxBar s p 1 a false false, boxBar s p 0 b true false, t5 1 a, t5 0 b, broken a, broken b].findSome? id

/-- Integrity faults also reach the supervisor as an event (R356). -/
def integrityU (f : Flt) : List Upd := if f.cause == 0x22 then [supEvent evIntegrity (f.detail.getD 0 0)] else []

/-- Is the transfer path held by a copy whose end is not yet known: one at fault or running again after one (R203), or a .cmpz
that has not yet counted its bytes? -/
def pathHeld (s : State) (n : Nat) : Bool :=
  s.ops.any (fun e => e.2.core == n && e.2.kind == .cpy && e.2.st == .running && e.2.phase != 3 &&
    (e.2.flt.isSome || e.2.redo || e.2.tend == 0))

/-- Must a chained .crc copy wait for the value of one ahead of it whose source lies at stations (R242; DEDUCED, log 96)? -/
def chainHeld (s : State) (p : Op) : Bool :=
  p.tr == 7 && p.par.getD 1 0 == 1 && s.ops.any (fun e => e.2.core == p.core && e.2.kind == .cpy && e.2.st == .running &&
    e.2.phase != 3 && e.2.tr == 7 && e.2.src.remote (e.2.view s))

/-- The end of a transfer of B bytes that began at a cycle, its events and the path (R238, R239). -/
def cpyEnds (o : Nat) (p : Op) (sCy bytes : Nat) : Act := fun s =>
  let te := sCy + 4 + (bytes + 63) / 64
  let rem := p.src.remote s || p.dst.remote s
  let fin := te + transit s p.src p.dst
  [.core p.core (fun c => { c with xferFree := te }),
    .op o (fun p => { p with tend := te, fin := if rem then 0 else fin }), .fresh, postU te 1 (.cpyTransferEnd o)] ++
  (if rem then [] else [postU fin 2 (.cpyCompletion o)])

/-- Start the transfer of a departed copy. Its phase: 3 waits for the path, 4 launched, 5 moving. A .cmpz copy between
scratchpads counts its bytes as it reads them, when its transfer begins. -/
def cpyLaunch (o : Nat) : Act := viewA o fun s =>
  match tfind s.ops o with
  | none => []
  | some p =>
    let sCy := max s.cycle (s.core p.core).xferFree
    seqA [
      pureA [.op o (fun p => { p with phase := 4, start := sCy, sendAt := sCy }), postU sCy 1 (.engineOpStart o)],
      whenA (fun _ => p.tr != 4) (cpyEnds o p sCy (cpyBytes p 0))] s

/-- Departed copies that wait for the path, in order of departure, start as far as it is free. -/
def cpyFree (n : Nat) : Act := fun s =>
  let l := (s.ops.filter (fun e => e.2.core == n && e.2.kind == .cpy && e.2.st == .running && e.2.phase == 3))
  let sorted := l.foldl (fun (a : List (Nat × Nat)) e => a.filter (fun x => x.1 ≤ e.2.fin) ++ [(e.2.fin, e.1)] ++
    a.filter (fun x => e.2.fin < x.1)) []
  -- none overtakes another
  let next (s : State) (o : Nat) : Bool := ((sorted.find? (fun e => ((tfind s.ops e.2).map (·.phase)) == some 3)).map (·.2)) == some o
  forA sorted (fun e => whenA (fun s => next s e.2 && !pathHeld s n && !((tfind s.ops e.2).any (chainHeld s)))
    (cpyLaunch e.2)) s

/-- The cycle at which a waiting copy is due: the one fixed at its issue, or that of its departure tick (R238). -/
def Op.dueAt (s : State) (p : Op) : Nat :=
  if p.start != 0 then p.start else if p.tick ≤ s.ctime then s.cycle else s.cycle + (p.tick - s.ctime)

/-- Departures of waiting copies are timed anew as CTIME steps (R238, R309). -/
def cpyRedue : Act := fun s => (s.ops.filter (fun e => e.2.kind == .cpy && e.2.st == .waiting && e.2.phase != 9)).map
  (fun e => postU (e.2.dueAt s) 2 (.cpyDeparture e.1))

/-- CPY_DEPARTURE: the first due entry of the board departs; its transfer is scheduled (R238, R409). -/
def cpyDepartureAct (o : Nat) : Act := fun s =>
  match tfind s.ops o with
  | none => []
  | some p =>
    let n := p.core
    let c := s.core n
    if p.st != .waiting || p.phase == 9 || !c.board.contains o then []
    else if s.cycle < p.dueAt s then [postU (p.dueAt s) 2 (.cpyDeparture o)]
    else
      let first := c.board.find? (fun q => match tfind s.ops q with
        | some x => x.dueAt s ≤ s.cycle && x.phase != 9
        | none => false)
      if first != some o || s.cycle < c.depFree then [postU (s.cycle + 1) 2 (.cpyDeparture o)]
      else
        let off : List Upd := [.core n (fun c => { c with board := c.board.filter (· != o), depFree := s.cycle + 1 })]
        match cpyBar s p with
        | some f => seqA [pureA (off ++ [.delOp o] ++ integrityU f), opTrap p s.cycle f] s
        | none => seqA [
            pureA (off ++ [.op o (fun p => { p.mapped s with st := .running, phase := 3, fin := s.cycle })] ++
              (let js := injectorsOf s 4 n
                if js.isEmpty then []
                else js.map (fun j => Upd.dev (fun d => { d with
                    sr := tput d.sr (0x140 + 4 * j) (tget 0 d.sr (0x140 + 4 * j) &&& ~~~(1#64 <<< 63)) })) ++
                  [.op o (fun p => { p with par := (p.par.take 5) ++ js.flatMap (fun j =>
                    [1, (s.dsr (0x141 + 4 * j)).toNat, (s.dsr (0x142 + 4 * j)).toNat]) })])),
            cpyFree n] s

/-- CPY (R237). -/
def execCpy (bd bs xt tr ch cmp asap rm : Nat) (s : State) : Host.Outcome State Fault Refusal :=
  done (checked (cpyLegal bd bs xt tr cmp) (cpyFault bd bs xt asap) (cpyAct bd bs xt tr ch cmp rm)) s
/-- CPY_DEPARTURE (R238). -/
def execCpyDeparture (o : Nat) (s : State) : Host.Outcome State Fault Refusal := done (cpyDepartureAct o) s

end Sys2Proof.Machine
end

