-- ==== Sys2Proof/Machine/Turn.lean ====
section
/-! DEFINITION. GATH and SCAC (R243 to R246): the gather engine and the turntable. -/

namespace Sys2Proof.Machine

/-! ### GATH: boxes [destination, source, index] -/

def gathLegal (bd bs bi : Nat) : State → Option Flt := fun s => reasonIf s [
  ([bd, bs, bi].any (fun k => s.boxHas k (fun b => b.tier != 1 || b.fmt == 5)) || s.boxHas bi (fun i => i.fmt != 8) ||
    s.boxHas bd (fun b => s.boxHas bs (fun a => b.fmt != a.fmt) || s.boxHas bi (fun i => b.count != i.count)), 0xB)]

/-- An index fault: the box register, the position and the index read (R366). -/
def indexDetail (p : Op) (j : Nat) (b : Box) (pos idx : Nat) : List Nat :=
  [opReg p j, wordOp p.slot p.word + b.tier * 2 ^ 16, pos % 2 ^ 32 + idx % 2 ^ 32 * 2 ^ 32, 0, 0, 0,
    p.word, p.start]

/-- Index position k. -/
def gathUnit (s : State) (p : Op) (k : Nat) : UnitR :=
  let b := p.boxes.getD 0 p.src
  let a := p.boxes.getD 1 b
  let i := p.boxes.getD 2 b
  let raw := readElem s p i (i.at k)
  match a.linear (sextOf 32 raw) with
  | .fault => ⟨[], 0, none, [], some (3, indexDetail p 1 a k raw), true⟩
  | .zero => UnitR.ok [.elem (b.at k) 0] []
  | .elem e => UnitR.ok [.elem (b.at k) (readElem s p a e)] []

def gathAct (bd bs bi : Nat) : Act := fun s =>
  let n := s.me
  match s.b n bd, s.b n bs, s.b n bi with
  | some b, some a, some i => enqueue { mkOp s .gath [b, a, i] [] with total := i.count } 1 s
  | _, _, _ => []

/-- GATH (R243). -/
def execGath (bd bs bi : Nat) (s : State) : Host.Outcome State Fault Refusal :=
  done (checked (gathLegal bd bs bi)
    (andThen (rightsBar [(bs, true, false), (bi, true, false), (bd, false, true)]) (loanBar [bs, bi, bd]))
    (gathAct bd bs bi)) s

/-! ### SCAC: boxes [home, index, value, result]; par [operation, bin, routine handle] -/

/-- The routine a SCAC may name: arity two, one component, both inputs of the home's format (R189, R244). -/
def scacRoutineOk (r : List Nat) : Bool := routineOk r 16 true && routinePair r && rtComps r == 1

def scacLegal (bh bi bv r op bin : Nat) : State → Option Flt := fun s =>
  let rt := routineOf s (s.core s.me).ctx r
  let swap := op == 3 || op == 4
  reasonIf s [
    (s.boxHas bh (fun h => 3 < h.tier || h.fmt == 5 || (bin == 1 && h.fmt != 0)) ||
      s.boxHas bi (fun i => i.tier != 1 || i.rank != 1 || i.fmt != 8) ||
      s.boxHas bv (fun v => v.tier != 1 || v.fmt == 5 || (if op == 4 then v.rank != 2 || v.ext.headD 0 != 2 else v.rank != 1) ||
        (bin == 1 && (2 < v.fmt || 2 ^ 31 < v.count)) ||
        s.boxHas bi (fun i => v.count != (if op == 4 then 2 * i.count else i.count)) ||
        (bin == 0 && s.boxHas bh (fun h => v.fmt != h.fmt))) ||
      (swap && s.boxHas (r / 4) (fun x => x.tier != 1 || s.boxHas bh (fun h => x.fmt != h.fmt))), 0xB),
    (op == 5 && (!scacRoutineOk rt || s.boxHas bh (fun h => h.fmt != rtF rt 0)), 0xC)]

/-- A home as it is kept in working values. -/
def encIdx (i : Int) : Nat := (i + 2 ^ 44).toNat
def decIdx (n : Nat) : Int := (n : Int) - 2 ^ 44

/-- Index position k resolved in the home box, with the index read. -/
def scacHome (s : State) (p : Op) (k : Nat) : Hit × Nat :=
  let h := p.boxes.getD 0 p.src
  let i := p.boxes.getD 1 h
  let raw := readElem s p i (i.at k)
  (h.linear (sextOf 32 raw), raw)

/-- The value of position k, and for cas the new value. -/
def scacVal (s : State) (p : Op) (k : Nat) : Nat × Nat :=
  let v := p.boxes.getD 2 p.src
  if p.par.getD 0 0 == 4 then (readElem s p v (v.at (2 * k)), readElem s p v (v.at (2 * k + 1)))
  else (readElem s p v (v.at k), 0)

/-- Does an operator code name xchg or cas, which apply every position singly and return old values? -/
def Op.swaps (p : Op) : Bool := p.par.getD 0 0 == 3 || p.par.getD 0 0 == 4

/-- Element k of the result box, by the box's own mode (R18, R227). -/
def resHit (p : Op) (k : Nat) : Hit := (p.boxes.getD 3 p.src).linear k

/-- The write of an old value to the result box; ZERO drops one outside it. -/
def resWs (p : Op) (k v : Nat) : List UW := match resHit p k with
  | .elem i => [.elem2 i v]
  | _ => []

/-- A position of the index box whose home ZERO drops, as a working value. -/
def noHome : Int := -(2 ^ 43)

/-- Positions of a window: (home, value, new value, position), or the position and index at fault. -/
def scacWindow (s : State) (p : Op) (lo n : Nat) : Except (Nat × Nat) (List (Int × Nat × Nat × Nat)) :=
  (List.range n).foldl (fun (a : Except (Nat × Nat) (List (Int × Nat × Nat × Nat))) j =>
    match a with
    | .error e => .error e
    | .ok l =>
      let (h, raw) := scacHome s p (lo + j)
      match h with
      | .fault => .error (lo + j, raw)
      | .zero => if p.swaps then (if resHit p (lo + j) == .fault then .error (lo + j, raw) else .ok (l ++ [(noHome, 0, 0, lo + j)]))
          else .ok l
      | .elem e =>
        if p.swaps && resHit p (lo + j) == .fault then .error (lo + j, raw)
        else
          let (x, y) := scacVal s p (lo + j)
          .ok (l ++ [(e, x, y, lo + j)])) (.ok [])

/-- The positions of whole windows that lie before one at fault (R245). -/
def before64 (pos : Nat) (l : List (Int × Nat × Nat × Nat)) : List (Int × Nat × Nat × Nat) :=
  l.filter (fun e => e.2.2.2 < 64 * (pos / 64))

/-- The stop at an index, or at a place of the result box, out of range under FAULT. -/
def scacStop (p : Op) (pos raw : Nat) : Nat × List Nat :=
  let h := p.boxes.getD 0 p.src
  if p.swaps && resHit p pos == .fault then (3, indexDetail p 3 (p.boxes.getD 3 h) pos raw)
  else (3, indexDetail p 0 h pos raw)

/-- One application of the turntable's operator: components, flags and a routine fault (R245). -/
def turnApply (p : Op) (t : Nat) (u v : List Nat) (a : Apps) : List Nat × Apps :=
  if p.par.getD 0 0 == 5 then appNext ⟨false, p.enb, false⟩ p.rtn (u ++ v) a
  else
    let r := combine (p.par.getD 0 0) t (u.headD 0) (v.headD 0)
    ([r.1], { a with flags := a.flags ||| r.2 })

/-- Duplicates of a window merged in index order, in order of first occurrence (R245): home, value, how many positions
it stands for, and the first of them. At a fault `elem` is the position of the right operand. -/
def mergeDup (p : Op) (t : Nat) (l : List (Int × Nat × Nat × Nat)) (a : Apps) : List (Int × Nat × Nat × Nat) × Apps :=
  l.foldl (fun (x : List (Int × Nat × Nat × Nat) × Apps) e =>
    if x.2.flt.isSome then x
    else match x.1.find? (fun y => y.1 == e.1) with
    | none => (x.1 ++ [(e.1, e.2.1, 1, e.2.2.2)], x.2)
    | some y =>
      let r := turnApply p t [y.2.1] [e.2.1] x.2
      if r.2.flt.isSome then (x.1, { r.2 with elem := e.2.2.2 })
      else (x.1.map (fun z => if z.1 == e.1 then (z.1, r.1.headD 0, z.2.2.1 + 1, z.2.2.2) else z), r.2)) ([], a)

/-- The first application after a resumption. -/
def Op.apps (p : Op) : Apps := { Apps.start with skip := p.skip, repl := p.repl }

/-- What a routine fault of a unit comes to: the writes that stand, and `acc` with its partial state, the applications
already run last. -/
def UnitR.faulted (s : State) (engine handle index leaf : Nat) (nodes : List (List Nat)) (ws : List UW) (acc : List Nat)
    (a : Apps) (x : RtRun) : UnitR :=
  ⟨ws, a.flags, none, acc ++ [a.k], some (8, routineDetail s engine handle index leaf nodes x), true⟩

/-- Window entries as working values, and back. -/
def encWin (l : List (Int × Nat × Nat × Nat)) : List Nat := l.flatMap (fun e => [encIdx e.1, e.2.1, e.2.2.1, e.2.2.2])
def decWin : List Nat → List (Int × Nat × Nat × Nat)
  | a :: b :: c :: d :: r => (decIdx a, b, c, d) :: decWin r
  | _ => []

/-- Merged updates of a window; `acc` is empty, or the window as an earlier faulting attempt read it (R203). -/
def scacMerged (s : State) (p : Op) (w n : Nat) : Except UnitR (List (Int × Nat × Nat × Nat) × Apps) :=
  let h := p.boxes.getD 0 p.src
  let read := if p.acc.isEmpty then scacWindow s p (64 * w) (min 64 (n - 64 * w)) else .ok (decWin p.acc)
  match read with
  | .error (pos, raw) => .error ⟨[], 0, none, [], some (scacStop p pos raw), true⟩
  | .ok l =>
    let m := mergeDup p h.fmt l p.apps
    match m.2.flt with
    | some x => .error (UnitR.faulted s 3 (p.par.getD 2 0) m.2.elem 0 m.2.nodes [] (encWin l) m.2 x)
    | none => .ok m

/-- An element of a scratchpad home as the turntable reads it (R218). -/
def turnElem (s : State) (p : Op) (b : Box) (i : Int) : Nat :=
  match b.placeOff s (b.offset i) b.esize true true with
  | .at_ .spad k => b.bitsAt i ((List.range b.esize).map (fun j => p.byteAt s true (k + j)))
  | _ => readElem s p b i

/-- Unit k of a SCAC whose home is a scratchpad. For add, max, min and routine a window is 65 units: the merging, then one
update each. For xchg and cas a unit is a position. With .bin the first N units each read a position and the next N
update one home each; an index at fault leaves the windows before it (R245), and stops the operation at its end. -/
def scacUnit (s : State) (p : Op) (k : Nat) : UnitR :=
  let h := p.boxes.getD 0 p.src
  let n := (p.boxes.getD 1 h).count
  let op := p.par.getD 0 0
  if p.par.getD 1 0 == 1 then
    let l := decWin p.acc
    let stop := l.find? (fun e => e.1 == noHome)
    if k < n then
      if stop.isSome then UnitR.ok [] p.acc
      else match scacHome s p k with
        | (.fault, raw) => UnitR.ok [] (encWin (before64 k l ++ [(noHome, raw, 0, k)]))
        | (.zero, _) => UnitR.ok [] p.acc
        | (.elem e, _) => UnitR.ok [] (p.acc ++ [encIdx e, (scacVal s p k).1, 0, k])
    else
      let homes := ((l.filter (fun e => e.1 != noHome)).map (·.1)).eraseDups
      let now : UnitR := match homes[k - n]? with
        | none => UnitR.ok [] p.acc
        | some e =>
          let v := (p.boxes.getD 2 h).fmt
          let r := binSum (fDecode 0 (turnElem s p h e) :: (l.filter (fun x => x.1 == e)).map (fun x => fDecode v x.2.1))
          ⟨[.elem e r.1], r.2, none, p.acc, none, false⟩
      match stop with
      | some e => if k + 1 == 2 * n then { now with stop := some (scacStop p e.2.2.2 e.2.1) } else now
      | none => now
  else if p.swaps then
    match scacWindow s p k 1 with
    | .error (pos, raw) => ⟨[], 0, none, [], some (scacStop p pos raw), true⟩
    | .ok l =>
      match l with
      | [] => UnitR.ok [] []
      | (e, x, y, _) :: _ =>
        if e == noHome then UnitR.ok (resWs p k 0) []
        else
          let old := turnElem s p h e
          let new := if op == 3 then x else if old == x then y else old
          UnitR.ok (.elem e new :: resWs p k old) []
  else
    let w := k / 65
    let j := k % 65
    if j == 0 then
      match scacMerged s p w n with
      | .error r => r
      | .ok (l, a) => ⟨[], a.flags, none, encWin l, none, false⟩
    else
      match (decWin p.acc)[j - 1]? with
      | none => UnitR.ok [] (if j == 64 then [] else p.acc)
      | some (e, x, _, pos) =>
        let r := turnApply p h.fmt [turnElem s p h e] [x] p.apps
        match r.2.flt with
        | some t => UnitR.faulted s 3 (p.par.getD 2 0) pos 0 [] [] p.acc r.2 t
        | none => ⟨[.elem e (r.1.headD 0)], r.2.flags, none, if j == 64 then [] else p.acc, none, false⟩

/-- Units of a SCAC at a scratchpad home. -/
def scacTotal (op bin n : Nat) : Nat :=
  if bin == 1 then 2 * n else if op == 3 || op == 4 then n else 65 * ((n + 63) / 64)

/-! Homes at T2 or T3: one request for each column of a window (R415). -/

/-- Sixteen bytes an update travels in: address in the vault, value, new value, position. -/
def encUpd (a x y k : Nat) : List Byte := bytesOf 4 a ++ bytesOf 4 x ++ bytesOf 4 y ++ bytesOf 4 k
def decUpd : Nat → List Byte → List (Nat × Nat × Nat × Nat)
  | 0, _ => []
  | n + 1, l => (natOf (l.take 4), natOf ((l.drop 4).take 4), natOf ((l.drop 8).take 4), natOf ((l.drop 12).take 4)) ::
      decUpd n (l.drop 16)

/-- Updates grouped by column, in order of first occurrence: one request each. -/
def byColumn (l : List (Nat × Nat × Nat × Nat)) : List WRun :=
  ((l.map (fun e => e.1 / 64)).eraseDups).map (fun c =>
    let g := l.filter (fun e => e.1 / 64 == c)
    ⟨64 * c, (g.headD (0, 0, 0, 0)).2.2.2, 0, g.flatMap (fun e => encUpd (e.1 % 2 ^ 31) e.2.1 e.2.2.1 e.2.2.2)⟩)

/-- Key of a home element at a station. -/
def homeKey (s : State) (h : Box) (e : Int) : Option Nat :=
  match h.placeOff s (h.offset e) h.esize true true with
  | .at_ .dram k => some k
  | _ => none

/-- What a window of a SCAC at stations comes to: its requests, the positions that only return zero, flags, and a stop behind
them. -/
structure FarWin where
  runs : List WRun
  zeros : List Nat
  flags : Nat
  stop : Option (Nat × List Nat)
  deriving DecidableEq, Repr

/-- Window w of a SCAC at stations, or its stop where nothing of it is applied. A position ZERO drops only returns zero. -/
def scacFarWindow (s : State) (p : Op) (w : Nat) : Except UnitR FarWin :=
  let h := p.boxes.getD 0 p.src
  let n := (p.boxes.getD 1 h).count
  let keyed (l : List (Int × Nat × Nat × Nat)) : List (Nat × Nat × Nat × Nat) :=
    l.filterMap (fun e => (homeKey s h e.1).map (fun k => (k, e.2)))
  let win (l : List (Int × Nat × Nat × Nat)) (stop : Option (Nat × List Nat)) : FarWin :=
    ⟨byColumn (keyed (l.filter (fun e => e.1 != noHome))),
      (l.filter (fun e => e.1 == noHome)).map (fun e => e.2.2.2), 0, stop⟩
  -- positions from lo on; those before one at fault stand, of .bin only whole windows (R245)
  let upTo (lo m : Nat) (whole : Bool) : FarWin :=
    match scacWindow s p lo m with
    | .ok l => win l none
    | .error e =>
      match scacWindow s p lo (e.1 - lo) with
      | .ok l => win (if whole then before64 e.1 l else l) (some (scacStop p e.1 e.2))
      | .error _ => win [] (some (scacStop p e.1 e.2))
  if p.par.getD 1 0 == 1 then .ok (upTo 0 n true)
  else if p.swaps then .ok (upTo (64 * w) (min 64 (n - 64 * w)) false)
  else
    match scacMerged s p w n with
    | .error r => .error r
    | .ok (l, a) => .ok ⟨byColumn (keyed (l.map (fun e => (e.1, e.2.1, 0, e.2.2.2)))), [], a.flags, none⟩

/-- Windows of a SCAC at stations. -/
def scacWindows (p : Op) : Nat :=
  let n := (p.boxes.getD 1 p.src).count
  if p.par.getD 1 0 == 1 then 1 else (n + 63) / 64

/-- Where a replacement result for an update at a station is listed: behind those of merging (R203). -/
def atStation (pos : Nat) : Nat := 2 ^ 32 + pos

/-- Is an operation stopped by a routine fault at a station? Its updates not yet applied wait for the resumption. -/
def Op.stopped (p : Op) : Bool := 2 ^ 32 ≤ p.skip && p.flt.isSome

/-- The update of one element at its station: the new value, flags, and a routine fault. -/
def stationUpdate (p : Op) (old : Nat) (l : List (Nat × Nat × Nat × Nat)) : Nat × Nat × Option RtRun :=
  let h := p.boxes.getD 0 p.src
  let op := p.par.getD 0 0
  if p.par.getD 1 0 == 1 then
    let v := (p.boxes.getD 2 h).fmt
    let r := binSum (fDecode 0 old :: l.map (fun x => fDecode v (x.2.1 % 2 ^ tySize v)))
    (r.1, r.2, none)
  else match l with
    | [] => (old, 0, none)
    | e :: _ =>
      if op == 3 then (e.2.1, 0, none)
      else if op == 4 then (if old == e.2.1 then e.2.2.1 else old, 0, none)
      else match tfind p.repl (atStation e.2.2.2) with
        | some v => (v.headD old, 0, none)
        | none =>
          let r := turnApply p h.fmt [old] [e.2.1] Apps.start
          (r.1.headD old, r.2.flags, r.2.flt)

/-- Updates of a request that wait for a resumption, in order of their elements. -/
def putBack (v : Nat) (l : List (Nat × Nat × Nat × Nat)) (outs : List WRun) : List WRun :=
  let new := byColumn (l.map (fun e => (vkey v e.1, e.2)))
  let first := (new.map (·.elem)).headD 0
  outs.takeWhile (fun r => r.elem < first) ++ new ++ outs.dropWhile (fun r => r.elem < first)

/-- Where the update of a home element is performed (R233). -/
def turnKey (s : State) (h : Box) (v a : Nat) : Nat := if h.tier == 3 then backKey s (vkey v a) else vkey v a

/-- The write of a station's turntable: an element of the home, of a .qc4 home half a byte. -/
def stationWrite (p : Op) (h : Box) (v a pos new : Nat) : Act := fun s =>
  let i := match (scacHome s p pos).1 with
    | .elem i => i
    | _ => 0
  let k := turnKey s h v a
  storeU (some p.task) .dram k (h.bytesFor s i .dram k new) s

/-- An element at its station. -/
def stationRead (s : State) (p : Op) (h : Box) (v a pos : Nat) : Nat :=
  let i := match (scacHome s p pos).1 with
    | .elem i => i
    | _ => 0
  h.bitsAt i (memGets s.dram (turnKey s h v a) h.esize)

/-- A turntable request performed (R218, R415): its updates in order. A routine fault stops the operation: no later
application runs, and the updates from it on wait (R202, R203). -/
def stationPerform (o v : Nat) : List (Nat × Nat × Nat × Nat) → Act
  | [] => fun _ => []
  | e :: r => fun s =>
    match tfind s.ops o with
    | none => []
    | some p =>
      if p.stopped then [.op o (fun q => { q with outs := putBack v (e :: r) q.outs })]
      else
        let h := p.boxes.getD 0 p.src
        let bin := p.par.getD 1 0 == 1
        let same := if bin then e :: r.filter (fun x => x.1 == e.1) else [e]
        let first := !(bin && p.acc.contains (vkey v e.1))
        let u := stationUpdate p (stationRead s p h v e.1 e.2.2.2) same
        match u.2.2 with
        | some x => [.op o (fun q => { q with
            -- of an operation that a full queue already stopped, the vault-busy fault is the one reported (R23)
            flt := if q.busy.isSome then q.flt
              else some (opFlt p 8 (routineDetail s 3 (p.par.getD 2 0) e.2.2.2 0 [] x))
            flags := q.flags ||| u.2.1
            skip := atStation e.2.2.2
            outs := putBack v (e :: r) q.outs })]
        | none => seqA [
            if first then seqA [stationWrite p h v e.1 e.2.2.2 u.1,
              pureA [.op o (fun q => { q with
                flags := q.flags ||| u.2.1
                acc := if bin then q.acc ++ [vkey v e.1] else q.acc })]] else pureA [],
            stationPerform o v r] s

/-- Positions of xchg and cas, each with the old value it sees. -/
def stationSwap (o v : Nat) : List (Nat × Nat × Nat × Nat) → List Byte → State → List Upd × List Byte
  | [], out, _ => ([], out)
  | e :: r, out, s =>
    match tfind s.ops o with
    | none => ([], out)
    | some p =>
      let h := p.boxes.getD 0 p.src
      let old := stationRead s p h v e.1 e.2.2.2
      let u := stationUpdate p old [e]
      let now := stationWrite p h v e.1 e.2.2.2 u.1 s
      let rest := stationSwap o v r (out ++ encUpd e.1 0 old e.2.2.2) (applyAll now s)
      (now ++ rest.1, rest.2)

def scacAct (bh bi bv r op bin : Nat) : Act := fun s =>
  let n := s.me
  match s.b n bh, s.b n bi, s.b n bv with
  | some h, some i, some v =>
    let res := if op == 3 || op == 4 then (s.b n (r / 4)).toList else []
    let far := h.tier != 1
    let p : Op := { mkOp s .scac ([h, i, v] ++ res) [op, bin, r] with
      rtn := if op == 5 then routineOf s (s.core n).ctx r else [] }
    (if h.tier == 3 && h.home != 63 then escapeU (s.core n).task else []) ++
    enqueue { p with total := if far then scacWindows p else scacTotal op bin i.count } 1 s
  | _, _, _ => []

/-- Index positions not yet applied, at a scratchpad home. -/
def scacLeft (p : Op) : Nat :=
  let n := (p.boxes.getD 1 p.src).count
  if p.par.getD 1 0 == 1 || p.swaps then n
  else
    let w := p.next / 65
    let j := p.next % 65
    if j == 0 then n - 64 * w
    else ((decWin p.acc).drop (j - 1)).foldl (fun a e => a + e.2.2.1) 0 + (n - 64 * (w + 1))

/-- Cycles from start to completion at a scratchpad home, for the positions not yet applied (R203, R245). -/
def scacTime (s : State) (p : Op) : Nat :=
  let h := p.boxes.getD 0 p.src
  let v := p.boxes.getD 2 h
  let n := scacLeft p
  let away := if h.home == p.core then 0 else transit s { v with home := p.core } h
  8 + n + 4 * ((n + 63) / 64) + (if p.swaps then 2 * away else away)

/-- SCAC (R244). -/
def execScac (bh bi bv r op bin : Nat) (s : State) : Host.Outcome State Fault Refusal :=
  done (checked (scacLegal bh bi bv r op bin)
    (andThen (rightsBar ([(bh, true, true), (bi, true, false), (bv, true, false)] ++
      (if op == 3 || op == 4 then [(r / 4, false, true)] else [])))
      (loanBar ([bh, bi, bv] ++ (if op == 3 || op == 4 then [r / 4] else []))))
    (scacAct bh bi bv r op bin)) s

end Sys2Proof.Machine
end

