-- ==== Sys2Proof/Machine/Fold.lean ====
section
/-! DEFINITION. FOLD, SCAN and ZIP (R190 to R203) on the routine datapaths.
Boxes are [destination, source, second source or carry]; par [DIM, VU, BIN or EXCL, CARRY, handle]. -/

namespace Sys2Proof.Machine

/-! ### Fibers (R192) -/

/-- Coordinates of position i of fiber f, component c of dimension 0 for two components. -/
def fiberCoords (dim : Nat) (two : Bool) : List Nat → Nat → Nat → Nat → Nat → List Int
  | [], _, _, _, _ => []
  | e :: r, k, f, i, c =>
    if k == dim then (i : Int) :: fiberCoords dim two r (k + 1) f i c
    else if two && k == 0 then (c : Int) :: fiberCoords dim two r (k + 1) f i c
    else ((f % e : Nat) : Int) :: fiberCoords dim two r (k + 1) (f / e) i c

/-- Number of fibers. -/
def fiberCount (ext : List Nat) (dim : Nat) (two : Bool) : Nat :=
  ((List.range ext.length).filter (fun k => k != dim && !(two && k == 0))).foldl (fun a k => a * ext.getD k 1) 1

/-- Element index at coordinates. -/
def Box.atC (b : Box) (cs : List Int) : Int := match b.resolve cs with
  | .elem i => i
  | _ => b.idx

/-- Components an element has. -/
def Op.comps (p : Op) : Nat := if p.rtn.isEmpty then 1 else rtComps p.rtn

/-- Components of position i of fiber f of a box. -/
def fiberElem (s : State) (p : Op) (b : Box) (f i : Nat) : List Nat :=
  let two := p.comps == 2
  (List.range p.comps).map (fun c => readElem s p b (b.atC (fiberCoords (p.par.getD 0 0) two b.ext 0 f i c)))

/-- Writes of the components of position i of fiber f of the destination. -/
def fiberPut (p : Op) (b : Box) (f i : Nat) (v : List Nat) : List UW :=
  let two := p.comps == 2
  (List.range p.comps).map (fun c => .elem (b.atC (fiberCoords (p.par.getD 0 0) two b.ext 0 f i c)) (v.getD c 0))

/-- A flat list of components by element. -/
def chunk (n : Nat) : Nat → List Nat → List (List Nat)
  | 0, _ => []
  | k + 1, l => l.take n :: chunk n k (l.drop n)

/-! ### The trees (R197) -/

/-- The vector routine path reads FTZ at issue, kept in `rm` (R187). -/
def rtEnv (p : Op) : RtEnv := ⟨p.rm == 1, p.enb, false⟩

/-- The reduction of elements by the engine of an operation. -/
def reduceBy (p : Op) (xs : List (List Nat)) (a : Apps) : List Nat × Apps :=
  if p.par.getD 1 0 == 1 then foldSeq (rtComb (rtEnv p) p.rtn) (xs.headD []) xs.tail a
  else foldTree (rtComb (rtEnv p) p.rtn) (xs.length + 1) xs a

/-- Prefixes 0 to n of a fiber that a SCAN writes, up to the first fault; with `carry` the last is the carry's new value. -/
def scanSerial (p : Op) (excl : Bool) : List (List Nat) → Option (List Nat) → Apps → List (List Nat) →
    List (List Nat) × Apps
  | [], acc, a, out => (out ++ (match acc with
      | some v => [v]
      | none => []), a)
  | x :: r, acc, a, out =>
    if excl && r.isEmpty && p.par.getD 3 0 == 0 then (out ++ [acc.getD (rtIdent p.rtn)], a)
    else
      let t := match acc with
        | none => (x, a)
        | some v => rtComb (rtEnv p) p.rtn v x a
      if t.2.flt.isSome then (if excl then out ++ [acc.getD (rtIdent p.rtn)] else out, t.2)
      else scanSerial p excl r (some t.1) t.2 (out ++ [if excl then acc.getD (rtIdent p.rtn) else t.1])

/-- The copy engine's prefixes: each is its own tree, then the carry on the left. -/
def scanTrees (p : Op) (excl : Bool) (xs : List (List Nat)) (carry : Option (List Nat)) :
    Nat → Nat → Apps → List (List Nat) → List (List Nat) × Apps
  | 0, _, a, out => (out, a)
  | n + 1, i, a, out =>
    -- prefix i covers the first q elements; the one past the last is the carry's
    let last := xs.length ≤ i
    let q := if last then xs.length else if excl then i else i + 1
    let t := if q == 0 then (carry.getD (rtIdent p.rtn), a)
      else
        let u := reduceBy p (xs.take q) a
        if u.2.flt.isSome then u
        else match carry with
          | some c => rtComb (rtEnv p) p.rtn c u.1 u.2
          | none => u
    if t.2.flt.isSome then (out, t.2) else scanTrees p excl xs carry n (i + 1) t.2 (out ++ [t.1])

/-- First leaf of input 1 of application k of the copy engine's prefixes from i on (R202), on fuel. -/
def scanLeaf (excl carry : Bool) (n : Nat) : Nat → Nat → Nat → Nat
  | 0, _, _ => 0
  | f + 1, i, k =>
    let q := if n ≤ i then n else if excl then i else i + 1
    let m := if q == 0 then 0 else q - 1 + (if carry then 1 else 0)
    if k < m then (if k < q - 1 then leafOf (q + 1) 0 q k else 0) else scanLeaf excl carry n f (i + 1) (k - m)

/-- The partial state of a fiber's record: the accumulator, or the tree nodes completed (R202). -/
def fiberNodes (p : Op) (first : List Nat) (a : Apps) : List (List Nat) :=
  if p.par.getD 1 0 == 1 then [a.nodes.getLastD first] else a.nodes

/-- What a SCAN makes of a fiber: its prefixes, then the carry's new value. -/
def scanFiber (p : Op) (xs : List (List Nat)) (carry : Option (List Nat)) : List (List Nat) × Apps :=
  let excl := p.par.getD 2 0 == 1
  if p.par.getD 1 0 == 1 then scanSerial p excl xs carry p.apps []
  else scanTrees p excl xs carry (xs.length + if carry.isSome then 1 else 0) 0 p.apps []

/-! ### Units: each element of a fiber is read, then each result is written -/

/-- Shape of a FOLD or SCAN: fibers and their length. -/
def Op.fibers (p : Op) : Nat × Nat :=
  let a := p.boxes.getD 1 p.src
  (fiberCount a.ext (p.par.getD 0 0) (p.comps == 2), a.ext.getD (p.par.getD 0 0) 1)

def foldUnit (s : State) (p : Op) (k : Nat) : UnitR :=
  let b := p.boxes.getD 0 p.src
  let a := p.boxes.getD 1 b
  let (_, n) := p.fibers
  let f := k / (n + 1)
  let i := k % (n + 1)
  if i < n then UnitR.ok [] (p.acc ++ fiberElem s p a f i)
  else if p.par.getD 2 0 == 1 then
    let r := binSum (p.acc.map (fDecode a.fmt))
    ⟨fiberPut p b f 0 [r.1], r.2, if r.2 &&& p.enb != 0 then some f else none, [], none, false⟩
  else
    let xs := chunk p.comps n p.acc
    let r := reduceBy p xs p.apps
    match r.2.flt with
    | some x =>
      let vu := p.par.getD 1 0 == 1
      UnitR.faulted s (if vu then 0 else 1) (p.par.getD 4 0) f (if vu then r.2.k + 1 else leafOf (n + 1) 0 n r.2.k)
        (fiberNodes p (xs.headD []) r.2) [] p.acc r.2 x
    | none => ⟨fiberPut p b f 0 r.1, r.2.flags, none, [], none, false⟩

def scanUnit (s : State) (p : Op) (k : Nat) : UnitR :=
  let b := p.boxes.getD 0 p.src
  let a := p.boxes.getD 1 b
  let cb := p.boxes.getD 2 b
  let (m, n) := p.fibers
  let c := p.comps
  let carry := p.par.getD 3 0 == 1
  -- with CARRY the working values begin with the new carries of the fibers done
  let base := if carry then c * (min m (k / (2 * n))) else 0
  if m * (2 * n) ≤ k then
    let f := k - m * (2 * n)
    UnitR.ok ((List.range c).map (fun j => .elem2 (cb.atC (fiberCoords (p.par.getD 0 0) (c == 2) cb.ext 0 f 0 j))
      (p.acc.getD (c * f + j) 0))) p.acc
  else
    let f := k / (2 * n)
    let i := k % (2 * n)
    if i < n then
      UnitR.ok [] (p.acc ++ (if i == 0 && carry then fiberElem s p cb f 0 else []) ++ fiberElem s p a f i)
    else
      let cur := p.acc.drop base
      if i == n then
        let cv := if carry then some (cur.take c) else none
        let xs := chunk c n (if carry then cur.drop c else cur)
        let r := scanFiber p xs cv
        match r.2.flt with
        | some x =>
          let vu := p.par.getD 1 0 == 1
          UnitR.faulted s (if vu then 0 else 1) (p.par.getD 4 0) f
            (if vu then (if carry then r.2.k else r.2.k + 1) else scanLeaf (p.par.getD 2 0 == 1) carry n (n + 2) 0 r.2.k)
            (fiberNodes p (cv.getD (xs.headD [])) r.2)
            ((List.range (min r.1.length n)).flatMap (fun j => fiberPut p b f j (r.1.getD j []))) p.acc r.2 x
        | none =>
          let outs := (r.1.take n).flatten
          let new := if carry then (r.1.getD n []) else []
          -- results follow the carries; the last result of the fiber drops them
          ⟨fiberPut p b f 0 (r.1.getD 0 []), r.2.flags, none,
            p.acc.take base ++ new ++ (if n == 1 then [] else outs), none, false⟩
      else
        let keep := if carry then base + c else base
        let outs := p.acc.drop keep
        let j := i - n
        ⟨fiberPut p b f j ((outs.drop (c * j)).take c), 0, none, if j + 1 == n then p.acc.take keep else p.acc, none, false⟩

/-- Elements of a ZIP. -/
def zipCount (p : Op) : Nat := (p.boxes.getD 1 p.src).count / p.comps

def zipUnit (s : State) (p : Op) (k : Nat) : UnitR :=
  let d := p.boxes.getD 0 p.src
  let a := p.boxes.getD 1 d
  let e := zipCount p
  let c := p.comps
  let two := p.boxes.length == 3
  let rd (x : Box) (l : Nat) : List Nat := (List.range c).map (fun j => readElem s p x (x.at (c * l + j)))
  if k < e then UnitR.ok [] (p.acc ++ rd a k ++ (if two then rd (p.boxes.getD 2 d) k else []))
  else
    let w := if two then 2 * c else c
    let put (v : List Nat) : List UW := (List.range c).map (fun j => .elem (d.at (c * (k - e) + j)) (v.getD j 0))
    let r := appNext (rtEnv p) p.rtn ((p.acc.drop (w * (k - e))).take w) p.apps
    match r.2.flt with
    | some x => UnitR.faulted s (if p.par.getD 1 0 == 1 then 0 else 1) (p.par.getD 4 0) (k - e) 0 [] [] p.acc r.2 x
    | none => ⟨put r.1, r.2.flags, none, p.acc, none, false⟩

/-! ### Timing (R198): cycles from the start for fibers `m0` on, or for elements from `e0` on -/

def foldTime (p : Op) (m0 : Nat) : Nat :=
  let (mm, n) := p.fibers
  let m := mm - m0
  let l := rtLen p.rtn
  if p.par.getD 1 0 == 1 then 4 + m + m * (n - 1) * l
  else if p.par.getD 2 0 == 1 then 8 + 2 * (m * n)
  else 6 + m * (n + l * clog2 n)

def scanTime (p : Op) (m0 : Nat) : Nat :=
  let (mm, n) := p.fibers
  let m := mm - m0
  let l := rtLen p.rtn
  let carry := p.par.getD 3 0 == 1
  if p.par.getD 1 0 == 1 then
    if carry then 4 + (m * n + m) + m * n * l
    else 4 + m * n + m * (if p.par.getD 2 0 == 1 then n - 2 else n - 1) * l
  else 6 + m * (2 * n + l * (clog2 n + if carry then 1 else 0))

def zipTime (p : Op) (e0 : Nat) : Nat :=
  let e := zipCount p - e0
  let l := rtLen p.rtn
  if p.par.getD 1 0 == 1 then 4 + e + e * l else 6 + e + l

/-! ### Issue -/

/-- Destination extents against the source's (R191). -/
def fiberShape (a b : Box) (dim : Nat) (one : Bool) : Bool :=
  a.tier == 1 && b.tier == 1 && a.rank == b.rank && dim < a.rank &&
    (List.range a.rank).all (fun k => b.ext.getD k 0 == if k == dim && one then 1 else a.ext.getD k 0)

/-- Two components lie along dimension 0 (R191). -/
def compShape (r : List Nat) (a : Box) (dim : Nat) : Bool := rtComps r == 1 || (a.ext.headD 0 == 2 && dim != 0)
/-- Do the components of input j have a box's format? -/
def compFmt (r : List Nat) (j : Nat) (b : Box) : Bool :=
  b.fmt == rtF r (2 * j) && (rtComps r == 1 || b.fmt == rtF r (2 * j + 1))

/-- Reason 0xB of the boxes of FOLD and SCAN: tiers, DIM, extents, and the formats and shape of the routine, whether or
not its other words are legal (R69, R191). -/
def fiberBad (s : State) (bd bs dim : Nat) (one : Bool) (fmts : Option (List Nat)) : Bool :=
  s.boxHas bd (fun b => b.tier != 1) || s.boxHas bs (fun a => a.tier != 1 || a.rank ≤ dim) ||
    s.boxHas bs (fun a => s.boxHas bd (fun b => !fiberShape a b dim one)) ||
    (match fmts with
      | some r => s.boxHas bs (fun a => !compShape r a dim || !compFmt r 0 a) || s.boxHas bd (fun b => !compFmt r 0 b)
      | none => false)

def foldLegal (bd bs dim rt v bin : Nat) : State → Option Flt := fun s =>
  let r := routineOf s (s.core s.me).ctx rt
  let bin := bin == 1
  reasonIf s [(5 < dim || (bin && rt != 0), 2), (bin && v == 1, 3),
    (fiberBad s bd bs dim true (if bin then none else some r) ||
      (bin && (s.boxHas bs (fun a => 2 < a.fmt || 2 ^ 24 < a.ext.getD dim 0) || s.boxHas bd (fun b => b.fmt != 0))), 0xB),
    (!bin && !(routineOk r (if v == 1 then 32 else 16) (v == 0) && routinePair r), 0xC)]

def scanLegal (bd bs dim rt v ex bc carry : Nat) : State → Option Flt := fun s =>
  let r := routineOf s (s.core s.me).ctx rt
  reasonIf s [(5 < dim || (carry == 0 && bc != 0), 2),
    (fiberBad s bd bs dim false (some r) ||
      (carry == 1 && s.boxHas bc (fun c => c.tier != 1 || !compFmt r 0 c ||
        s.boxHas bd (fun b => !fiberShape b c dim true))), 0xB),
    (!(routineOk r (if v == 1 then 32 else 16) (v == 0) && routinePair r && (ex == 0 || carry == 1 || rtIdv r)), 0xC)]

def zipLegal (bd ba bb rt v : Nat) : State → Option Flt := fun s =>
  let r := routineOf s (s.core s.me).ctx rt
  let bad (k j : Nat) : Bool := s.boxHas k (fun x => x.tier != 1 || !compFmt r j x ||
    (rtComps r == 2 && x.ext.headD 0 != 2) || s.boxHas ba (fun a => x.ext != a.ext))
  reasonIf s [(rtArity r == 1 && bb != 0, 2), (bad ba 0 || bad bd 0 || (rtArity r == 2 && bad bb 1), 0xB),
    (!routineOk r (if v == 1 then 32 else 16) false, 0xC)]

/-- A datapath starts in the issue cycle when it is idle (R198). -/
def foldAct (bd bs dim rt v bin : Nat) : Act := fun s =>
  let n := s.me
  match s.b n bd, s.b n bs with
  | some b, some a =>
    let p : Op := { mkOp s .fold [b, a] [dim, v, bin, 0, rt] with
      rm := if v == 1 && s.ftz then 1 else 0
      rtn := if bin == 1 then [] else routineOf s (s.core n).ctx rt }
    enqueue { p with total := p.fibers.1 * (p.fibers.2 + 1) } 0 s
  | _, _ => []

def scanAct (bd bs dim rt v ex bc carry : Nat) : Act := fun s =>
  let n := s.me
  match s.b n bd, s.b n bs with
  | some b, some a =>
    let p : Op := { mkOp s .scan ([b, a] ++ (if carry == 1 then (s.b n bc).toList else [])) [dim, v, ex, carry, rt] with
      rm := if v == 1 && s.ftz then 1 else 0
      rtn := routineOf s (s.core n).ctx rt }
    enqueue { p with total := p.fibers.1 * (2 * p.fibers.2) + (if carry == 1 then p.fibers.1 else 0) } 0 s
  | _, _ => []

def zipAct (bd ba bb rt v : Nat) : Act := fun s =>
  let n := s.me
  let r := routineOf s (s.core n).ctx rt
  match s.b n bd, s.b n ba with
  | some d, some a =>
    let p : Op := { mkOp s .zip ([d, a] ++ (if rtArity r == 2 then (s.b n bb).toList else [])) [0, v, 0, 0, rt] with
      rm := if v == 1 && s.ftz then 1 else 0
      rtn := r }
    enqueue { p with total := 2 * zipCount p } 0 s
  | _, _ => []

/-- FOLD and FOLD.bin (R190). -/
def execFold (bd bs dim rt v bin : Nat) (s : State) : Host.Outcome State Fault Refusal :=
  done (checked (foldLegal bd bs dim rt v bin) (andThen (rightsBar [(bs, true, false), (bd, false, true)]) (loanBar [bs, bd]))
    (foldAct bd bs dim rt v bin)) s
/-- SCAN (R190). -/
def execScan (bd bs dim rt v ex bc carry : Nat) (s : State) : Host.Outcome State Fault Refusal :=
  done (checked (scanLegal bd bs dim rt v ex bc carry)
    (andThen (rightsBar ([(bs, true, false), (bd, false, true)] ++ (if carry == 1 then [(bc, false, true)] else [])))
      (loanBar ([bs, bd] ++ (if carry == 1 then [bc] else []))))
    (scanAct bd bs dim rt v ex bc carry)) s
/-- ZIP (R190). -/
def execZip (bd ba bb rt v : Nat) (s : State) : Host.Outcome State Fault Refusal :=
  done (checked (zipLegal bd ba bb rt v)
    (fun s =>
      let two := rtArity (routineOf s (s.core s.me).ctx rt) == 2
      andThen (rightsBar ([(ba, true, false), (bd, false, true)] ++ (if two then [(bb, true, false)] else [])))
        (loanBar ([ba, bd] ++ (if two then [bb] else []))) s)
    (zipAct bd ba bb rt v)) s

end Sys2Proof.Machine
end

