-- ==== Sys2Proof/Machine/Land.lean ====
section
/-! DEFINITION. What the turntables do for deliveries and merges (R21, R218, R247, R296), and what the hub sends to HBM for
them: counts of deliveries, the data of LSEND flits, and the element merges of FOLD (R325, R415). -/

namespace Sys2Proof.Machine

/-! ### Counted delivery (R247, R248) -/

/-- A counter box: rank 1, .n32, at T1 or on T3 sync pages. -/
def counterBox (s : State) (b : Box) : Bool :=
  b.rank == 1 && b.fmt == 11 && (b.tier == 1 || (b.tier == 3 && (List.range b.count).all (fun l => b.kindOf s ((b.elemIdx l).getD b.idx) == 3)))

/-- Word w of a counter box. -/
def counterWord (s : State) (b : Box) (w : Nat) : Nat := ((b.elemIdx w).bind (b.read s)).getD 0

/-- The write of a word of a counter box. -/
def counterWr (s : State) (b : Box) (w v : Nat) : List Wr :=
  match b.elemIdx w with
  | some i => (match b.place s i true true with
      | .at_ sp k => [.mem sp k (bytesOf 4 v)]
      | _ => [])
  | none => []

/-- Records a counter box holds. -/
def counterRecs (b : Box) : Nat := b.ext.headD 0 / 4

/-- The same word as the turntable reads it (R218). -/
def turnWord (s : State) (b : Box) (w : Nat) : Nat :=
  match b.elemIdx w with
  | some i => (match b.place s i true true with
      | .at_ sp k => s.turnNat sp k 4
      | _ => counterWord s b w)
  | none => 0

/-- One write of a turntable or of a delivery, for a task's marks. -/
def wrU (t : Option Nat) (w : Wr) : Act :=
  match w with
  | .mem sp k bs => storeU t sp k bs
  | _ => pureA []

/-- The record a delivery falls in: the one it names, or the first that names its producer. -/
def counterRec (s : State) (b : Box) (producer : Nat) (only : Option Nat) : Option Nat :=
  (match only with
    | some r => [r]
    | none => List.range (counterRecs b)).find? (fun r => turnWord s b (4 * r) == producer + 2 ^ 31)

/-- A delivery of bytes from a producer is counted in a box, by its turntable (R247). -/
def deliver (t : Option Nat) (b : Box) (producer bytes : Nat) (only : Option Nat) : Act := fun s =>
  match counterRec s b producer only with
  | none => forA (counterWr s b 3 (turnWord s b 3 ||| 2)) (wrU t) s
  | some r =>
    let got := turnWord s b (4 * r + 2) + bytes
    let big := turnWord s b (4 * r + 1) < got
    forA (counterWr s b (4 * r + 2) (got % 2 ^ 32) ++
      (if big then counterWr s b (4 * r + 3) (turnWord s b (4 * r + 3) ||| 1) else [])) (wrU t) s

/-- Send the count of a delivery to a box at a station: one update, to the column of the word it adds to (R415). Where the
box has no such place nothing is counted. -/
def sendCount (o : Nat) (b : Box) (producer bytes : Nat) : Act := fun s =>
  let w := match counterRec s b producer none with
    | some r => 4 * r + 2
    | none => 3
  match tfind s.ops o, counterWr s b w 0 with
  | some p, .mem .dram k _ :: _ =>
    sendReq o 3 k 4 (bytesOf 4 producer ++ bytesOf 8 bytes) 0 (reqTransit p.core (k / 2 ^ 31)) s
  | _, _ => []

/-- Read runs of the residual box of a COLL (R330, R415). -/
def residReads (s : State) (p : Op) : List (Nat × Nat × Nat) :=
  match p.kind == .coll && p.phase == 7, p.boxes[3]? with
  | true, some r => runsE ((List.range r.count).flatMap (fun l => match r.placeOff s (r.offset (r.at l)) 4 true false with
      | .at_ .dram k => columns 2 (k, 4, l)
      | _ => []))
  | _, _ => []

/-- What goes on when the requests of a landing flit or of a COLL are all performed. -/
def Op.landed (p : Op) (o : Nat) : Instr :=
  match p.kind with
  | .coll => .collDelivery o
  | _ => .lsendFlitDelivery (p.par.getD 1 0)

/-! ### Merges of FOLD boxes (R293, R296) -/

/-- The operator of a FOLD box as it merges one element: the new value, flags, and whether its routine stopped (R293, R296). -/
def foldMerge (s : State) (k : Nat) (b : Box) (u v : Nat) : Nat × Nat × Bool :=
  if b.fop ≤ 2 then
    let r := combine b.fop b.fmt u v
    (r.1, r.2, false)
  else
    let x := rtApply ⟨false, 0, false⟩ (routineOf s k b.rt) [u, v]
    if x.why != 0 then (u, x.flags, true) else (x.q.getD 0 u, x.flags, false)

/-- A call's position in its scope: gangs count once (R397). -/
def callPos (s : State) (x : Scope) (t : Nat) : Nat :=
  let lead (i : Nat) : Nat := ((tfind s.tasks i).map (·.lead)).getD i
  (x.tasks.takeWhile (fun i => lead i != lead t)).foldl (fun l i => if l.contains (lead i) then l else l ++ [lead i]) [] |>.length

/-- A child fault, to be completed at the report (R292, R397). -/
def childFlt (cause crec cpos : Nat) (sub : Nat) (cs : List Int) (arg : Nat) : Flt :=
  deferredFlt 0x19 sub 0 0 [cause + crec * 2 ^ 16 + cpos * 2 ^ 32, 0, packCoords (cs.getD 0 0) (cs.getD 1 0),
    packCoords (cs.getD 2 0) (cs.getD 3 0), packCoords (cs.getD 4 0) (cs.getD 5 0), arg]

/-- A fault added to a scope. -/
def scopeFault (k : Nat) (f : Flt) : Act := fun s =>
  match tfind s.scopes k with
  | some x => [.scope k { x with faults := x.faults ++ [f] }]
  | none => []

/-- Coordinates whose element lies at an index r of a box's first element, dimension 0 first. -/
def coordsIn : List Nat → List Int → Int → Option (List Int)
  | e :: es, st :: ss, r =>
    if r < reachLo (e :: es) (st :: ss) || reachHi (e :: es) (st :: ss) < r then none
    else if es.isEmpty then
      (if st == 0 then (if r == 0 then some [0] else none)
       else if r % st == 0 && 0 ≤ r / st && r / st < e then some [r / st] else none)
    else (List.range e).findSome? (fun (c : Nat) => (coordsIn es ss (r - st * c)).map ((c : Int) :: ·))
  | _, _, r => if r == 0 then some [] else none

/-- The boxes a task was given: the images of its arguments, or a root's own boxes. -/
def givenBoxes (k : Task) : List Box := k.imgs.map (·.child) ++ (if k.seq.isSome then k.boxes.filterMap id else [])

/-- Coordinates of element l of a loan in the parent box that it was narrowed from: one its owner was given (R397); failing
that, in the loan itself. -/
def parentCoords (s : State) (owner : Nat) (b : Box) (l : Nat) : List Int :=
  let i := b.at l
  let from_ (g : Box) : Option (List Int) :=
    if g.tier == b.tier && g.org == b.org && g.fmt == b.fmt && (b.tier == 1 || g.home == b.home) then coordsIn g.ext g.str (i - g.idx)
    else none
  (((tfind s.tasks owner).map givenBoxes).getD [] |>.findSome? from_).getD (coordsOf b.ext l)

/-- What a merge into a parent's box leaves beside its bytes: its owner's marks; and open scopes of the owner, but for one
that the join now frees, remember what it replaces, as those of other tasks do (R294). -/
def mergeTrace (owner : Nat) (freed : Option Nat) (sp : Space) (key : Nat) (old : List Byte) : Act := fun s =>
  markWrite (some owner) sp key old.length s ++
    rememberU (fun i x => (x.owner == owner && some i != freed) || foreign s (some owner) sp key i x) sp key old s

/-- Where a merge finds a place by the time it is made: in the back half of a window (R224, R233). -/
def Place.back (s : State) : Place → Place
  | .at_ .dram key => .at_ .dram (backKey s key)
  | pl => pl

/-- Bytes merged into a parent's box at a place; a read-modify-write not yet visible does not undo them (R21, R218). -/
def mergeAt (owner : Nat) (freed : Option Nat) (pl : Place) (bs : List Byte) : Act := fun s =>
  match pl with
  | .at_ sp key => .mem sp key bs :: mergeTrace owner freed sp key (memGets (s.mem sp) key bs.length) s ++
      overRmw sp key bs.length s ++ healU sp key bs.length s
  | .sealed k entry phys shadow base =>
    (match t4Write s k entry base shadow phys bs with
      | none => []
      | some us => us ++ mergeTrace owner freed .host phys (sealedNow s k entry phys shadow base bs.length) s)
  | _ => []

/-- A place as a memory and a key; sealed bytes go by host address. -/
def Place.cell (pl : Place) : Option (Space × Nat) :=
  match pl with
  | .at_ sp key => some (sp, key)
  | .sealed _ _ phys _ _ => some (.host, phys)
  | _ => Option.none

/-- The n bytes at a place. -/
def Place.bytes (s : State) (pl : Place) (n : Nat) : List Byte :=
  match pl with
  | .at_ sp key => memGets (s.mem sp) key n
  | .sealed k entry phys shadow base => sealedNow s k entry phys shadow base n
  | _ => List.replicate n 0#8

/-- The n bytes at a place as its turntable reads them (R218). -/
def Place.turnBytes (s : State) (pl : Place) (n : Nat) : List Byte :=
  match pl with
  | .at_ sp key => (List.range n).map (fun j => s.turnByte sp (key + j))
  | _ => pl.bytes s n

/-- Does the tag of a place's unit fail? -/
def Place.broken (s : State) (pl : Place) : Bool :=
  match pl with
  | .sealed k entry phys shadow base => (t4Open s k entry base shadow ((phys - base) / 64)).isNone
  | _ => false

/-- The value an image brings to element l of its parent's box. -/
def Img.value (g : Img) (l : Nat) : Nat :=
  let b := g.parent
  let o := (b.offset (b.at l) - b.first).toNat
  natOf ((List.range b.esize).map (fun j => ((g.out.find? (fun e => e.1 == o + j)).map (·.2)).getD 0))

/-- A merge that fails at element l, by a routine that stops or by a sealed unit whose tag fails, is reported once for each
call (R296, R397). -/
def mergeFault (cause k t arg : Nat) (b : Box) (l : Nat) : Act := fun s =>
  match tfind s.scopes k with
  | some x =>
    let cpos := callPos s x t
    if x.faults.any (fun f => f.sub == 1 && bitsOf (f.detail.headD 0) 32 16 == cpos) then []
    else scopeFault k (childFlt cause (((tfind s.tasks t).map (·.recIdx)).getD 0) cpos 1
      (parentCoords s x.owner b l) arg) s
  | none => []

/-- Is an image merged by update requests: a writable FOLD box at a vault station? -/
def Img.byStation (s : State) (g : Img) : Bool := g.parent.wr && g.parent.merge == 3 && g.parent.remote s

/-- The merge of an image as a landing: boxes [parent]; par [1, child, argument, scope, owner]; its elements' updates, a
request for each column (R415). -/
def mergeOp (s : State) (k owner t : Nat) (c : Task) (g : Img) : Op :=
  let b := g.parent
  let ups := (List.range b.count).filterMap (fun l => match b.placeOff s (b.offset (b.at l)) b.esize true true with
    | .at_ .dram a => some (a, g.value l, 0, l)
    | _ => none)
  { mkOp s .land [b] [1, t, g.arg, k, owner] with
    core := 160
    task := owner
    ctx := c.ctx
    st := .running
    outs := byColumn ups }

/-- The updates of one merge request, in order: each element's old value, the operator, its new value; flags wait for the
FINWAIT (R296). -/
def stationMerge (p : Op) (v : Nat) (l : List (Nat × Nat × Nat × Nat)) : Act :=
  let b := p.src
  let k := p.par.getD 3 0
  let owner := p.par.getD 4 0
  forA l (fun e => fun s =>
    let key := backKey s (vkey v e.1)
    let r := foldMerge s p.ctx b (natOf (memGets s.dram key b.esize)) e.2.1
    seqA [
      mergeAt owner none (.at_ .dram key) (bytesOf b.esize r.1),
      fun s => match tfind s.scopes k with
        | some x => [.scope k { x with flags := x.flags ||| r.2.1 }]
        | none => [],
      whenA (fun _ => r.2.2) (mergeFault 8 k (p.par.getD 1 0) (p.par.getD 2 0) b e.2.2.2)] s)

/-- Send the merge requests that may be sent. -/
def pumpMerge (o : Nat) : Nat → Act
  | 0 => fun _ => []
  | f + 1 => fun s =>
    match tfind s.ops o with
    | none => []
    | some p => match p.outs with
      | [] => []
      | r :: _ =>
        if 64 ≤ p.reqs then []
        else seqA [sendReq o 4 r.key r.bytes.length r.bytes r.elem (reqTransit p.core (r.key / 2 ^ 31)),
          pureA [.op o (fun p => { p with outs := p.outs.drop 1 })], pumpMerge o f] s

/-- A landing, or a COLL, sends its requests; when all are performed it goes on. A merge is then done. -/
def landStep (o : Nat) : Act := seqA [
  fun s => match tfind s.ops o with
    | none => []
    | some p => if p.kind == .land && p.par.getD 0 0 == 1 then pumpMerge o 64 s else pump o residReads 64 s,
  fun s => match tfind s.ops o with
    | none => []
    | some p =>
      if p.reqs != 0 || !p.outs.isEmpty || p.sent < (residReads s p).length || p.busy.isSome then []
      else if p.kind == .land && p.par.getD 0 0 == 1 then
        [.delOp o, .task (p.par.getD 1 0) (fun c => { c with imgs := c.imgs.map (fun g =>
          if g.arg == p.par.getD 2 0 then { g with merged := true } else g) })]
      else [postU s.cycle 2 (p.landed o)]]

/-- FOLD images at vault stations are merged in call order, one at a time in a scope (R296). -/
def mergeScan : Act := fun s =>
  forA (s.scopes.filter (fun e => e.2.live)) (fun e => fun s =>
    if s.ops.any (fun o => o.2.kind == .land && o.2.par.getD 0 0 == 1 && o.2.par.getD 3 0 == e.1) then []
    else
      let next := e.2.tasks.findSome? (fun t => match tfind s.tasks t with
        | some c =>
          if c.st == .failed then none
          else if c.st != .done then some none
          else (c.imgs.find? (fun g => g.byStation s && !g.merged)).map (fun g => some (t, c, g))
        | none => none)
      match next with
      | some (some (t, c, g)) => seqA [pureA [.newOp (mergeOp s e.1 e.2.owner t c g)], landStep s.nid] s
      | _ => []) s

end Sys2Proof.Machine
end

