-- ==== Sys2Proof/Machine/Engine.lean ====
section
/-! DEFINITION. How engine operations run (R216, R229, R234 to R236, R241, R408, R415): units moved, requests served,
completions and joins; the random-bit generator, counted delivery and publication (R233, R247 to R249). -/

namespace Sys2Proof.Machine

/-! ### Units -/

/-- The boxes an operation writes. -/
def Op.wbox (p : Op) : Box := if p.kind == .cpy then p.dst else p.boxes.getD 0 p.src
def Op.wbox2 (p : Op) : Box :=
  match p.kind with
  | .scac => p.boxes.getD 3 p.wbox
  | .scan => p.boxes.getD 2 p.wbox
  | _ => p.wbox

/-- Unit k of a copy; a sealed unit whose tag fails stops it (R356). -/
def cpySealed (s : State) (p : Op) (k : Nat) : UnitR :=
  let r := cpyUnit s p k
  match sealBroken s p.src (cpySpans p k) with
  | some d => ⟨[], 0, none, p.acc, some (0x22, d), true⟩
  | none => match sealBroken s p.dst (r.ws.map (UW.spanOf p.dst)) with
    | some d => ⟨[], 0, none, p.acc, some (0x22, d), true⟩
    | none => r

/-- Unit k of an operation. -/
def opUnit (s : State) (p : Op) (k : Nat) : UnitR :=
  match p.kind with
  | .cpy => cpySealed s p k
  | .gath => gathUnit s p k
  | .scac => scacUnit s p k
  | .fold => foldUnit s p k
  | .scan => scanUnit s p k
  | .zip => zipUnit s p k
  | _ => UnitR.ok [] p.acc

/-- Does an operation move units by itself now? A copy does from its transfer start (phase 5). -/
def Op.moving (p : Op) : Bool := p.st == .running && p.flt.isNone && (p.kind != .cpy || p.phase == 5)

/-- Does a turntable operation work at a vault station? -/
def Op.farHome (s : State) (p : Op) : Bool := p.kind == .scac && p.wbox.remote s

/-- Must every write wait until no enabled flag can come (R122, R200)? -/
def opHolds (p : Op) : Bool :=
  (p.kind == .cpy && cpyHolds p) || (p.kind == .fold && p.par.getD 2 0 == 1 && p.enb != 0)

/-- Where the writes of unit k come from (R366, R415). -/
def unitFrom (s : State) (p : Op) (k : Nat) : From :=
  if p.kind != .cpy then ⟨k, 0, false⟩
  else ⟨cpyElem p k, if p.src.remote s then ((spanKeys s p.src (cpySpans p k)).headD (0, 0)).1 / 2 ^ 31 + 1 else 0, false⟩

/-- The result of a unit applied: its writes, then the operation's record. Out of order a unit that raises an enabled flag
writes nothing (R122). -/
def applyUnit (o k : Nat) (inOrder : Bool) : Act := fun s =>
  match tfind s.ops o with
  | none => []
  | some p =>
    let r := opUnit s p k
    let w := if p.kind == .cpy then injWs p r.ws else (r.ws, 0)
    let routine := match r.stop with
      | some (8, _) => true
      | _ => false
    seqA [
      if inOrder || (r.bad.isNone && r.stop.isNone) then forA w.1 (writeUW o (unitFrom s p k) p.wbox p.wbox2) else pureA [],
      pureA [.op o (fun q => { q with
        next := if !inOrder || r.stop.isSome then q.next else if r.last then q.total else k + 1
        acc := (fun a => if p.kind == .cpy then a.set 2 w.2 else a) (if routine then r.acc.dropLast else r.acc)
        flags := q.flags ||| r.flags
        bad := match q.bad with
          | some b => some b
          | none => r.bad
        skip := if routine then r.acc.getLastD 0 else 0
        repl := if r.stop.isSome || (p.kind == .cpy && p.tr != 8) then q.repl else []
        flt := match q.flt, r.stop with
          | none, some (c, d) => some (opFlt p c d)
          | f, _ => f })]] s

/-- Have all the bytes come that unit k, or with writes held back every unit, reads? -/
def unitReady (s : State) (p : Op) : Bool :=
  p.moving && p.next < p.total && !p.farHome s && !(p.kind == .cpy && p.tr == 7 && s.cycle < p.start + 4) &&
    (p.kind != .cpy || !p.src.remote s ||
      (if opHolds p then (List.range p.total).all (fun k => arrived s p p.src (cpySpans p k))
       else arrived s p p.src (cpySpans p p.next)))

/-- Move up to `f` units that are ready. -/
def moveUnits (o : Nat) : Nat → Act
  | 0 => fun _ => []
  | f + 1 => fun s =>
    match tfind s.ops o with
    | none => []
    | some p => if unitReady s p then seqA [applyUnit o p.next true, moveUnits o f] s else []

/-- The arithmetic fault of an operation that holds its writes back. -/
def heldFault (p : Op) : Flt := opFlt p 5 (arithDetail p.flags p.bad)

/-- The number of units from the next on, in order, that have their bytes. -/
def readyRun (s : State) (p : Op) : Nat :=
  ((List.range (p.total - p.next)).takeWhile (fun j => arrived s p p.src (cpySpans p (p.next + j)))).length

/-- All the rest: with writes held back, a trial run decides whether any is made (R122). -/
def moveRest (o : Nat) : Act := fun s =>
  match tfind s.ops o with
  | none => []
  | some p =>
    let u := moveUnits o (p.total - p.next) s
    if !opHolds p then u
    else match tfind (applyAll u s).ops o with
      | none => []
      | some q => if q.bad.isSome then [.op o (fun p => { p with flags := q.flags, flt := some (heldFault q) })] else u

/-- The spans of the first written box that units from `next` on write, as far as the present state tells (R229). -/
def laterSpans (s : State) (p : Op) : List (Int × Nat) :=
  let b := p.wbox
  let ks := (List.range (p.total - p.next)).map (· + p.next)
  match p.kind with
  | .cpy =>
    (match p.tr with
    | 2 =>
      if b.fmt == 5 then ks.map (fun k => (recOff b k, 8452))
      else ks.flatMap (fun k =>
        let (f, q, _) := blockAt (p.src.ext.headD 0) k
        (List.range 33).map (fun j => b.span (b.at (f * b.ext.headD 0 + 33 * q + j))))
    | 4 => if p.total ≤ p.next then []
      else (List.range (b.count - p.acc.getD 1 0)).map (fun j => b.span (b.at (p.acc.getD 1 0 + j)))
    | 6 =>
      let e0 := p.src.ext.getD 0 1
      ks.map (fun k => b.span (b.at (k / e0 + p.src.ext.getD 1 1 * (k % e0))))
    | _ => ks.map (fun k => b.span (b.at k)))
  | .gath => ks.map (fun k => b.span (b.at k))
  | .scac =>
    let n := (p.boxes.getD 1 b).count
    let homes (lo : Nat) : List (Int × Nat) := (List.range (n - lo)).filterMap (fun j => match (scacHome s p (lo + j)).1 with
      | .elem e => some (b.span e)
      | _ => none)
    if p.par.getD 1 0 == 1 then
      (if p.next < n then homes 0 else
        (((decWin p.acc).filter (fun e => e.1 != noHome)).map (fun e => b.span e.1)).drop (p.next - n))
    else if p.swaps then homes p.next
    else if p.next % 65 == 0 then homes (64 * (p.next / 65))
    else ((decWin p.acc).drop (p.next % 65 - 1)).map (fun e => b.span e.1) ++ homes (64 * (p.next / 65 + 1))
  | .zip => (List.range (p.comps * (2 * zipCount p - max p.next (zipCount p)))).map (fun j =>
      b.span (b.at (p.comps * (max p.next (zipCount p) - zipCount p) + j)))
  | .fold =>
    let (m, n) := p.fibers
    let f0 := p.next / (n + 1)
    (List.range (m - f0)).flatMap (fun j => (fiberPut p b (f0 + j) 0 [0, 0]).map (UW.spanOf b))
  | .scan =>
    let (m, n) := p.fibers
    let f0 := min m (p.next / (2 * n))
    let i0 := if f0 == m then 0 else p.next % (2 * n) - n
    (List.range (m - f0)).flatMap (fun j => (List.range n).flatMap (fun i =>
      if j == 0 && i < i0 then [] else (fiberPut p b (f0 + j) i [0, 0]).map (UW.spanOf b)))
  | _ => []

/-- The positions of an xchg or cas whose old values have not come yet: at stations those of requests not yet sent or
answered and of later windows, and those held back. -/
def swapsLeft (s : State) (o : Nat) (p : Op) : List Nat :=
  if !p.farHome s then (List.range (p.total - p.next)).map (· + p.next)
  else
    let of (bs : List Byte) : List Nat := (decUpd (bs.length / 16) bs).map (·.2.2.2)
    p.outs.flatMap (fun r => of r.bytes) ++ (s.reqs.filter (fun e => e.2.op == some o)).flatMap (fun e => of e.2.data) ++
      (chunk 2 (p.acc.length / 2) p.acc).map (fun e => e.headD 0) ++
      (List.range ((p.boxes.getD 1 p.src).count - 64 * p.next)).map (· + 64 * p.next)

/-- The same for the second written box: the result of xchg and cas, and the carries of a SCAN. -/
def laterSpans2 (s : State) (o : Nat) (p : Op) : List (Int × Nat) :=
  let b := p.wbox2
  match p.kind with
  | .scac => if p.swaps then (swapsLeft s o p).filterMap (fun j => match resHit p j with
      | .elem i => some (b.span i)
      | _ => none) else []
  | .scan =>
    if p.par.getD 3 0 == 1 then
      let (m, n) := p.fibers
      let f0 := p.next - m * (2 * n)
      (List.range (m - f0)).flatMap (fun j => (List.range p.comps).map (fun c =>
        b.span (b.atC (fiberCoords (p.par.getD 0 0) (p.comps == 2) b.ext 0 (f0 + j) 0 c))))
    else []
  | _ => []

/-- Stamps of granules of an operation, each with the tag base of its box (R229). -/
def opStamps (p : Op) (gs : List Nat) : List Upd := gs.map (fun g =>
  .tag (g % 2 ^ 32 / 4096) (g % 4096) (BitVec.ofNat 16 (if g < 2 ^ 32 then p.wbox.tb else p.wbox2.tb)))

/-- Stamp the granules whose last write was visible in an earlier cycle (R229). -/
def stampEarly (o : Nat) : Act := fun s =>
  match tfind s.ops o with
  | none => []
  | some p =>
    if p.grans.isEmpty || s.cycle ≤ p.wrote then []
    else
      let later := granKeys p.wbox false (laterSpans s p) ++ granKeys p.wbox2 true (laterSpans2 s o p)
      opStamps p (p.grans.filter (fun g => !later.contains g)) ++
        [.op o (fun p => { p with grans := p.grans.filter later.contains })]

/-! ### Free progress (R204, R220, R235) -/

/-- Are the elements an operation writes to a scratchpad less than whole aligned elements of four bytes? -/
def Op.narrow (p : Op) : Bool :=
  [p.wbox, p.wbox2].any (fun b => b.tier == 1 && (b.esize % 4 != 0 || b.org % 4 != 0))

/-- The last unit among those of a list, in order from k on, that writes each four-byte element. -/
def lastUnits (b : Box) (later : List (Int × Nat)) (k : Nat) : Tab Nat :=
  ((List.range later.length).zip later).foldl (fun t e =>
    let a := skey b.home ((b.org : Int) + e.2.1).toNat
    (List.range ((a + e.2.2 - 1) / 4 + 1 - a / 4)).foldl (fun t j => tput t (a / 4 + j) (k + e.1)) t) []

/-- How many of the next `k` units may move so that no four-byte element is left half written: a read before the completion
returns the old element or the one the operation writes (R235). Where a unit is one element in order, the longest run
that ends at such a place; else all the units, or none. -/
def Op.together (s : State) (p : Op) (k : Nat) : Nat :=
  let left := p.total - p.next
  if !p.narrow || left ≤ k then min k left
  else if !(p.kind == .gath || (p.kind == .cpy && p.tr != 2 && p.tr != 4)) then 0
  else
    let later := laterSpans s p
    let last := lastUnits p.wbox later p.next
    ((List.range k).zip later).foldl (fun (a : Nat × Nat) e =>
      let b := skey p.wbox.home ((p.wbox.org : Int) + e.2.1).toNat
      let m := (List.range ((b + e.2.2 - 1) / 4 + 1 - b / 4)).foldl (fun m j => max m (tget 0 last (b / 4 + j))) a.2
      (if m ≤ p.next + e.1 then e.1 + 1 else a.1, m)) (0, 0) |>.1

/-- The positions and old values of far swaps held back: their results are narrower than an element of four bytes. -/
def swapPairs (p : Op) : List (Nat × Nat) := (chunk 2 (p.acc.length / 2) p.acc).map (fun e => (e.getD 0 0, e.getD 1 0))

/-- Old values of far swaps that have come: written at once, or held back until the operation ends (R204, R235). -/
def swapResults (o : Nat) (l : List (Nat × Nat)) : Act := fun s =>
  match tfind s.ops o with
  | none => []
  | some p =>
    if p.narrow then [.op o (fun q => { q with acc := q.acc ++ l.flatMap (fun e => [e.1, e.2]) })]
    else forA l (fun e => forA (resWs p e.1 e.2) (writeUW o ⟨e.1, 0, false⟩ p.wbox p.wbox2)) s

/-- What was held back is written. -/
def flushSwaps (o : Nat) : Act := fun s =>
  match tfind s.ops o with
  | none => []
  | some p =>
    if !(p.farHome s && p.swaps) then []
    else seqA [forA (swapPairs p) (fun e => forA (resWs p e.1 e.2) (writeUW o ⟨e.1, 0, false⟩ p.wbox p.wbox2)),
      pureA [.op o (fun q => { q with acc := [] })]] s

/-! ### The requests of an operation (R415) -/

/-- Read runs of a copy's source, in iteration order. -/
def cpyReads (s : State) (p : Op) : List (Nat × Nat × Nat) :=
  if p.kind != .cpy || !p.src.remote s then []
  else runsE ((cpyReadSpans p).flatMap (fun e => match p.src.placeOff s e.2.1 e.2.2 true false with
    | .at_ .dram k => columns 200 (k, e.2.2, e.1)
    | _ => []))

/-- Form and send the requests of a turntable operation at stations, window by window. -/
def pumpScac (o : Nat) : Nat → Act
  | 0 => fun _ => []
  | f + 1 => fun s =>
    match tfind s.ops o with
    | none => []
    | some p =>
      if p.window s ≤ p.reqs || (p.flt.isSome && (p.outs.isEmpty || p.stopped)) || p.busy.isSome then []
      else match p.outs with
        | r :: _ => seqA [sendReq o 2 r.key 64 r.bytes r.elem (reqTransit p.core (r.key / 2 ^ 31)),
            pureA [.op o (fun p => { p with outs := p.outs.drop 1 })], pumpScac o f] s
        | [] =>
          if p.total ≤ p.next then []
          else match scacFarWindow s p p.next with
            | .error r =>
              let routine := match r.stop with
                | some (8, _) => true
                | _ => false
              [.op o (fun q => { q with
                acc := if routine then r.acc.dropLast else q.acc
                skip := if routine then r.acc.getLastD 0 else 0
                flags := q.flags ||| r.flags
                flt := r.stop.map (fun e => opFlt p e.1 e.2) })]
            | .ok w =>
              seqA [swapResults o (w.zeros.map (fun k => (k, 0))),
                pureA [.op o (fun q => { q with
                  outs := w.runs
                  next := q.next + 1
                  acc := if q.swaps then q.acc else []
                  skip := 0
                  repl := q.repl.filter (fun e => 2 ^ 32 ≤ e.1)
                  flags := q.flags ||| w.flags
                  flt := w.stop.map (fun e => opFlt p e.1 e.2) })],
                pumpScac o f] s

/-- Has an operation nothing more to move or to send: it is at its end, or at a fault (R202)? -/
def Op.moved (p : Op) : Bool := (p.flt.isSome || p.total ≤ p.next) && p.outs.isEmpty

/-- A copy or a SCAC through stations moves on: units that have their bytes, requests, and its completion when all is done. -/
def engineStep (o : Nat) : Act := seqA [
  fun s => match tfind s.ops o with
    | none => []
    | some p =>
      -- from a local source units move by free progress until the transfer ends
      if p.kind != .cpy || p.phase != 5 || s.cycle < p.start || (!p.src.remote s && s.cycle < p.tend) then []
      else if !unitReady s p then []
      else if opHolds p || !p.src.remote s then moveRest o s
      -- units that have their bytes, as far as they leave no four-byte element half written (R204, R220)
      else moveUnits o (p.together s (readyRun s p)) s,
  fun s => match tfind s.ops o with
    | none => []
    | some p =>
      if s.cycle < p.start then []
      else if p.kind == .cpy then (if p.phase == 5 then pump o cpyReads 64 s else [])
      else if p.st == .running then pumpScac o 200 s else [],
  fun s => match tfind s.ops o with
    | none => []
    | some p =>
      -- a routine fault is reported once
      if p.st != .running || p.reqs != 0 || (p.fin == 1 && p.flt.isSome) || p.busy.isSome then []
      else if p.kind == .cpy then
        (if p.phase == 5 && p.moved then
           -- a .cmpz copy has now counted its bytes
           seqA [whenA (fun _ => p.tend == 0) (seqA [cpyEnds o p p.start (cpyBytes p 0), cpyFree p.core]),
             pureA [postU s.cycle 2 (.cpyCompletion o)]] s
         else [])
      else if p.farHome s && (p.stopped || p.moved) then
        [postU s.cycle 2 (.scacCompletion o)]
      else []]

/-- An operation with requests moves on. -/
def remoteStep (o : Nat) : Act := viewA o fun s =>
  match tfind s.ops o with
  | none => []
  | some p => if p.kind == .land || p.kind == .coll then landStep o s else engineStep o s

/-- Free progress of one operation since its last event: `k` units at most (log 8). Nothing before two cycles after issue
(R216), nor before its start or resumption. -/
def progress (o k : Nat) : Act := viewA o fun s =>
  match tfind s.ops o with
  | none => []
  | some p =>
    if s.cycle < p.issue + 2 || s.cycle < p.start || opHolds p || p.behindSealed s || p.behindRecvop s then []
    else seqA [moveUnits o (p.together s k),
      whenA (fun s => p.kind == .cpy && !p.src.remote s && p.dst.remote s && p.next < p.total) (remoteStep o)] s

/-! ### Start and completion -/

/-- What bars a non-copy operation at its start (R236). -/
def startBar (s : State) (p : Op) : Option Flt :=
  if p.kind == .scac && p.wbox.tier == 3 then boxBar s p 0 p.wbox true true else none

/-- Cycles from the start of an operation to its completion (R198, R243, R245), the units before `next` left out; of a
resumed copy from its resumption (R203). -/
def opTime (s : State) (p : Op) : Nat :=
  match p.kind with
  | .gath => 8 + p.total
  | .scac => scacTime s p
  | .cpy => 5 + (cpyBytes p p.next + 63) / 64 + transit s p.src p.dst
  | .fold => foldTime p (p.next / (p.fibers.2 + 1))
  | .scan => scanTime p (min p.fibers.1 (p.next / (2 * p.fibers.2)))
  | .zip => zipTime p (p.next - zipCount p)
  | _ => 0

/-- The completion event of an operation. -/
def opDone (p : Op) (o : Nat) : Instr :=
  match p.kind with
  | .cpy => .cpyCompletion o
  | .gath => .gathCompletion o
  | .scac => .scacCompletion o
  | _ => .routineOpCompletion o

/-- The next queued publication of the same window starts (R233). -/
def pubNext (p : Op) : Act := fun s =>
  match s.ops.find? (fun e => e.2.kind == .pub && e.2.ctx == p.ctx && e.2.st == .waiting && e.2.par.headD 0 == p.par.headD 0) with
  | some e => if e.2.phase == 0 then [postU s.cycle 2 (.engineOpStart e.1)] else []
  | none => []

/-- Has a publication of the same window issued earlier still to be performed (R233)? -/
def pubBehind (s : State) (o : Nat) (p : Op) : Bool :=
  s.ops.any (fun e => e.1 < o && e.2.kind == .pub && e.2.ctx == p.ctx && e.2.par.headD 0 == p.par.headD 0)

/-- A publication starts: the halves swap, and the version follows in a free time (R224, R354; log 10). -/
def pubStart (o : Nat) (p : Op) : Act := fun s =>
  let w := p.par.headD 0
  match tfind (s.ctx p.ctx).wins w with
  | none => [.delOp o]
  | some x =>
    if x.busy || pubBehind s o p then []
    -- publications before it have used the last version up
    else if 2 ^ 64 ≤ x.version + 1 then
      seqA [pureA [.delOp o], opTrap p s.cycle (opFlt p 3 [0x1F, wordOp p.slot p.word]), pubNext p] s
    else [.op o (fun q => { q with st := .running }),
      .ctx p.ctx (fun c => { c with wins := tput c.wins w { x with busy := true, front := !x.front } }),
      .fresh, postU (s.cycle + Config.freeNat s.fresh) 2 (.pubVersionWrite o)]

/-- PUB_VERSION_WRITE: the incremented version reaches the host after the window's writes (R224). -/
def pubVersionAct (o : Nat) : Act := fun s =>
  match tfind s.ops o with
  | none => []
  | some p =>
    let w := p.par.headD 0
    match p.kind == .pub && p.st == .running, tfind (s.ctx p.ctx).wins w with
    | true, some x => seqA [
        pureA [.ctx p.ctx (fun c => { c with wins := tput c.wins w { x with busy := false, version := x.version + 1 } }),
          .mem .host x.vaddr (bytesOf 8 (x.version + 1)), .delOp o],
        pubNext p] s
    | _, _ => []

/-- The words of an RBFILL are ordered from its start (R249). -/
def rbStart (o : Nat) (p : Op) : Act := fun s =>
  if p.total == 0 then seqA [pureA [.delOp o], engineNext p] s
  else .op o (fun q => { q with st := .running, start := s.cycle }) ::
    (List.range p.total).map (fun k => postU (s.cycle + 12 + 2 * k) 8 (.rbfillWordWrite p.core))

/-- ENGINE_OP_START: an operation starts when its engine is idle (R234, R198), a publication when its window is, and the
transfer of a copy begins (R238). -/
def engineOpStartAct (o : Nat) : Act := viewA o fun s =>
  match tfind s.ops o with
  | none => []
  | some p =>
    match p.kind with
    | .cpy =>
      if p.st == .waiting then (if p.phase == 0 then [postU (p.dueAt s) 2 (.cpyDeparture o)] else [])
      else if p.phase == 5 && p.tr == 7 && s.cycle == p.start + 4 && p.next == 0 then
        -- the first cycle of its transfer: the start value of a .crc copy (R408)
        seqA [pureA [.op o (fun q => { q with acc := q.acc.set 3 (if q.par.getD 1 0 == 1 then (s.core p.core).crc else 0xFFFFFFFF) })],
          remoteStep o] s
      else if p.phase == 5 then
        -- its requests begin, or go on after a resumption; a .cmpz copy reads its source
        (if s.cycle < p.issue + 2 || s.cycle < p.start then []
         else if p.tr == 4 && p.tend == 0 && p.behindSealed s then [postU (s.cycle + 1) 1 (.engineOpStart o)]
         else if p.tr == 4 && !p.src.remote s then
           (if p.tend != 0 then [] else seqA [moveRest o, fun s => match tfind s.ops o with
             | some q => seqA [cpyEnds o q q.start (cpyBytes q 0), cpyFree q.core] s
             | none => []] s)
         else remoteStep o s)
      else if p.phase != 4 || s.cycle < p.start then []
      else seqA [
        meetBox p.src,
        pureA ([.op o (fun q => { q with phase := 5 })] ++ (if p.tr == 7 then [postU (s.cycle + 4) 1 (.engineOpStart o)] else [])),
        -- nothing is read before two cycles after issue (R216)
        fun s => if p.src.remote s || p.dst.remote s || p.tr == 4 then [postU (max s.cycle (p.issue + 2)) 1 (.engineOpStart o)]
          else []] s
    | .vrun =>
      if p.st == .waiting && p.phase == 0 then
        [postU (s.cycle + 3 + coreVault p.core ((p.boxes.getD 0 p.src).home)) 2 (.vrunArrival o)]
      else []
    | .pub => if p.st == .waiting && p.phase == 0 then pubStart o p s else []
    | .lsend => []
    | .coll => if p.phase == 7 || p.phase == 4 then landStep o s else []
    | .land => []
    | _ =>
      if p.st == .running && p.farHome s && p.issue + 2 ≤ s.cycle && p.start ≤ s.cycle then remoteStep o s
      else if p.st != .waiting || p.phase == 9 || engineBusy s p o then []
      else if p.kind == .rbfill then rbStart o p s
      else match startBar s p with
        | some f => seqA [pureA [.delOp o], opTrap p s.cycle f, engineNext p] s
        | none => seqA [
            pureA [.op o (fun q => { q.mapped s with st := .running, start := s.cycle, sendAt := s.cycle })],
            forA (p.src :: p.boxes) meetBox,
            fun s => if p.farHome s then
                (if s.cycle < p.issue + 2 then [postU (p.issue + 2) 2 (.engineOpStart o)] else remoteStep o s)
              else [.op o (fun q => { q with fin := s.cycle + opTime s q }),
                postU (s.cycle + opTime s p) 2 (opDone p o)]] s

/-- The trap of an operation at fault, what it wrote stamped; a routine fault keeps it for its resumption (R202, R203). -/
def opFault (o : Nat) (p : Op) (f : Flt) : Act := seqA [
  flushPeer o,
  pureA (opStamps p p.grans),
  if f.cause == 8 then seqA [pureA [areaU p.ctx (f.detail.getD 0 0) (routineRecord f p.acc),
      .op o (fun q => { q with grans := [], fin := 1 }), .fresh], fun s => opTrap p s.cycle f s]
  else seqA [pureA (.delOp o :: integrityU f), fun s => opTrap p s.cycle f s, engineNext p, cpyFree p.core]]

/-- An operation is over: flags and stamps, and the next of its engine. -/
def opOver (o : Nat) (p : Op) : Act := seqA [
  pureA (opStamps p p.grans),
  flagFor p.core p.task p.flags,
  pureA [.delOp o], engineNext p, cpyFree p.core]

/-- GATH_COMPLETION, SCAC_COMPLETION and ROUTINE_OP_COMPLETION (R198, R243, R245). -/
def opCompletionAct (o : Nat) : Act := viewA o fun s =>
  match tfind s.ops o with
  | none => []
  | some p =>
    let far := p.farHome s
    if p.st != .running || p.kind == .cpy || p.engine == 6 || p.kind == .rbfill || (!far && s.cycle < p.fin) || p.reqs != 0 ||
        (far && !(p.stopped || p.moved)) || p.busy.isSome then []
    else seqA [
      moveRest o,
      whenA (fun _ => !p.stopped) (flushSwaps o),
      fun s => match tfind s.ops o with
        | none => []
        | some q => match q.flt with
          | some f => seqA [flagFor q.core q.task q.flags, pureA [.op o (fun p => { p with flags := 0 })], opFault o q f] s
          | none => opOver o q s] s

/-- CRCST after a .crc copy: CRCV, and MIS when it compared (R242). -/
def crcWord (old : Word) (p : Op) (fin : Nat) : Word :=
  let mis := if p.par.getD 2 0 == 1 then fin ^^^ 0xFFFFFFFF != p.par.getD 3 0 else old.getLsbD 32
  BitVec.ofNat 64 (fin + if mis then 2 ^ 32 else 0)

/-- CPY_TRANSFER_END: a .crc copy's final running value is held for the next one (R408). -/
def cpyTransferEndAct (o : Nat) : Act := viewA o fun s =>
  match tfind s.ops o with
  | none => []
  | some p =>
    if p.kind != .cpy || p.phase != 5 || s.cycle < p.tend then []
    else if p.src.remote s then remoteStep o s
    else if p.dst.remote s then seqA [remoteStep o, fun s => match tfind s.ops o with
      | some q => if q.tr != 7 then [] else [.core q.core (fun c => { c with crc := q.acc.getD 3 0 })]
      | none => []] s
    else if p.tr != 7 then []
    else match tfind (applyAll (moveUnits o (p.total - p.next) s) s).ops o with
      | none => []
      | some q => [.core p.core (fun c => { c with crc := q.acc.getD 3 0 }),
          .op o (fun x => { x with repl := [(0, [q.acc.getD 3 0])] })]

/-- CPY_COMPLETION: the last writes, CRCST, flags, stamps and the join (R238, R242, R408). -/
def cpyCompletionAct (o : Nat) : Act := viewA o fun s =>
  match tfind s.ops o with
  | none => []
  | some p =>
    let rem := p.src.remote s || p.dst.remote s
    if p.kind != .cpy || p.phase != 5 || p.reqs != 0 || (!rem && s.cycle < p.fin) || (rem && !p.moved) || p.busy.isSome then []
    else seqA [
      whenA (fun _ => !rem) (moveRest o),
      flushPeer o,
      fun s => match tfind s.ops o with
        | none => []
        | some q => match q.flt with
          | some f => seqA [flagFor q.core q.task q.flags, pureA [.op o (fun p => { p with flags := 0 })], opFault o q f] s
          | none =>
            let fin := match q.repl with
              | (_, [v]) :: _ => v
              | _ => q.acc.getD 3 0
            seqA [
              fun s => if q.tr != 7 then []
                -- the value of a source at stations is known only now; an MTS since the transfer's end stands
                else (if q.src.remote s && (s.core q.core).crcSet ≤ q.tend then [.core q.core (fun c => { c with crc := fin })]
                  else []) ++
                  (if q.start < (s.core q.core).crcAt then []
                   else [.sr q.core srCRCST (crcWord (s.sr q.core srCRCST) q fin),
                     .core q.core (fun c => { c with crcAt := q.start })]),
              opOver o q] s] s

/-! ### Requests at the station -/

/-- Once every request of a refused operation is settled, it faults (R23); units whose bytes came are still written. The fault
names the vault of the request refused first in time, and t is counted from its station (DESIGN CHOICE, log 95). -/
def opSettle (o : Nat) : Act := viewA o fun s =>
  match tfind s.ops o with
  | none => []
  | some p =>
    if p.refused.isEmpty || s.reqs.any (fun e => e.2.op == some o && e.2.st == 1) then []
    else
      let first := p.refused.foldl min (p.refused.headD 0)
      let v := p.busy.getD 0
      let f := opFlt p 0x10 [v, 1, p.word, first, p.refused.length, Config.freeNat s.fresh]
      seqA [
        fun s => if p.fin == 1 then [] else
          .fresh :: areaU p.ctx (f.detail.getD 5 0) (p.refused.foldl (fun l x => l.takeWhile (· < x) ++ [x] ++ l.dropWhile (· < x)) []) ::
          .op o (fun q => { q with fin := 1 }) :: opTrap p (s.cycle + 4 + coreVault p.core v) f s,
        fun s => if p.reqs != 0 then []
          else seqA [
            -- the bytes that came are written: of records to their first gap, of the rest wherever they came
            (if p.kind != .cpy || p.dst.remote s then pureA []
             else if p.tr == 4 || p.tr == 5 then seqA [pureA [.op o (fun q => { q with flt := none })],
               moveUnits o (p.total - p.next)]
             else forA (List.range (p.total - p.next)) (fun j => whenA (fun s => match tfind s.ops o with
                | some q => arrived s q q.src (cpySpans q (p.next + j))
                | none => false) (applyUnit o (p.next + j) false))),
            flushSwaps o,
            flushPeer o,
            fun s => match tfind s.ops o with
              | some q => seqA [pureA (opStamps q q.grans), flagFor q.core q.task q.flags] s
              | none => [],
            -- a member whose residual could not be read stays, so that the others wait for it
            pureA (if p.kind == .coll && p.phase == 7 then []
              else if p.kind == .coll then [.delOp o, .core p.core (fun c => { c with
                collQ := c.collQ - 1
                collDone := c.collDone + 1 })]
              else [.delOp o]), engineNext p, cpyFree p.core] s] s

/-- The place of a byte of a far access to sealed host memory: its unit, and the place in it. -/
def Req.unit (q : Req) (j : Nat) : Nat × Nat :=
  let o := q.sealed.getD 2 0 + j - q.sealed.getD 4 0
  (o / 64, o % 64)

/-- A far access to sealed host memory, performed at the hub; where a tag fails nothing is written (R356, R359). An element
may lie in two units. -/
def sealedAccess (r : Nat) (q : Req) : Act := fun s =>
  let k := q.sealed.getD 0 0
  let entry := q.sealed.getD 1 0
  let shadow := q.sealed.getD 3 0
  let base := q.sealed.getD 4 0
  let opened (j : Nat) : Option (List Byte) := t4Open s k entry base shadow (q.unit j).1
  match (List.range q.len).find? (fun j => (opened j).isNone) with
  | some j =>
    let f := deferredFlt 0x22 0 q.slot q.pc [entry, (q.unit j).1, (t4Rec s shadow (q.unit j).1).2]
    seqA [pureA (.delReq r :: integrityU f), dueFor q.core (some q.task) (s.cycle + q.way s) f none q.sup, unfence q.core] s
  | none =>
    if q.kind == 0 then seqA [
      pureA [.req r (fun q => { q with
          st := 3
          done := s.cycle
          data := (List.range q.len).map (fun j => ((opened j).getD []).getD (q.unit j).2 0) }),
        postU (s.cycle + q.way s) 8 (.farLdReply r)],
      unfence q.core] s
    else
      let n := min q.len (64 - (q.unit 0).2)
      let put (j : Nat) (bs : List Byte) : Act := fun s =>
        if bs.isEmpty then [] else sealU (some q.task) k entry (q.sealed.getD 2 0 + j) shadow base bs s
      seqA [put 0 (q.data.take n), put n (q.data.drop n), pureA [.delReq r], unfence q.core] s

/-- FAR_REQUEST_ARRIVAL (R23): the request waits at the station, or is refused by a full queue or a fenced vault. -/
def farRequestArrivalAct (r : Nat) : Act := fun s =>
  match tfind s.reqs r with
  | none => []
  | some q =>
    if q.st != 1 || s.cycle < q.arrive then []
    else if !q.sealed.isEmpty then sealedAccess r q s
    else
      let v := q.vault
      if channelOff s v (reqBank q.addr / 16) then
        -- the operation that waits for it ends with it (R382)
        seqA [pureA [.delReq r, postU s.cycle 3 (.taskFailure q.task 0x21)],
          fun s => match q.op with
            | some o => (match tfind s.ops o with
              | some p => seqA [pureA (if p.kind == .coll then collEnd o p else [.delOp o]), engineNext p, cpyFree p.core] s
              | none => [])
            | none => [],
          unfence q.core] s
      else if (s.vault v).waiting.length < 256 then
        seqA [pureA [.req r (fun q => { q with st := 2 }), .vault v (fun t => { t with waiting := t.waiting ++ [r] })],
          vaultKick v,
          fun s => match q.op with
            | some o => opSettle o s
            | none => []] s
      else match q.op with
        | none =>
          seqA [pureA [.delReq r],
            dueFor q.core (some q.task) (s.cycle + 4 + coreVault q.core v)
              (deferredFlt 0x10 0 q.slot q.pc [v, 0]) none q.sup,
            unfence q.core] s
        | some o =>
          -- what lands for no core is sent again
          if (tfind s.ops o).any (fun p => p.kind == .land) then
            let a := s.cycle + 1 + Config.freeNat s.fresh
            [.req r (fun q => { q with arrive := a }), postU a 2 (.farRequestArrival r), .fresh]
          else seqA [pureA [.delReq r, .op o (fun p => { p with
              refused := p.refused ++ [q.elem]
              reqs := p.reqs - 1
              busy := some (p.busy.getD v)
              flt := some (opFlt p 0x10 [v, 1]) })],
            opSettle o] s

/-- One request fewer. -/
def reqDone (r o : Nat) : List Upd := [.delReq r, .op o (fun p => { p with reqs := p.reqs - 1 })]

/-- A request performed at the CK of its column command (R269, R415). -/
def performReq (r pc : Nat) (q : Req) : Act := fun s =>
  let key := vkey q.vault q.addr
  let out := (pc + 27) / 2 + 4
  match q.kind, q.op with
  | 0, none => seqA [
      meetU .dram key q.len,
      pureA [.req r (fun q => { q with st := 3, data := memGets s.dram key q.len, done := s.cycle }),
        postU (out + coreVault q.core q.vault) 8 (.farLdReply r)],
      unfence q.core] s
  | 0, some o =>
    let back := match tfind s.ops o with
      | some p => if p.dst.remote (p.view s) then 0 else wayTo (p.view s) (vaultStn q.vault) p.dst
      | none => 0
    seqA [meetU .dram key q.len, pureA [.fresh, .req r (fun q => { q with st := 3, data := memGets s.dram key q.len, done := s.cycle }),
      postU (out + back) 8 (.farLdReply r)]] s
  | 1, none => seqA [whenA (fun _ => q.sup) (freezeU key q.data.length),
      storeU (some q.task) .dram (if q.page == 4 then backKey s key else key) q.data, pureA [.delReq r], unfence q.core] s
  | 1, some o =>
    let t3 := (tfind s.ops o).any (fun p => (if p.kind == .coll then p.boxes.getD 3 p.dst else p.dst).tier == 3)
    seqA [storeU (some q.task) .dram (if t3 then backKey s key else key) q.data, pureA (reqDone r o), opSettle o, remoteStep o] s
  | 3, some o => seqA [
      fun s => match tfind s.ops o with
        | none => []
        | some p => deliver (some p.task) p.dst (natOf (q.data.take 4)) (natOf (q.data.drop 4)) none s,
      pureA (reqDone r o), remoteStep o] s
  | 4, some o => seqA [
      fun s => match tfind s.ops o with
        | none => []
        | some p => stationMerge p q.vault (decUpd (q.data.length / 16) q.data) s,
      pureA (reqDone r o), remoteStep o] s
  | _, some o =>
    let ups := decUpd (q.data.length / 16) q.data
    (match tfind s.ops o with
      | none => [.delReq r]
      | some p =>
        if p.par.getD 0 0 == 3 || p.par.getD 0 0 == 4 then
          let x := stationSwap o q.vault ups [] s
          x.1 ++ [.req r (fun q => { q with st := 3, data := x.2, done := s.cycle }),
            postU (out + coreVault q.core q.vault) 8 (.farLdReply r)]
        else seqA [stationPerform o q.vault ups, pureA (reqDone r o), opSettle o, remoteStep o] s)
  | _, none => [.delReq r]

/-- FOREIGN_REQUEST_SERVICE: the request being served is performed, and the box looks for the next (R268, R269). -/
def foreignRequestServiceAct (v : Nat) : Act := fun s =>
  match (s.vault v).serve with
  | none => []
  | some (r, _, ra, pc) =>
    if s.cycle < pc / 2 then []
    else match tfind s.reqs r with
      | none => seqA [pureA [.vault v (fun t => { t with serve := none, waiting := t.waiting.filter (· != r) })], vaultKick v] s
      | some q => seqA [
          fun s => [.vault v (fun t => { serveBanks t q ra (ckReal s pc) with
            serve := none
            waiting := t.waiting.filter (· != r) })],
          performReq r pc q,
          vaultKick v,
          -- a request of the same core at another lane of the station may have waited for this one
          forA (List.range 4) (fun l => vaultKick (v / 40 * 40 + 10 * l + v % 10))] s

/-- The value of a far LD that a trap's image holds, at a distance from the trap (R228, R367). -/
def farResult (q : Req) (now away : Nat) (v : Word) : Pend :=
  ⟨away, now, q.slot, q.pc, [.x q.reg v], none, 0, none, .far, false, false, false, [], none, 0, []⟩

/-- FAR_LD_REPLY (R228): after the bank write-backs of its cycle, the destination and the slot's latch; of two replies of one
cycle to one register the one posted last stands there (DESIGN CHOICE, log 95). For an engine operation the bytes reach it, for xchg and cas the old values reach the result box. -/
def farLdReplyAct (r : Nat) : Act := fun s =>
  match tfind s.reqs r with
  | none => []
  | some q =>
    if q.st != 3 then []
    else match q.op with
      | none =>
        let n := q.core
        let raw := natOf q.data
        let v : Word := if q.sgn then BitVec.ofInt 64 (sextOf q.size raw) else BitVec.ofNat 64 raw
        seqA [
          fun s => if (s.core n).task.getD q.task != q.task || (s.core n).run == .fenced then []
            else if (s.core n).sup && !q.sup && (s.core n).img.isSome then
              -- the task's result waits in the image of the trap (R367)
              (if q.nb then [] else [.core n (fun c => { c with img := c.img.map (fun i => { i with
                pend := i.pend ++ [farResult q s.cycle (s.cycle - i.since) v] }) })])
            else
              -- of two results of one cycle the later-issued bundle's stays in the latch (R49)
              let at_ := tget (0, 0) (s.core n).latAt q.slot
              (if q.nb then [] else [.x n q.reg v]) ++
              (if at_.1 == s.cycle && q.issue < at_.2 then [] else [.lat n q.slot (v.setWidth 1024),
                .core n (fun c => { c with latAt := tput c.latAt q.slot (s.cycle, q.issue) })]),
          pureA [.delReq r], unfence n] s
      | some o => seqA [
          fun s => match tfind s.ops o with
            | none => []
            | some _ =>
              if q.kind == 0 then [.op o (fun p => { p with got := putBytes p.got (vkey q.vault q.addr) q.data })]
              else swapResults o ((decUpd (q.data.length / 16) q.data).map (fun e => (e.2.2.2, e.2.2.1))) s,
          pureA (reqDone r o), opSettle o, remoteStep o] s

/-! ### The random-bit generator (R126, R249) -/

/-- A 128-bit counter plus j, as the generator takes it. -/
def rbCtr (c0 c1 : Word) (j : Nat) : Nat := (c0.toNat + c1.toNat * 2 ^ 64 + j) % 2 ^ 128

/-- One 2,048-bit word. -/
def rbWord (k0 k1 c0 c1 : Word) : Nat :=
  ofLanes 128 ((List.range 16).map (fun j =>
    let c := rbCtr c0 c1 j
    let x := gen128 ⟨c % 2 ^ 32, c / 2 ^ 32 % 2 ^ 32, c / 2 ^ 64 % 2 ^ 32, c / 2 ^ 96⟩ (genKey k0 k1)
    x.w0 + x.w1 * 2 ^ 32 + x.w2 * 2 ^ 64 + x.w3 * 2 ^ 96))

def rbfillAct (cnt : Nat) : Act := fun s =>
  let c := s.core s.me
  let k := min cnt (16 - c.rbq.length - c.rbPend)
  let n := s.me
  let e := rbCtr (s.sr n srRBCTR0) (s.sr n (srRBCTR0 + 1)) (16 * k)
  seqA [enqueue { mkOp s .rbfill [] [(s.sr n srRBCTR0).toNat, (s.sr n (srRBCTR0 + 1)).toNat] with total := k } 1,
    pureA [.core n (fun c => { c with rbPend := c.rbPend + k }), .sr n srRBCTR0 (BitVec.ofNat 64 (e % 2 ^ 64)),
      .sr n (srRBCTR0 + 1) (BitVec.ofNat 64 (e / 2 ^ 64))]] s

/-- RBFILL_WORD_WRITE: a word enters the queue, available from the next cycle (R127, R249). -/
def rbfillWordWriteAct (n : Nat) : Act := fun s =>
  match s.ops.find? (fun e => e.2.core == n && e.2.kind == .rbfill && e.2.st == .running) with
  | none => []
  | some (o, p) =>
    if s.cycle < p.start + 12 + 2 * p.next then []
    else
      let c := rbCtr (BitVec.ofNat 64 (p.par.getD 0 0)) (BitVec.ofNat 64 (p.par.getD 1 0)) (16 * p.next)
      seqA [
        pureA [.core n (fun x => { x with
            rbq := x.rbq ++ [rbWord p.key0 p.key1 (BitVec.ofNat 64 (c % 2 ^ 64)) (BitVec.ofNat 64 (c / 2 ^ 64))]
            rbPend := x.rbPend - 1 })],
        (if p.next + 1 == p.total then seqA [pureA [.delOp o], engineNext p]
         else pureA [.op o (fun p => { p with next := p.next + 1 })])] s

/-! ### DLVSET and DLVWAIT (R247, R248) -/

/-- DLVSET's checks (R247); an expected count that does not fit its word is 0xB too (DESIGN CHOICE, log 95). -/
def dlvsetLegal (bc xe xn : Nat) : State → Option Flt := fun s =>
  let e := (s.x s.me xn).toNat
  reasonIf s [(e == 0 || 2 ^ 32 ≤ e ||
    s.boxHas bc (fun b => !counterBox s b || b.ext.headD 0 ≤ 4 * (s.x s.me xe).toNat + 3), 0xB)]

/-- The words a DLVSET writes (R247). -/
def dlvsetWords (s : State) (xp xn : Nat) : List Nat := [wbits (s.x s.me xp) 0 28 + 2 ^ 31, (s.x s.me xn).toNat, 0, 0]

/-- A far write of a word or more of a counter box. -/
def farWord (b : Box) (key : Nat) (bs : List Byte) (under : List Nat) : Act := fun s =>
  sendFar (farReq s 1 key bs.length bs 0 b true 3 under) s

/-- DLVSET: words 0 to 3 of the record, visible as a store's; at a T3 home they are a far write of its core, a request for
each column (R247, R415). -/
def dlvsetAct (bc xe xp xn : Nat) : Act := fun s =>
  match s.b s.me bc with
  | none => []
  | some b =>
    let r := 4 * (s.x s.me xe).toNat
    let ws := dlvsetWords s xp xn
    if b.tier == 1 then emitStore ((List.range 4).flatMap (fun j => counterWr s b (r + j) (ws.getD j 0))) s
    else
      let places := (List.range 4).filterMap (fun j => (b.elemIdx (r + j)).map (fun i => (b.place s i true true, ws.getD j 0)))
      seqA [
        forA (places.foldl (fun l e => match e.1 with
          | .at_ .dram k => addRun l ⟨k, 0, 0, bytesOf 4 e.2⟩
          | _ => l) []) (fun r => farWord b r.key r.bytes []),
        forA places (fun e => match e.1 with
          | .sealed k entry phys shadow base => farWord b (2 ^ 31 * 160) (bytesOf 4 e.2) [k, entry, phys, shadow, base]
          | _ => pureA [])] s

/-- Every valid record has received what it expects; some flag is set: of a fourth word the flags are bits 1 and 0 (R247). -/
def dlvDone (s : State) (b : Box) : Bool :=
  (List.range (counterRecs b)).all (fun r => (counterWord s b (4 * r)) / 2 ^ 31 == 0 ||
    counterWord s b (4 * r + 1) == counterWord s b (4 * r + 2))
def dlvFlagged (s : State) (b : Box) : Bool := (List.range (counterRecs b)).any (fun r => counterWord s b (4 * r + 3) % 4 != 0)

/-- Transit of a counter box's home: none at T1 (R248). -/
def dlvTransit (s : State) (n : Nat) (b : Box) : Nat :=
  if b.tier == 1 then 0 else 4 + routeTime (coreStn n) (b.stn s)

def dlvwaitLegal (bc : Nat) : State → Option Flt := fun s =>
  reasonIf s [(s.boxHas bc (fun b => !counterBox s b), 0xB)]

def dlvwaitAct (bc xd : Nat) : Act := fun s =>
  match s.b s.me bc with
  | none => []
  | some b =>
    let d := (s.x s.me xd).toNat
    let n := s.me
    .core n (fun c => { c with hold := .dlv b bc d }) ::
    (if d == 0 then [] else [postU (if d ≤ s.ctime then s.cycle + 1 else s.cycle + (d - s.ctime)) 3 (.dlvwaitDeadline n)])

/-- The copy of a counter box's records in the save area. -/
def dlvRecord (s : State) (n : Nat) (f : Flt) (b : Box) : Upd :=
  areaU (s.core n).ctx (f.detail.getD 1 0) ((List.range (4 * counterRecs b)).map (counterWord s b))

/-- Detail of a delivery or deadline fault; the records' copy lies at a free offset of the save area (R366). -/
def dlvFlt (s : State) (n cause reg d : Nat) (b : Box) : Flt :=
  deferredFlt cause 0 7 (s.core n).pc [reg, Config.freeNat s.fresh, counterRecs b, d]

/-- DLVWAIT_RELEASE: issue resumes, or a delivery fault falls due (R248). -/
def dlvwaitReleaseAct (n : Nat) : Act := fun s =>
  match (s.core n).held with
  | .dlv b reg _ =>
    if dlvFlagged s b then
      .core n (fun c => c.release s.cycle) :: .fresh :: dlvRecord s n (dlvFlt s n 0x0E reg 0 b) b ::
        dueFor n (s.core n).task s.cycle (dlvFlt s n 0x0E reg 0 b) none (s.core n).sup s
    else if dlvDone s b then [.core n (fun c => c.release s.cycle)]
    else []
  | _ => []

/-- DLVWAIT_DEADLINE: CTIME reached x[XD] first (R248). -/
def dlvwaitDeadlineAct (n : Nat) : Act := fun s =>
  match (s.core n).held with
  | .dlv b reg d =>
    -- what it waits for has come, or a flag: its release or its delivery fault is under way
    if d == 0 || s.ctime < d || dlvDone s b || dlvFlagged s b then []
    else .core n (fun c => c.release s.cycle) :: .fresh :: dlvRecord s n (dlvFlt s n 0x0F reg d b) b ::
      dueFor n (s.core n).task s.cycle (dlvFlt s n 0x0F reg d b) none (s.core n).sup s
  | _ => []

/-- Cores whose DLVWAIT has what it waits for are released a cycle later, plus the transit of a T3 home. -/
def dlvScan : Act := fun s =>
  s.cores.flatMap (fun e => match e.2.held with
    | .dlv b _ _ =>
      if (dlvDone s b || dlvFlagged s b) && !s.agenda.any (fun i => i.ev == .dlvwaitRelease e.1) then
        [postU (s.cycle + 1 + dlvTransit s e.1 b) 3 (.dlvwaitRelease e.1)]
      else []
    | _ => [])

/-! ### Instructions and events -/

/-- RBFILL (R249). -/
def execRbfill (cnt : Nat) (s : State) : Host.Outcome State Fault Refusal := done (rbfillAct cnt) s
/-- DLVSET (R247). -/
def execDlvset (bc xe xp xn : Nat) (s : State) : Host.Outcome State Fault Refusal :=
  done (checked (dlvsetLegal bc xe xn) (andThen (rightsBar [(bc, false, true)]) (loanBar [bc])) (dlvsetAct bc xe xp xn)) s
/-- DLVWAIT (R248). -/
def execDlvwait (bc xd : Nat) (s : State) : Host.Outcome State Fault Refusal :=
  done (checked (dlvwaitLegal bc) (andThen (rightsBar [(bc, true, false)]) (loanBar [bc])) (dlvwaitAct bc xd)) s
/-- FAR_REQUEST_ARRIVAL (R23). -/
def execFarRequestArrival (r : Nat) (s : State) : Host.Outcome State Fault Refusal := done (farRequestArrivalAct r) s
/-- FOREIGN_REQUEST_SERVICE (R268, R269). -/
def execForeignRequestService (v : Nat) (s : State) : Host.Outcome State Fault Refusal :=
  done (foreignRequestServiceAct v) s
/-- FAR_LD_REPLY (R228). -/
def execFarLdReply (r : Nat) (s : State) : Host.Outcome State Fault Refusal := done (farLdReplyAct r) s
/-- ENGINE_OP_START (R234). -/
def execEngineOpStart (o : Nat) (s : State) : Host.Outcome State Fault Refusal := done (engineOpStartAct o) s
/-- CPY_TRANSFER_END (R408). -/
def execCpyTransferEnd (o : Nat) (s : State) : Host.Outcome State Fault Refusal := done (cpyTransferEndAct o) s
/-- CPY_COMPLETION (R238). -/
def execCpyCompletion (o : Nat) (s : State) : Host.Outcome State Fault Refusal := done (cpyCompletionAct o) s
/-- GATH_COMPLETION (R243). -/
def execGathCompletion (o : Nat) (s : State) : Host.Outcome State Fault Refusal :=
  done (whenA (fun s => match tfind s.ops o with
    | some p => p.kind == .gath
    | none => false) (opCompletionAct o)) s
/-- SCAC_COMPLETION (R245). -/
def execScacCompletion (o : Nat) (s : State) : Host.Outcome State Fault Refusal :=
  done (whenA (fun s => match tfind s.ops o with
    | some p => p.kind == .scac
    | none => false) (opCompletionAct o)) s
/-- ROUTINE_OP_COMPLETION (R198). -/
def execRoutineOpCompletion (o : Nat) (s : State) : Host.Outcome State Fault Refusal :=
  done (whenA (fun s => match tfind s.ops o with
    | some p => p.kind == .fold || p.kind == .scan || p.kind == .zip
    | none => false) (opCompletionAct o)) s
/-- RBFILL_WORD_WRITE (R249). -/
def execRbfillWordWrite (n : Nat) (s : State) : Host.Outcome State Fault Refusal := done (rbfillWordWriteAct n) s
/-- PUB_VERSION_WRITE (R224, R233). -/
def execPubVersionWrite (o : Nat) (s : State) : Host.Outcome State Fault Refusal := done (pubVersionAct o) s
/-- DLVWAIT_RELEASE (R248). -/
def execDlvwaitRelease (n : Nat) (s : State) : Host.Outcome State Fault Refusal := done (dlvwaitReleaseAct n) s
/-- DLVWAIT_DEADLINE (R248). -/
def execDlvwaitDeadline (n : Nat) (s : State) : Host.Outcome State Fault Refusal := done (dlvwaitDeadlineAct n) s

end Sys2Proof.Machine
end

