-- ==== Sys2Proof/Machine/Exchange.lean ====
section
/-! DEFINITION. The communication slot (R313 to R331) and the sync domains (R305, R306): exchanges, timetables, counted
sends, collectives, barriers, and what the links do. -/

namespace Sys2Proof.Machine

/-! ### Domains (R305) -/

def domLvl (s : State) (n : Nat) : Nat := wbits (s.sr n srDOMAIN) 33 3
def domQM (s : State) (n : Nat) : Nat := wbits (s.sr n srDOMAIN) 36 4
def domPext (s : State) (n : Nat) : Nat := wbits (s.sr n srDOMAIN) 40 3

/-- The gang of a core's task: the number of its first member. -/
def gangOf (s : State) (n : Nat) : Option Nat := (s.core n).task.bind (fun t => (tfind s.tasks t).map (·.lead))

/-- Do two cores run tasks of one gang, or one task? -/
def sameGang (s : State) (a b : Nat) : Bool := (gangOf s a).isSome && gangOf s a == gangOf s b

/-- The cores of a core's gang or quad at a level: 0 quad, 1 die, 2 and above the device (R305). -/
def membersAt (s : State) (n level : Nat) : List Nat :=
  if 160 ≤ n then [n]
  else
    let l := if level == 0 then ((List.range 4).filter (fun q => (domQM s n).testBit q)).map (quadMate n)
      else if level == 1 then (List.range 40).map (· + n / 40 * 40)
      else List.range 160
    l.filter (fun m => m == n || sameGang s n m)

/-- A member that has issued its TRET, failed or been fenced has left (R306). -/
def hasLeft (c : Core) : Bool := c.run != .issuing || c.held == .tret || c.held == .failed

/-- Do two cores stand in one quad or die, or on the device, as a level asks? -/
def sameLevel (level a b : Nat) : Bool :=
  if level == 0 then a / 40 == b / 40 && quadOf' a == quadOf' b else if level == 1 then a / 40 == b / 40 else true

/-- Is a member of a level switched out, so that it must still come? It stands where it is placed or was saved from. -/
def memberAway (s : State) (n level : Nat) : Bool :=
  match gangOf s n with
  | none => false
  | some g => s.tasks.any (fun e => e.2.lead == g && (e.2.st == .suspended || e.2.st == .restoring || e.2.st == .queued ||
      e.2.st == .starting) && (match e.2.core, e.2.saved with
        | some m, _ => sameLevel level n m
        | none, some v => sameLevel level n v.left
        | none, none => true))

/-- Has every member at a level issued its SYNCD at that level (R306)? -/
def barrierFull (s : State) (n level : Nat) : Bool :=
  !memberAway s n level && (membersAt s n level).all (fun m => (s.core m).held == .syncd level || hasLeft (s.core m))

/-- Members of every barrier that is now complete resume at one cycle; a pod barrier waits for a free time on the other
devices (R306; log 10). -/
def syncScan : Act := fun s =>
  let full := s.cores.filterMap (fun e => match e.2.held with
    | .syncd level => if e.2.run == .issuing && barrierFull s e.1 level && !s.agenda.any (fun i => match i.ev with
        | .barrierResume m _ => m == e.1
        | _ => false) then some (e.1, level) else none
    | _ => none)
  full.map (fun e => postU (s.cycle + (match e.2 with
    | 0 => 4
    | 1 => 16
    | 2 => 64
    | _ => Config.freeNat s.fresh + 2 * wbits (s.dsr 0x015) 0 16 + 16)) 3 (.barrierResume e.1 e.2)) ++
  (if full.any (fun e => 2 < e.2) then [.fresh, .dev (fun d => { d with
      outbox := d.outbox ++ [.barrier 3 (wbits (s.sr (full.headD (0, 0)).1 srSYNCCNT) 48 16) s.ctime] })] else [])

/-- BARRIER_RESUME: the next bundle issues now, and the level's count rises by one (R306). -/
def barrierResumeAct (n level : Nat) : Act := fun s =>
  if (s.core n).held != .syncd level then []
  else
    let w := s.sr n srSYNCCNT
    let k := 16 * min level 3
    let v := (wbits w k 16 + 1) % 2 ^ 16
    [.core n (fun c => { (c.release s.cycle) with
        -- a sibling's bound counts from here (R289)
        iter := if c.spawner.isSome then s.cycle else c.iter }),
      .sr n srSYNCCNT (BitVec.ofNat 64 (w.toNat - wbits w k 16 * 2 ^ k + v * 2 ^ k))]

/-! ### SEND, RECV and RECVOP (R313 to R317) -/

/-- The core a PEER field names. -/
def peerOf (s : State) (ms peer : Nat) : Nat :=
  if ms == 0 then quadMate s.me (peer % 4) else s.me / 40 * 40 + wbits (s.x s.me peer) 0 6

/-- A timing fault's detail (R366). -/
def timingDetail (core arr iss : Nat) : List Nat := [core % 40, arr, iss]

def sendLegal (ms peer b xc : Nat) : State → Option Flt := fun s =>
  reasonIf s [((ms == 1 && 39 < wbits (s.x s.me peer) 0 6) || peerOf s ms peer == s.me ||
    s.boxHas b (fun bx => bx.tier != 1 || bx.fmt == 5 || 63 < xc + bx.rank - 1), 0xB)]

/-- The peer runs a member: its bit in QM, or the same gang (R314). -/
def peerFault (ms peer : Nat) : State → Option Flt := fun s =>
  let ok := if ms == 0 then (domQM s s.me).testBit (peer % 4) else sameGang s s.me (peerOf s ms peer)
  if ok then none else some (faultNow s 0x1B 3 (timingDetail (peerOf s ms peer) 0 s.ctime))

/-- The arrival of this cycle that a receive names. -/
def arrivalFor (s : State) (ms peer : Nat) : Option (Nat × Pkt) :=
  s.pkts.find? (fun e => e.2.kind == 0 && e.2.dst == s.me && e.2.src == peerOf s ms peer && e.2.mesh == (ms == 1) &&
    e.2.arrive == s.cycle && e.2.issue < e.2.arrive)

def recvMatch (ms peer : Nat) : State → Option Flt := fun s =>
  if (arrivalFor s ms peer).isSome then none
  else some (faultNow s 0x1B 2 (timingDetail (peerOf s ms peer) 0 s.ctime))

/-- The lanes an exchange moves. -/
def xLanes (s : State) (bx : Box) (xc : Nat) : List (List Int × Hit) := laneHits s bx xc 2

/-- The time of a SEND's data on its way (R315). -/
def sendWay (s : State) (ms p : Nat) : Nat := if ms == 0 then 6 else 8 + 2 * hops (coreStn s.me) (coreStn p)

/-- The cycle at which a SEND's data arrives: R315's, or later by a free time where R15 holds the packet back, because a
packet issued earlier, or from a lower core in this cycle, goes first; and whether it is so held. -/
def sendArrival (s : State) (ms p : Nat) : Nat × Bool :=
  let a := s.cycle + sendWay s ms p
  if ms == 0 then (a, false)
  else
    let l := s.pkts.map (fun e => meets s s.me p e.2)
    if l.any (·.2) then (a + 1 + Config.freeNat s.fresh, true)
    else if l.any (·.1) then (a + Config.freeNat s.fresh, true)
    else (a, false)

/-- SEND: the elements as a VLD of this cycle reads them, on their way (R315), or behind a fence (R232). -/
def sendAct (ms peer b xc : Nat) : Act := fun s =>
  match s.b s.me b with
  | none => []
  | some bx =>
    let p := peerOf s ms peer
    let a := sendArrival s ms p
    let data := (xLanes s bx xc).flatMap (fun e => bytesOf bx.esize (hitVal s bx e.2))
    let met := meetHits bx ((xLanes s bx xc).map (·.2)) s
    let pk (at_ way held : Nat) : Pkt := ⟨0, s.me, p, 0, s.cycle, at_, ms == 1, 0, held, 0, way, data, none, 0, [], 0⟩
    if forkBlocked s s.me then
      [.newPkt (pk 0 (sendWay s ms p) 0), .core s.me (fun c => { c with heldPkt := c.heldPkt ++ [s.nid] })] ++ met
    else met ++ [.newPkt (pk a.1 (a.1 - s.cycle) (if a.2 then 1 else 0)), postU a.1 7 (.exchangeArrival s.nid)] ++ (if a.2 then [.fresh] else [])

/-- The far requests a sender has issued up to its SEND and that are still to be performed, with those it waits for itself:
the receiver's later accesses follow them (R317). -/
def afterU (s : State) (pk : Pkt) : List Upd :=
  let l := (s.reqs.filter (fun e => e.2.core == pk.src && e.2.op.isNone && e.2.st < 3 && e.2.issue ≤ pk.issue)).map (·.1) ++
    (s.core pk.src).after
  if l.isEmpty then [] else [.core s.me (fun c => { c with after := c.after ++ l })]

/-- RECV: the lanes written, visible from a + 2 (R315). -/
def recvAct (ms peer b xc : Nat) : Act := fun s =>
  match s.b s.me b, arrivalFor s ms peer with
  | some bx, some (k, pk) =>
    .delPkt k :: (emitStore (storeWrs s bx (xLanes s bx xc) (lanesOf (tySize bx.fmt) (accLanes bx 2) (natOf pk.data))) s ++
      afterU s pk)
  | _, _ => []

/-- Keys of the lanes' elements plus one; 0 where ZERO drops the lane. -/
def laneKeys (s : State) (bx : Box) (xc : Nat) : List Nat :=
  (xLanes s bx xc).map (fun e => match e.2 with
    | .elem i => (match bx.place s i true true with
        | .at_ .spad k => k + 1
        | _ => 0)
    | _ => 0)

/-- RECVOP: the old elements are read at a + 2, by the first of two results; it carries ENB in its flags (R315). -/
def recvopAct (ms peer b xc op rt : Nat) : Act := fun s =>
  match s.b s.me b, arrivalFor s ms peer with
  | some bx, some (k, pk) =>
    [.delPkt k, pushPend s.me { mkPend s 2 [] none (fmtEnb s.fmt) none
      (.recvop op rt bx.fmt (lanesOf (tySize bx.fmt) (accLanes bx 2) (natOf pk.data)) (laneKeys s bx xc) []
        (routineOf s (s.core s.me).ctx rt)) false with
        matrix := false }] ++ afterU s pk
  | _, _ => []

/-- Where the combining of a RECVOP stands: the elements combined so far by key, flags, its arithmetic fault's lane, and its
routine fault's record. -/
structure Combined where
  cells : Tab Nat
  flags : Nat
  lane : Option Nat
  stop : Option (List Nat)
  deriving DecidableEq, Repr

/-- The combining of a RECVOP, lane by lane: a lane reads what an earlier one left of its element (R315). A routine fault
ends it (R202). -/
def recvopCombine (s : State) (op rt fmt enb : Nat) (lanes keys olds r : List Nat) : Combined :=
  (List.range lanes.length).foldl (fun (a : Combined) i =>
    let k := keys.getD i 0
    if k == 0 || a.stop.isSome then a
    else
      let old := (tfind a.cells k).getD (olds.getD i 0)
      if op == 3 then
        let x := rtApply ⟨false, enb, false⟩ r [old, lanes.getD i 0]
        if x.why != 0 then { a with flags := a.flags ||| x.flags, stop := some (routineDetail s 4 rt i 0 [] x) }
        else { a with cells := tput a.cells k (x.q.getD 0 0), flags := a.flags ||| x.flags }
      else
        let c := combine op fmt old (lanes.getD i 0)
        { a with
          cells := tput a.cells k c.1
          flags := a.flags ||| c.2
          lane := match a.lane with
            | some l => some l
            | none => if c.2 &&& enb != 0 then some i else none }) ⟨[], 0, none, none⟩

/-- The old elements of a RECVOP's lanes, read now or held from an earlier attempt (R218, R367). -/
def recvopOlds (s : State) (fmt : Nat) (keys olds : List Nat) : List Nat :=
  if olds.isEmpty then keys.map (fun k => if k == 0 then 0 else s.turnNat .spad (k - 1) (tySize fmt / 8)) else olds

/-- The flipped bits a RECVOP's reading meets (R380). -/
def meetRecvop : Again → Act
  | .recvop _ _ fmt _ keys _ _ => fun s => if s.upsets.isEmpty then [] else
      findUpsets (s.upsets.filter (fun u => keys.any (fun k => k != 0 && upsetIn 0 (k - 1) (tySize fmt / 8) u))) s
  | _ => fun _ => []

/-- The second result of a RECVOP, three cycles after the read: its writes, or its fault (R315, R202). -/
def recvopSecond (s : State) (p : Pend) (enb vis : Nat) : Pend :=
  match p.again with
  | .recvop op rt fmt lanes keys olds rtn =>
    let old := recvopOlds s fmt keys olds
    let z := recvopCombine s op rt fmt enb lanes keys old rtn
    let bad (cause : Nat) (d : List Nat) : Pend := { p with
      vis := vis
      wr := []
      flags := z.flags
      again := .recvop op rt fmt lanes keys old rtn
      flt := some (deferredFlt cause 0 p.slot p.pc d) }
    match z.stop, z.lane with
    | some d, _ => bad 8 d
    | none, some i => bad 5 (arithDetail z.flags (some i))
    | none, none => { p with
      vis := vis
      wr := z.cells.map (fun e => .mem .spad (e.1 - 1) (bytesOf (tySize fmt / 8) e.2))
      flags := z.flags
      flt := none
      again := .rmw }
  | _ => p

/-- A RECVOP routine has arity two and one component, and F0 is the box's format (R72, R314). -/
def recvopRoutine (b op rt : Nat) : State → Option Flt := fun s =>
  let r := routineOf s (s.core s.me).ctx rt
  reasonIf s [(op == 3 && (!(routineOk r 8 true && rtArity r == 2 && rtComps r == 1) ||
    s.boxHas b (fun bx => rtF r 0 != bx.fmt)), 0xC)]

/-- EXCHANGE_ARRIVAL: an arrival no receive of this cycle took is a timing fault, and its data is discarded (R316). -/
def exchangeArrivalAct (k : Nat) : Act := fun s =>
  match tfind s.pkts k with
  | none => []
  | some p =>
    if p.kind != 0 || s.cycle < p.arrive || p.arrive ≤ p.issue then []
    else seqA [pureA [.delPkt k],
      dueFor p.dst (s.core p.dst).task (s.cycle + 1)
        (deferredFlt 0x1B 1 7 (s.core p.dst).pc (timingDetail p.src s.ctime (s.ctime - (s.cycle - p.issue)))) none false] s

/-! ### Timetables (R318 to R324) -/

/-- Entries of a timetable from an index to its END. -/
def ttWords (s : State) (k tt : Nat) : List (List Nat) :=
  match (s.ctx k).code with
  | none => []
  | some c =>
    let l := c.timetable.drop tt
    match l.findIdx? (fun e => (e.getD 2 0).testBit 31) with
    | some j => l.take (j + 1)
    | none => []

/-- An entry decoded (R319). -/
def ttEntry (w : List Nat) : TEnt where
  dt := w.getD 0 0
  port := bitsOf (w.getD 1 0) 28 4
  pcore := bitsOf (w.getD 1 0) 20 8
  peer := bitsOf (w.getD 1 0) 0 20
  dirIn := (w.getD 2 0).testBit 30
  pl := bitsOf (w.getD 2 0) 27 3
  nf := bitsOf (w.getD 2 0) 16 11
  u := bitsOf (w.getD 2 0) 0 16
  seq := bitsOf (w.getD 3 0) 0 16
  mark := 0
  got := []

/-- Fields in range and reserved bits 0. -/
def ttEntryOk (w : List Nat) : Bool :=
  let e := ttEntry w
  e.pcore < 160 && e.nf != 0 && w.getD 3 0 / 2 ^ 16 == 0

def ttarmLegal (tt : Nat) : State → Option Flt := fun s =>
  let l := ttWords s (s.core s.me).ctx tt
  reasonIf s [(l.isEmpty || !l.all ttEntryOk, 0xB)]

/-- TTARM's timetable fault: kind and entry (R320, R366). -/
def ttarmFault (xb tt : Nat) : State → Option Flt := fun s =>
  let n := s.me
  let es := (ttWords s (s.core n).ctx tt).map ttEntry
  let base := (s.x n xb).toNat
  let flt (kind e : Nat) : Option Flt := some (faultNow s 0x1C 0 [kind + e * 2 ^ 4])
  let find (p : TEnt → Bool) : Option Nat := es.findIdx? p
  if (s.core n).tt.isSome then flt 1 0
  else if base + ((es.map (·.dt)).headD 0) < s.ctime + 16 then flt 2 0
  else match find (fun e => (s.port e.port).mode != 1) with
    | some i => flt 3 i
    | none => match find (fun e => !(s.sr n (srPLAT0 + e.pl)).getLsbD 21) with
      | some i => flt 4 i
      | none => match find (fun e => !(s.port e.port).attested || (s.port e.port).peer != e.peer) with
        | some i => flt 5 i
        | none => none

/-- The cycle of a tick of the armed timetable. -/
def ttCycle (s : State) (t : Nat) : Nat := if t ≤ s.ctime then s.cycle else s.cycle + (t - s.ctime)

/-- TTARM: the entries are armed, with their events (R320 to R323). -/
def ttarmAct (xb tt : Nat) : Act := fun s =>
  let n := s.me
  let es := (ttWords s (s.core n).ctx tt).map ttEntry
  let base := (s.x n xb).toNat
  escapeU (s.core n).task ++
  [.core n (fun c => { c with
    tt := some ⟨base, es, issuePos s.cycle s.slot⟩
    ttDone := 0
    ttLate := 0
    ttMiss := 0
    ttStray := 0 })] ++
  (List.range es.length).flatMap (fun i =>
    match es[i]? with
    | none => []
    | some e =>
      if e.dirIn then [postU (ttCycle s (base + e.dt)) 6 (.ttEntryLate n i),
        postU (ttCycle s (base + e.dt + 65536)) 6 (.ttEntryMissing n i)]
      else [postU (ttCycle s (base + e.dt)) 6 (.ttOutEntry n i)])

/-- One entry changed. -/
def setEnt (n i : Nat) (f : TEnt → TEnt) : Upd := .core n (fun c => { c with
  tt := c.tt.map (fun t => { t with ents := (t.ents.zip (List.range t.ents.length)).map (fun e =>
    if e.2 == i then f e.1 else e.1) }) })

/-- The timetable ends when every entry is done or missing (R323). -/
def ttCheck (n : Nat) : Act := fun s =>
  match (s.core n).tt with
  | none => []
  | some t => if t.ents.all (fun e => e.mark == 1 || 3 ≤ e.mark) && !s.agenda.any (fun i => i.ev == .ttEnd n) then
      [postU s.cycle 6 (.ttEnd n)] else []

/-- A timetable flit leaves. -/
def ttFlit (n f : Nat) (e : TEnt) (bs : List Byte) : Act := fun s =>
  keepFlit ⟨6, n, e.pcore + e.peer * 2 ^ 8, e.port, 0, 0, false, e.seq, f, 1, 0, bs, none, 0, [], 0⟩ s

/-- TT_OUT_ENTRY: one 64 B unit a cycle, and each flit leaves as its four are read (R321, R410; DEDUCED, log 99). A fence
before its TTARM holds the thread (R216, R232). -/
def ttOutEntryAct (n i : Nat) : Act := fun s =>
  match (s.core n).tt with
  | none => []
  | some t => match t.ents[i]? with
    | none => []
    | some e =>
      let k := e.got.length / 64
      if e.dirIn || e.mark != 0 || s.cycle < ttCycle s (t.tbase + e.dt + k) then []
      else if fenceBlocks (s.core n) false 0 t.pos then [postU (s.cycle + 1) 6 (.ttOutEntry n i)]
      else
        let plat := s.sr n (srPLAT0 + e.pl)
        let got := e.got ++ (memGets s.spad (skey n (unitByte plat (e.u + k))) 64).map BitVec.toNat
        let flit : Act := whenA (fun _ => k % 4 == 3)
          (ttFlit n (k / 4) e (((got.drop (256 * (k / 4))).take 256).map (BitVec.ofNat 8)))
        if k + 1 < 4 * e.nf then seqA [
          meetU .spad (skey n (unitByte plat (e.u + k))) 64,
          pureA [setEnt n i (fun e => { e with got := got })], flit, pureA [postU (s.cycle + 1) 6 (.ttOutEntry n i)]] s
        else seqA [
          pureA ([setEnt n i (fun e => { e with
              got := []
              mark := 1 }),
            .core n (fun c => { c with ttDone := c.ttDone + 1 })]),
          flit,
          ttCheck n] s

/-- Flits of an entry that fall in a granule of the owner's scratchpad. -/
def flitsIn (plat : Word) (e : TEnt) (g : Nat) : List Nat :=
  (List.range e.nf).filter (fun f => (List.range 4).any (fun j => unitByte plat (e.u + 4 * f + j) / 1024 == g))

/-- Does a flit belong to an in entry? -/
def TEnt.takes (e : TEnt) (p : Pkt) : Bool :=
  e.dirIn && e.pcore + e.peer * 2 ^ 8 == p.src && e.port == p.port && e.seq == p.seq && p.num < e.nf

/-- TT_FLIT_ARRIVAL: a flit lands in its entry, or is a stray; one of a missing entry is only discarded (R322, R323, R411). -/
def ttFlitArrivalAct (k : Nat) : Act := fun s =>
  match tfind s.pkts k with
  | none => []
  | some p =>
    if p.kind != 1 then []
    else
      let n := p.dst
      let c := s.core n
      let hit := c.tt.bind (fun t => (t.ents.findIdx? (fun e => (e.mark == 0 || e.mark == 2) && e.takes p &&
        !e.got.contains p.num)).bind (fun i => (t.ents[i]?).map (fun e => (i, e))))
      match hit with
      | none => .delPkt k :: (if (c.tt.map (fun t => t.ents.any (fun e => e.mark == 4 && e.takes p))).getD false then []
          else [.core n (fun c => { c with ttStray := min (c.ttStray + 1) 0xFFFF })])
      | some (i, e) =>
        let plat := s.sr n (srPLAT0 + e.pl)
        let got := e.got ++ [p.num]
        let all := got.length == e.nf
        seqA [
          forA (List.range 4) (fun j => storeU c.task .spad (skey n (unitByte plat (e.u + 4 * p.num + j)))
            ((p.data.drop (64 * j)).take 64)),
          pureA ((if plat.getLsbD 20 then [] else
            -- the granules of a late entry keep their tags until its last flit lands (R411)
            ((if e.mark == 2 then (if all then (List.range (4 * e.nf)).map (fun j => unitByte plat (e.u + j) / 1024) else [])
              else (List.range 4).map (fun j => unitByte plat (e.u + 4 * p.num + j) / 1024)).eraseDups.filter (fun g =>
              (flitsIn plat e g).all got.contains)).map (fun g => Upd.tag n g (BitVec.ofNat 16 (wbits plat 32 16)))) ++
            [.delPkt k, setEnt n i (fun e => { e with
              got := got
              mark := if all then e.mark + 1 else e.mark })] ++
            (if all then [.core n (fun c => { c with ttDone := c.ttDone + 1 })] else [])),
          ttCheck n] s

/-- TT_ENTRY_LATE (R323). -/
def ttEntryLateAct (n i : Nat) : Act := fun s =>
  match (s.core n).tt with
  | none => []
  | some t => match t.ents[i]? with
    | none => []
    | some e => if e.dirIn && e.mark == 0 && t.tbase + e.dt ≤ s.ctime then
        [setEnt n i (fun e => { e with mark := 2 }), .core n (fun c => { c with ttLate := c.ttLate + 1 })] else []

/-- TT_ENTRY_MISSING (R323). -/
def ttEntryMissingAct (n i : Nat) : Act := fun s =>
  match (s.core n).tt with
  | none => []
  | some t => match t.ents[i]? with
    | none => []
    | some e => if e.dirIn && (e.mark == 0 || e.mark == 2) && t.tbase + e.dt + 65536 ≤ s.ctime then
        seqA [pureA [setEnt n i (fun e => { e with mark := 4 }), .core n (fun c => { c with ttMiss := c.ttMiss + 1 })],
          ttCheck n] s
      else []

/-- Four 16-bit fields to a word. -/
def pack16 : List Nat → List Nat
  | a :: b :: c :: d :: r => (a + b * 2 ^ 16 + c * 2 ^ 32 + d * 2 ^ 48) :: pack16 r
  | [] => []
  | l => [(l.getD 0 0) + (l.getD 1 0) * 2 ^ 16 + (l.getD 2 0) * 2 ^ 32]

/-- TT_END: the timetable is no longer armed; late or missing entries and strays are a timetable fault (R323, R366). -/
def ttEndAct (n : Nat) : Act := fun s =>
  match (s.core n).tt with
  | none => []
  | some t =>
    if !t.ents.all (fun e => e.mark == 1 || 3 ≤ e.mark) then []
    else
      let bad := (t.ents.zip (List.range t.ents.length)).filterMap (fun e =>
        if e.1.mark == 3 then some (e.2 + 2 ^ 12) else if e.1.mark == 4 then some (e.2 + 2 ^ 13) else none)
      let stray := (s.core n).ttStray
      let words := pack16 (bad.take 24)
      let d := [bad.length * 2 ^ 16 + stray * 2 ^ 32] ++ words ++ List.replicate (6 - words.length) 0 ++
        [if 24 < bad.length then Config.freeNat s.fresh else 0]
      .core n (fun c => { c with tt := none }) ::
      (if 24 < bad.length then [areaU (s.core n).ctx (d.getD 7 0) bad] else []) ++
      (if bad.isEmpty && stray == 0 then [] else .fresh ::
        dueFor n (s.core n).task s.cycle (deferredFlt 0x1C 0 7 (s.core n).pc d) none false s)

/-! ### LSEND (R325, R326): boxes [destination, source, counter] -/

def lsendLegal (bd bs bc : Nat) : State → Option Flt := fun s => reasonIf s [
  (s.boxHas bd (fun d => d.tier != 5 || s.boxHas bs (fun a => a.fmt != d.fmt || a.ext != d.ext) ||
      s.boxHas bc (fun c => c.home != d.home)) ||
    s.boxHas bs (fun a => a.tier != 1) || s.boxHas bc (fun c => c.tier != 5 || c.fmt != 11 || c.rank != 1), 0xB)]

/-- Bytes of a box's elements in linear order. -/
def boxBytes (b : Box) : Nat := if b.fmt == 5 then (b.count + 1) / 2 else b.count * b.esize

/-- LSEND; behind a fence its reads wait (R232). -/
def lsendAct (bd bs bc : Nat) : Act := fun s =>
  let n := s.me
  match s.b n bd, s.b n bs, s.b n bc with
  | some d, some a, some c =>
    let m := (boxBytes a + 63) / 64
    let held := forkBlocked s n
    escapeU (s.core n).task ++
    [.newOp { mkOp s .lsend [d, a, c] [] with
        st := if held then .waiting else .running
        phase := if held then 9 else 0
        start := s.cycle + 1
        total := m
        fin := s.cycle + 1 + m },
      .core n (fun x => { x with lsOut := x.lsOut + 1 })] ++
    (if held then [] else [postU (s.cycle + 1 + m) 2 (.lsendReadCompletion s.nid)])
  | _, _, _ => []

/-- The bytes of elements from `lo` on, as a flit carries them. -/
def elemBytes (s : State) (p : Op) (b : Box) (lo n : Nat) : List Byte :=
  if b.fmt == 5 then (List.range ((n + 1) / 2)).map (fun j =>
    BitVec.ofNat 8 (readElem s p b (b.at (lo + 2 * j)) + 16 * (if 2 * j + 1 < n then readElem s p b (b.at (lo + 2 * j + 1)) else 0)))
  else (List.range n).flatMap (fun j => bytesOf b.esize (readElem s p b (b.at (lo + j))))

/-- The port by which flits for a device leave: its pod route's, or the first long-haul port. -/
def portTo (s : State) (dv : Nat) : Nat :=
  if podOf dv == s.dev.pod then (routeOf s (memberOf dv)).2.2
  else ((List.range 16).find? (fun k => (s.port k).mode == 2)).getD 0

/-- A new LSEND flit: to this device's memory, on its way by a port, or waiting where the retry buffer is full (R312). -/
def lsendSend (p : Pkt) : Act := fun s =>
  let k := s.nid
  let q := s.port p.port
  if p.dst == s.dev.ident then [.newPkt p, .fresh, postU (s.cycle + 1 + Config.freeNat s.fresh) 2 (.lsendFlitDelivery k)]
  else if q.mode != 2 then .newPkt p :: flitU k p s
  else if 2 ^ 20 ≤ q.retry.length then
    [.newPkt p, .dev (fun d => { d with ports := tput d.ports p.port { q with waits := q.waits ++ [k] } })]
  else [.newPkt p, .dev (fun d => { d with ports := tput d.ports p.port { q with retry := q.retry ++ [k] } })] ++ flitU k p s

/-- LSEND_READ_COMPLETION: the source has been read; its flits leave, or wait where a retry buffer is full (R312, R325). -/
def lsendReadCompletionAct (o : Nat) : Act := fun s =>
  match tfind s.ops o with
  | none => []
  | some p =>
    if p.kind != .lsend || p.st != .running || s.cycle < p.fin then []
    else
      let d := p.boxes.getD 0 p.src
      let a := p.boxes.getD 1 d
      let bytes := elemBytes s p a 0 a.count
      let nf := (bytes.length + 255) / 256
      seqA [
        pureA [.op o (fun q => { q with st := .done })],
        meetBox a,
        forA (List.range nf) (fun f => fun s => lsendSend ⟨2, p.core, d.home, portTo s d.home, s.cycle, s.cycle, false, 0, f, o, 0,
          (bytes.drop (256 * f)).take 256, none, 0, [d, p.boxes.getD 2 d], s.dev.ident + p.core * 2 ^ 20⟩ s),
        whenA (fun _ => nf == 0) (pureA [postU s.cycle 2 (.lsendRetire o)])] s

/-- The box of a remote handle on this device: its own range table translates it (R239). -/
def Box.landed (b : Box) : Box := { b with tier := 3, home := b.org % 64, org := b.org / 64, key := b.key, rd := true, wr := true }

/-- A flit of this device acknowledged: it is forgotten, the next that waited for its place in the retry buffer leaves, and
the last one retires its LSEND (R312, R326). -/
def flitDone (k : Nat) (p : Pkt) : Act := fun s =>
  let q := s.port p.port
  let next := if q.retry.contains k then q.waits.head? else none
  .delPkt k ::
  (if q.retry.contains k then [.dev (fun d => { d with
      ports := tput d.ports p.port { q with
        retry := q.retry.filter (· != k) ++ next.toList
        waits := q.waits.drop 1 } })] else []) ++
  (match next.bind (fun w => (tfind s.pkts w).map (fun x => (w, x))) with
    | some w => flitU w.1 w.2 s
    | none => []) ++
  (if s.pkts.any (fun e => e.1 != k && e.2.kind == 2 && e.2.op == p.op) then [] else [postU s.cycle 2 (.lsendRetire p.op)])

/-- The landing of a flit: boxes [destination, counter]; par [0, flit]. -/
def landOp (s : State) (k : Nat) (p : Pkt) : Op :=
  let d := (p.boxes.getD 0 (mkOp s .land [] []).src).landed
  { mkOp s .land [d, (p.boxes.getD 1 d).landed] [0, k] with
    core := 160
    task := ((tfind s.ops p.op).map (·.task)).getD 0
    st := .running }

/-- A flit's elements at its destination. -/
def landData (o : Nat) (p : Pkt) (d : Box) : Act :=
  let per := if d.fmt == 5 then 512 else 256 / d.esize
  forA (List.range (min per (d.count - per * p.num))) (fun j =>
    let bits := if d.fmt == 5 then natOf ((p.data.drop (j / 2)).take 1) / (if j % 2 == 0 then 1 else 16) % 16
      else natOf ((p.data.drop (j * d.esize)).take d.esize)
    writeElem o ⟨j, 0, false⟩ d (d.at (per * p.num + j)) bits)

/-- LSEND_FLIT_DELIVERY: a flit for another device, an LSEND's or a copy's (kind 7), goes on by this one's table (R414). At
this device's memory the data is written first; an LSEND's bytes are then counted by the counter's turntable, and it is
acknowledged (R325, R326). -/
def lsendFlitDeliveryAct (k : Nat) : Act := fun s =>
  match tfind s.pkts k with
  | none => []
  | some p =>
    let copy := p.kind == 7
    if p.kind != 2 && !copy then []
    else if p.dst != s.dev.ident then
      (if !copy && p.prod % 2 ^ 20 == s.dev.ident then []
       else seqA [pureA [.delPkt k], keepFlit { p with
          port := portTo s p.dst
          seq := if copy then p.seq else p.op
          op := if copy then 3 else 2
          tries := 0 }] s)
    else match s.ops.find? (fun e => e.2.kind == .land && e.2.par == [0, k]) with
      | none =>
        let o := landOp s k p
        seqA [pureA [.newOp o],
          if copy then writeUW s.nid ⟨0, 0, false⟩ o.src o.src (.raw p.num p.data) else landData s.nid p o.src,
          landStep s.nid] s
      | some (o, q) =>
        if q.reqs != 0 || !q.outs.isEmpty then []
        else if copy then [.delOp o, .delPkt k]
        else if q.phase == 0 && 1 < p.boxes.length then seqA [
          pureA [.op o (fun q => { q with phase := 1 })],
          sendCount o q.dst p.prod p.data.length,
          fun s => if ((tfind s.ops o).map (·.reqs)) == some 0 then [postU s.cycle 2 (.lsendFlitDelivery k)] else []] s
        else .delOp o :: (if p.prod % 2 ^ 20 == s.dev.ident then flitDone k p s
          else .delPkt k :: flitU 0 { p with
            kind := 6
            dst := p.prod % 2 ^ 20
            seq := p.op
            op := 4
            data := [] } s)

/-- FAR_END_ACKNOWLEDGEMENT (R312). -/
def farEndAckAct (port k : Nat) : Act := fun s =>
  match tfind s.pkts k with
  | none => []
  | some p =>
    if p.port != port then []
    else if p.kind == 6 then [.delPkt k]
    else if p.kind == 2 && p.dst != s.dev.ident && !p.mesh then flitDone k p s else []

/-- LSEND_RETIRE: every flit has been acknowledged (R326). -/
def lsendRetireAct (o : Nat) : Act := fun s =>
  match tfind s.ops o with
  | none => []
  | some p =>
    if p.kind != .lsend || p.st != .done || s.pkts.any (fun e => e.2.kind == 2 && e.2.op == o) then []
    else [.delOp o, .core p.core (fun c => { c with
      lsOut := c.lsOut - 1
      lsDone := if c.task == some p.task then c.lsDone + 1 else c.lsDone })]

/-- A flit of this device that has left by a port. -/
def sentBy (s : State) (port k : Nat) : Option Pkt :=
  (tfind s.pkts k).bind (fun p => if (p.kind == 6 || (p.kind == 2 && p.dst != s.dev.ident)) && p.port == port then some p else none)

/-- LINK_FLIT_RESEND: a flit of a short-reach port that failed its check is resent once, then dropped (R311). The LSEND of a
dropped flit stays outstanding, and the supervisor receives a link event (R326). -/
def linkFlitResendAct (port k : Nat) : Act := fun s =>
  if (s.port port).mode != 1 then []
  else resendU port :: (match sentBy s port k with
    | none => []
    | some p =>
      if p.tries == 0 then .pkt k (fun p => { p with tries := 1 }) :: flitU k p s
      else if p.kind == 2 then [.pkt k (fun p => { p with mesh := true }), supEvent evLink port]
      else [.delPkt k])

/-- FRAME_RETRY: a long-haul frame whose tag failed is dropped and counted, its flit resent from the buffer (R312). -/
def frameRetryAct (port k : Nat) : Act := fun s =>
  if (s.port port).mode != 2 then []
  else resendU port :: (match sentBy s port k with
    | none => []
    | some p => .pkt k (fun p => { p with tries := p.tries + 1 }) :: flitU k p s)

/-! ### COLL (R327 to R330): boxes [destination, source, counter, residual];
par [KIND, OP, RT, WIRE, ROOT, REC, SC, BIN, BR]. Phases: 0 issued, 7 its residual being read, 6 ready, 1 its group about to
combine, 2 its result on the way, 4 its residual being written, 9 held by a fence. -/

/-- Words of the descriptor. -/
def collWords (s : State) (q : Box) : List Nat := (List.range 8).map (fun w => ((q.elemIdx w).bind (q.read s)).getD 0)

/-- The level a scope code names (R306). -/
def scopeLevel (sc : Nat) : Nat := if sc == 1 then 0 else if sc == 2 then 1 else if sc == 3 then 2 else if sc == 5 then 3 else 4

def wireAt (wire l : Nat) : Nat := bitsOf wire (4 * l) 4

/-- Extents that fit KIND (R328), for members here and on any number of other devices (log 76). -/
def collExt (kind m : Nat) (more : Bool) (a b : Box) : Bool :=
  let times (big small : Nat) : Bool := if more then big % (m * small) == 0 else big == m * small
  a.rank == b.rank && a.ext.tail == b.ext.tail &&
    (match kind with
      | 1 => times (a.ext.headD 0) (b.ext.headD 0)
      | 2 => times (b.ext.headD 0) (a.ext.headD 0)
      | _ => a.ext.headD 0 == b.ext.headD 0)

/-- What a descriptor may not hold (R328). -/
def collBad (s : State) (bd bs : Nat) (sc bin : Nat) (q : Box) : Bool :=
  let w := collWords s q
  let w0 := w.getD 0 0
  let kind := bitsOf w0 0 2
  let op := bitsOf w0 2 2
  let lv := scopeLevel sc
  let codes := (List.range 5).map (wireAt (w.getD 1 0))
  let rv := (w.getD 3 0).testBit 4
  let m := (membersAt s s.me (min lv 2)).length
  w0 / 2 ^ 10 != 0 || w.getD 1 0 / 2 ^ 20 != 0 || w.getD 3 0 / 2 ^ 5 != 0 || bitsOf (w.getD 4 0) 4 4 != 0 ||
  (w.drop 5).any (· != 0) || (List.range 5).any (fun l => 4 < wireAt (w.getD 1 0) l) ||
  codes.any (fun c => (c == 0) != (bin == 1)) ||
  (List.range 5).any (fun l => wireAt (w.getD 1 0) l == 3 && (l < 3 || 1 < kind || op != 0 || !rv ||
    s.boxHas bs (fun a => a.count % 16384 != 0))) ||
  (op == 3 && codes.any (fun c => c != 1 && c != 4)) ||
  (rv && s.boxHas (bitsOf (w.getD 3 0) 0 4) (fun r => r.tier != 3 || r.fmt != 0 || !r.rd || !r.wr ||
    s.boxHas bs (fun a => r.count != a.count))) ||
  s.boxHas bs (fun a => s.boxHas bd (fun b => !collExt kind m (3 ≤ lv) a b))

/-- COLL's legality (R328). A routine is checked by R72 with the collective engine's limits; that it has one component and
both inputs of one format is not in R189's table, which has no row for COLL: such a routine is refused with 0xC (DESIGN
CHOICE, log 75). -/
def collLegal (bd bs bq sc bin : Nat) : State → Option Flt := fun s =>
  reasonIf s [
    (s.boxHas bs (fun a => a.tier != 1) || s.boxHas bd (fun b => b.tier != 1) ||
      s.boxHas bq (fun q => q.tier != 1 || q.fmt != 11 || q.rank != 1 || q.ext.headD 0 < 8 || collBad s bd bs sc bin q), 0xB),
    (s.boxHas bq (fun q =>
      let w0 := (collWords s q).getD 0 0
      let rt := routineOf s (s.core s.me).ctx (bitsOf w0 4 6)
      bitsOf w0 2 2 == 3 && !(routineOk rt 8 true && routinePair rt && rtComps rt == 1)), 0xC)]

def collFault (bd bs bq sc : Nat) : State → Option Flt :=
  andThen (fun s => if domLvl s s.me < scopeLevel sc then some (faultNow s 0x1A 0 []) else none)
    (andThen (rightsBar [(bs, true, false), (bq, true, false), (bd, false, true)]) (andThen (loanBar [bs, bd, bq])
      (needBox bq (fun s q =>
        let w := collWords s q
        -- its counter and its residual, which may be on loan too (R295)
        let regs := bitsOf (w.getD 4 0) 0 4 :: (if (w.getD 3 0).testBit 4 then [bitsOf (w.getD 3 0) 0 4] else [])
        match firstFlt (fun k => needBox k (fun _ _ => none) s) regs with
        | some f => some f
        | none => loanBar regs s))))

def collAct (bd bs bq sc bin rm : Nat) : Act := fun s =>
  let n := s.me
  match s.b n bd, s.b n bs, s.b n bq with
  | some b, some a, some q =>
    let w := collWords s q
    let w0 := w.getD 0 0
    let cnt := (s.b n (bitsOf (w.getD 4 0) 0 4)).getD q
    let res := if (w.getD 3 0).testBit 4 then (s.b n (bitsOf (w.getD 3 0) 0 4)).toList else []
    let k := tget 0 (s.core n).collSeq sc
    let seq := s.sr n srRBSEQ
    (if scopeLevel sc < 3 then [] else escapeU (s.core n).task) ++
    [.newOp { mkOp s .coll ([b, a, cnt] ++ res)
        [bitsOf w0 0 2, bitsOf w0 2 2, bitsOf w0 4 6, w.getD 1 0, w.getD 2 0, w.getD 4 0 / 2 ^ 8, sc, bin,
          bitsOf (w.getD 3 0) 0 4, bitsOf (w.getD 3 0) 4 1, bitsOf (w.getD 4 0) 0 4] with
        rm := rm
        tick := k
        seq := seq.toNat
        rtn := if bitsOf w0 2 2 == 3 then routineOf s (s.core n).ctx (bitsOf w0 4 6) else []
        phase := if forkBlocked s n then 9 else 0 },
      .core n (fun c => { c with
        collQ := c.collQ + 1
        collSeq := tput c.collSeq sc (k + 1) })] ++
    (if rm == 4 then [.sr n srRBSEQ (seq + 1)] else [])
  | _, _, _ => []

/-- The level of a COLL, and its level on this device. -/
def Op.level (p : Op) : Nat := scopeLevel (p.par.getD 6 0)

/-- The operations of one collective on this device: the members' k-th COLLs at a scope, by rank. -/
def collGroup (s : State) (p : Op) : List (Nat × Op) :=
  (membersAt s p.core (min p.level 2)).filterMap (fun m =>
    s.ops.find? (fun e => e.2.kind == .coll && e.2.core == m && e.2.tick == p.tick && e.2.par.getD 6 0 == p.par.getD 6 0))

/-- Has every member issued its COLL, with no fence before it? -/
def collReady (s : State) (p : Op) : Bool :=
  let g := collGroup s p
  g.length == (membersAt s p.core (min p.level 2)).length && g.all (fun e => e.2.phase != 9) && !memberAway s p.core p.level

/-- Earlier collectives of a core are run in issue order (R330). -/
def collFirst (s : State) (o : Nat) (p : Op) : Bool :=
  !s.ops.any (fun e => e.1 < o && e.2.kind == .coll && e.2.core == p.core)

/-- Does a level use the .qc4 wire? -/
def collQc4 (p : Op) : Bool := (List.range (p.level + 1)).any (fun l => wireAt (p.par.getD 3 0) l == 3)

/-- The residual box, where a level of the collective uses it (R329). -/
def Op.residual (p : Op) : Option Box := if collQc4 p then p.boxes[3]? else none

/-- What bars a member at its start (R215, R236, R356): its residual's mapping, page kinds and seals. -/
def collBar (s : State) (p : Op) : Option Flt :=
  match p.residual with
  | none => none
  | some r =>
    let named (f : Flt) : Flt := { f with detail := f.detail.set 0 (p.par.getD 8 0) }
    match boxBar s p 3 r false false with
    | some f => some (named f)
    | none => match boxBar s p 3 r true false with
      | some f => some (named f)
      | none => (sealBroken s r ((List.range r.count).map (fun l => r.span (r.at l)))).map (opFlt p 0x22)

/-- A member starts: its residual is read by requests first (R330, R415). -/
def collStart (o : Nat) : Act := fun s =>
  match tfind s.ops o with
  | none => []
  | some p => match collBar s p with
    | some f => seqA [pureA (collEnd o p ++ integrityU f), opTrap p s.cycle f] s
    | none => seqA [
        pureA [.op o (fun q => { q.mapped s with
          st := .running
          start := s.cycle
          phase := if p.residual.isSome then 7 else 6 })],
        meetBox (p.boxes.getD 1 p.src),
        whenA (fun _ => p.residual.isSome) (landStep o)] s

/-- Collectives that every member has issued run: when all have read their residuals, then after a free time their data is
read (log 10). -/
def collScan : Act := fun s =>
  forA (s.ops.filter (fun e => e.2.kind == .coll && e.2.flt.isNone)) (fun e => fun s =>
    match tfind s.ops e.1 with
    | none => []
    | some p =>
      let g := collGroup s p
      if p.st == .waiting then
        (if !collReady s p || !g.all (fun x => collFirst s x.1 x.2) then [] else forA (g.map (·.1)) collStart s)
      else if p.phase != 6 || !g.all (fun x => x.2.phase == 6) || g.length != (membersAt s p.core (min p.level 2)).length then []
      else g.map (fun x => Upd.op x.1 (fun q => { q with phase := 1 })) ++
        [.fresh, postU (s.cycle + 2 + Config.freeNat s.fresh) 2 (.collDelivery (g.headD e).1)]) s

/-- A member's random bits for element e at its hop. -/
def collBits (p : Op) (e : Nat) : Nat := engBits p 2 e

/-! A working element carries the flags its value has raised so far, from bit 32 on. -/

def el (v flags : Nat) : Nat := v % 2 ^ 32 + flags * 2 ^ 32
def elV (x : Nat) : Nat := x % 2 ^ 32
def elF (x : Nat) : Nat := x / 2 ^ 32

/-- One hop: a partial encoded in the level's wire format and decoded exactly (R329). `t` is the working type, `base` the
first element's index. -/
def wireHop (code t : Nat) (p : Op) (base : Nat) (xs : List Nat) : List Nat :=
  match code with
  | 1 => (List.range xs.length).map (fun e =>
      let x := xs.getD e 0
      let w := fConvert 1 (fDecode 0 (elV x)) p.rm (collBits p (base + e)) false
      el (fConvert 0 (fDecode 1 w.1) 0 0 false).1 (elF x ||| w.2))
  | 2 => (List.range (blocks32 xs.length)).flatMap (fun b =>
      let l := (xs.drop (32 * b)).take 32
      let r := e8Block 3 p.rm ((List.range l.length).map (fun j =>
        some (fDecode 0 (elV (l.getD j 0)), collBits p (base + 32 * b + j))))
      (List.range l.length).map (fun j =>
        let c := ((r.1.getD j none).getD (0, 0))
        let v := if r.2.1 == 0xFF then defaultNan 0
          else match fDecode 3 c.1 with
            | .fin s m e => (fConvert 0 (.fin s m (e + r.2.1 - 127)) 0 0 false).1
            | v => (fConvert 0 v 0 0 false).1
        el v (elF (l.getD j 0) ||| c.2 ||| if j == 0 then r.2.2 else 0)))
  | _ => xs.map (fun x => el (elV x % 2 ^ tySize t) (elF x))

/-- One .qc4 hop of a member with its residual: the decoded partial, and the residual after it (R329). -/
def qc4Hop (p : Op) (g r : List Nat) : List Nat × List Nat :=
  let ys := (List.range g.length).map (fun e => fAddV 0 (fDecode 0 (elV (g.getD e 0))) (fDecode 0 (r.getD e 0)) 0 false)
  let recs := (List.range (g.length / 16384)).map (fun k =>
    qc4Group p.rm (((ys.drop (16384 * k)).take 16384).map (fun y => fDecode 0 y.1)) (fun j => collBits p (16384 * k + j)))
  let out := (List.range g.length).map (fun e =>
    let rc := recs.getD (e / 16384) ([], 0, [])
    let j := e % 16384
    let y := ys.getD e (0, 0)
    let dq := qc4Decode 0 (natOf (rc.1.take 4)) (rc.1.getD (4 + j / 64) 0).toNat
      ((rc.1.getD (260 + j / 2) 0).toNat / (if j % 2 == 0 then 1 else 16) % 16) false
    let nv := fAddV 0 (fDecode 0 y.1) (fDecode 0 dq.1).negate 0 false
    let fl := elF (g.getD e 0) ||| y.2 ||| dq.2 ||| nv.2 ||| (if rc.2.2.isEmpty then (if j == 0 then rc.2.1 else 0)
      else if j % 64 == 0 then rc.2.2.getD (j / 64) 0 else 0)
    (el dq.1 fl, nv.1))
  (out.map (·.1), out.map (·.2))

/-- Combine two partials elementwise (R197, R329). -/
def collComb (p : Op) (t base : Nat) : Comb := fun u v a =>
  (List.range u.length).foldl (fun (x : List Nat × Apps) e =>
    if x.2.flt.isSome then x
    else
      let a := u.getD e 0
      let b := v.getD e 0
      if p.par.getD 1 0 == 3 then
        let f := rtF p.rtn 0
        let inp (w : Nat) : Nat × Nat := if f == t then (elV w, 0) else convertElem t f (elV w) 0 0 false
        let i := inp a
        let j := inp b
        let r := appNext ⟨false, p.enb, false⟩ p.rtn [i.1, j.1] x.2
        let o := if f == t then (r.1.headD 0, 0) else convertElem f t (r.1.headD 0) 0 0 false
        (x.1 ++ [el o.1 (elF a ||| elF b ||| i.2 ||| j.2 ||| o.2)], if r.2.flt.isSome then { r.2 with elem := base + e } else r.2)
      else
        let r := combine (p.par.getD 1 0) t (elV a) (elV b)
        (x.1 ++ [el r.1 (elF a ||| elF b ||| r.2)], x.2)) ([], a)

/-- The tree over the partials of one level. At a fault the leaf is the rank, in the level, of input 1's first one (R202). -/
def collTree (p : Op) (t base : Nat) (l : List (List Nat)) (a : Apps) : List Nat × Apps :=
  if a.flt.isSome then (l.headD [], a)
  else
    let r := foldTree (collComb p t base) (l.length + 1) l { a with nodes := [] }
    if r.2.flt.isSome then (r.1, { r.2 with leaf := leafOf (l.length + 1) 0 l.length (r.2.k - a.k) }) else r

/-- The group of a core at a level: its quad, its die, the device. -/
def levelKey (l n : Nat) : Nat := if l == 0 then n / 40 * 10 + quadOf' n else if l == 1 then n / 40 else 0

/-- Reduce the partials of one level, each group by its tree over rank; a lone member is passed on. -/
def collLevel (lead : Op) (t l base : Nat) (ps : List (Nat × Op × List Nat)) (a : Apps) :
    List (Nat × Op × List Nat) × Apps :=
  ((ps.map (fun e => levelKey l e.1)).eraseDups).foldl (fun (x : List (Nat × Op × List Nat) × Apps) k =>
    let g := ps.filter (fun e => levelKey l e.1 == k)
    match g with
    | [] => x
    | [e] => (x.1 ++ [e], x.2)
    | e :: _ =>
      let r := collTree lead t base (g.map (fun e => wireHop (wireAt (lead.par.getD 3 0) l) t e.2.1 base e.2.2)) x.2
      (x.1 ++ [(e.1, e.2.1, r.1)], r.2)) ([], a)

/-- Do two members agree on everything (R330)? -/
def collAgree (p q : Op) : Bool :=
  p.par == q.par && p.rm == q.rm &&
    (p.boxes.getD 0 p.src).ext == (q.boxes.getD 0 q.src).ext && (p.boxes.getD 0 p.src).fmt == (q.boxes.getD 0 q.src).fmt &&
    (p.boxes.getD 1 p.src).ext == (q.boxes.getD 1 q.src).ext && (p.boxes.getD 1 p.src).fmt == (q.boxes.getD 1 q.src).fmt

/-- The working type: .f32, or the integer format of the source where every level is native. -/
def collType (p : Op) : Nat :=
  let f := (p.boxes.getD 1 p.src).fmt
  if !tyFloat f && (List.range (p.level + 1)).all (fun l => wireAt (p.par.getD 3 0) l == 4) then f else 0

/-- A member's source in working form; a resumed collective keeps what it read (R203). -/
def collRead (s : State) (p : Op) : List Nat :=
  let a := p.boxes.getD 1 p.src
  let t := collType p
  if !p.acc.isEmpty then p.acc
  else (List.range a.count).map (fun l =>
    let v := readElem s p a (a.at l)
    if t == a.fmt then el v 0
    else
      let w := convertElem a.fmt t v 0 0 false
      el w.1 w.2)

/-- The residual of a member as it was read. -/
def collResidual (s : State) (p : Op) : List Nat :=
  match p.residual with
  | some r => (List.range r.count).map (fun l => readElem (p.view s) p r (r.at l))
  | none => []

/-! The levels above the device. How many devices and pods a domain spans, where this one stands among them, and what they
send are not known here: they are free, the counts and ranks one for each domain (log 76). -/

/-- The groups of a level above the device, and this one's rank. -/
def groupsAt (s : State) (n l : Nat) : Nat × Nat :=
  let k := 2 ^ 40 + 8 * wbits (s.sr n srDOMAIN) 0 32 + 2 * l
  let m := Config.freeNat k % 1024 + 1
  (m, Config.freeNat (k + 1) % m)

/-- Working element e as group j of a level sends it to collective o, whose number stands for all it draws. -/
def sentAt (o t l j e : Nat) : Nat :=
  el ((Config.freeBits 32 ((o + 1) * 2 ^ 100 + ((l * 2 ^ 20 + j) * 2 ^ 32 + e))).toNat % 2 ^ tySize t) 0

/-- One level above the device: this group's partial in its wire format among those of the others. The partials that met a
.qc4 wire are kept for the members' residuals. -/
def collAbove (s : State) (o : Nat) (lead : Op) (t base l : Nat) (res : List Nat) (x : List Nat × Apps × List (List Nat)) :
    List Nat × Apps × List (List Nat) :=
  let (m, rank) := groupsAt s lead.core l
  if m ≤ 1 then x
  else
    let code := wireAt (lead.par.getD 3 0) l
    let own := if code == 3 then (qc4Hop lead x.1 ((x.2.2.foldl (fun r g => (qc4Hop lead g r).2) res))).1
      else wireHop code t lead base x.1
    let r := collTree lead t base ((List.range m).map (fun j => if j == rank then own
      else (List.range x.1.length).map (fun e => sentAt o t l j (base + e)))) x.2.1
    (r.1, r.2, if code == 3 then x.2.2 ++ [x.1] else x.2.2)

/-- A reduction through all levels, from element `base` on. -/
def collReduce (s : State) (o : Nat) (lead : Op) (t base : Nat) (res : List Nat) (reads : List (Nat × Op × List Nat)) (a : Apps) :
    List Nat × Apps × List (List Nat) :=
  let r := (List.range (min lead.level 2 + 1)).foldl (fun (x : List (Nat × Op × List Nat) × Apps) l =>
    collLevel lead t l base x.1 x.2) (reads, a)
  (List.range (lead.level - 2)).foldl (fun x i => collAbove s o lead t base (3 + i) res x) ((r.1.headD (0, lead, [])).2.2, r.2, [])

/-- Members of the whole collective, and the rank of this device's first. -/
def collRanks (s : State) (g : List (Nat × Op)) (lead : Op) : Nat × Nat :=
  let m := g.length
  if lead.level < 3 then (m, 0)
  else
    let a := lead.boxes.getD 1 lead.src
    let b := lead.boxes.getD 0 lead.src
    let (m3, r3) := groupsAt s lead.core 3
    let (m4, r4) := if lead.level < 4 then (1, 0) else groupsAt s lead.core 4
    -- the extents give the count where they depend on it
    let total := if lead.par.getD 0 0 == 1 then a.ext.headD 1 / max 1 (b.ext.headD 1)
      else if lead.par.getD 0 0 == 2 then b.ext.headD 1 / max 1 (a.ext.headD 1) else m * m3 * m4
    (total, (r4 * m3 + r3) * m % max 1 total)

/-- The result every member receives, the flags and a routine fault, and the partials that met a .qc4 wire (R329). A routine
runs element by element, so that a fault leaves the elements before it done (R202). -/
def collResult (s : State) (g : List (Nat × Op)) (lead : Op) : List Nat × Apps × List (List Nat) :=
  let t := collType lead
  let kind := lead.par.getD 0 0
  let wire := lead.par.getD 3 0
  let o := (g.headD (0, lead)).1
  let reads := g.map (fun e => (e.2.core, e.2, collRead s e.2))
  let (total, first) := collRanks s g lead
  let hopAll (p : Op) (n : Nat) (xs : List Nat) : List Nat :=
    (List.range (lead.level + 1)).foldl (fun xs l =>
      let alone := if l < 3 then (membersAt s n l).length ≤ 1 ||
          (0 < l && (membersAt s n l).length == (membersAt s n (l - 1)).length)
        else (groupsAt s n l).1 ≤ 1
      if alone then xs else wireHop (wireAt wire l) t p 0 xs) xs
  match kind with
  | 2 =>
    let hs := reads.map (fun e => hopAll e.2.1 e.1 e.2.2)
    -- concatenated along dimension 0: rank j holds positions j·e0 to j·e0 + e0 − 1 of every fiber
    let a := lead.boxes.getD 1 lead.src
    let e0 := a.ext.headD 1
    ((List.range (total * a.count)).map (fun l =>
      let j := l % (total * e0) / e0
      let i := l / (total * e0) * e0 + l % e0
      if first ≤ j && j < first + g.length then (hs.getD (j - first) []).getD i 0 else sentAt o t 0 j i), Apps.start, [])
  | 3 =>
    let r := lead.par.getD 4 0
    if first ≤ r && r < first + g.length then
      let root := reads.getD (r - first) (0, lead, [])
      (hopAll root.2.1 root.1 root.2.2, Apps.start, [])
    else ((List.range (lead.boxes.getD 1 lead.src).count).map (fun e => sentAt o t 0 r e), Apps.start, [])
  | _ =>
    let n := (reads.headD (0, lead, [])).2.2.length
    if lead.par.getD 7 0 == 1 && lead.par.getD 1 0 == 0 then
      ((List.range n).map (fun e =>
        let own := reads.map (fun m => m.2.2.getD e 0)
        let far := (List.range (total - g.length)).map (fun j => sentAt o t 0 j e)
        let r := binSum ((own ++ far).map (fun x => fDecode 0 (elV x)))
        el r.1 (own.foldl (fun f x => f ||| elF x) r.2)), lead.apps, [])
    else if lead.par.getD 1 0 == 3 then
      (List.range n).foldl (fun (x : List Nat × Apps × List (List Nat)) e =>
        if x.2.1.flt.isSome then x
        else
          let r := collReduce s o lead t e [] (reads.map (fun m => (m.1, m.2.1, [m.2.2.getD e 0]))) x.2.1
          (x.1 ++ r.1, r.2.1, [])) ([], lead.apps, [])
    else collReduce s o lead t 0 (collResidual s lead) reads lead.apps

/-- The element of the result that position l of a member's destination takes; `rank` is its rank in the whole collective. -/
def collIdx (p : Op) (rank l : Nat) : Nat :=
  let b := p.boxes.getD 0 p.src
  if p.par.getD 0 0 == 1 then
    let e0 := b.ext.headD 1
    l / e0 * (p.boxes.getD 1 b).ext.headD 1 + rank * e0 + l % e0
  else l

/-- The part of the result a member's destination takes. -/
def collPart (p : Op) (rank : Nat) (xs : List Nat) : List Nat :=
  (List.range (p.boxes.getD 0 p.src).count).map (fun l => xs.getD (collIdx p rank l) 0)

/-- The delivery of a COLL's bytes in record REC (R330). -/
def collCount (p : Op) : Act := fun s =>
  deliver (some p.task) (p.boxes.getD 2 p.src) (s.dev.ident + p.core * 2 ^ 20) (boxBytes (p.boxes.getD 0 p.src))
    (some (p.par.getD 5 0)) s

/-- A member's result in its destination's format, with the flags of each element; under .sr an element draws by its index
in the destination (DESIGN CHOICE, log 95). -/
def collOut (p : Op) : List Nat :=
  let b := p.boxes.getD 0 p.src
  let t := collType p
  (List.range p.acc.length).map (fun e =>
    let x := p.acc.getD e 0
    if t == b.fmt then x
    else
      let w := convertElem t b.fmt (elV x) p.rm (collBits p e) false
      el w.1 (elF x ||| w.2))

/-- The end of a member's COLL: its writes, then the delivery is counted, and its flags stand (R121, R330). -/
def collFinish (o : Nat) (p : Op) (out : List Nat) : Act := fun s =>
  let b := p.boxes.getD 0 p.src
  seqA [
    -- those before a routine fault stand already (R202)
    forA ((List.range out.length).filter (fun e => p.next ≤ collIdx p p.total e)) (fun e =>
      writeElem o ⟨e, 0, false⟩ b (b.at e) (elV (out.getD e 0))),
    fun s => stampU b (((tfind s.ops o).map (·.grans)).getD []),
    collCount p,
    flagFor p.core p.task (out.foldl (fun f x => f ||| elF x) p.flags),
    pureA (collEnd o p)] s

/-- The bytes of a partial in a wire format (R329). -/
def wireBytes (code t : Nat) (p : Op) (xs : List Nat) : List Byte :=
  match code with
  | 1 => (List.range xs.length).flatMap (fun e => bytesOf 2 (fConvert 1 (fDecode 0 (elV (xs.getD e 0))) p.rm (collBits p e) false).1)
  | 2 => (List.range (blocks32 xs.length)).flatMap (fun b =>
      let l := (xs.drop (32 * b)).take 32
      let r := e8Block 3 p.rm ((List.range l.length).map (fun j =>
        some (fDecode 0 (elV (l.getD j 0)), collBits p (32 * b + j))))
      (List.range l.length).flatMap (fun j => bytesOf 1 ((r.1.getD j none).getD (0, 0)).1) ++ bytesOf 1 r.2.1)
  | 3 => (List.range (xs.length / 16384)).flatMap (fun k =>
      (qc4Group p.rm (((xs.drop (16384 * k)).take 16384).map (fun x => fDecode 0 (elV x))) (fun j => collBits p (16384 * k + j))).1)
  | _ => xs.flatMap (fun x => bytesOf (tySize t / 8) (elV x))

/-- What this device sends at the levels above it: a partial leaves by a short-reach port at the pod level, by a long-haul
port at the world level (R312). Which devices it goes to is not known here, nor what it holds where the result of a level
is passed on: the flits carry the result (log 76). -/
def collSends (s : State) (o : Nat) (p : Op) (xs : List Nat) : Act :=
  forA ((List.range (p.level - 2)).filter (fun i => 1 < (groupsAt s p.core (3 + i)).1)) (fun i => fun s =>
    let mode := i + 1
    match (List.range 16).find? (fun k => (s.port k).mode == mode) with
    | none => []
    | some port =>
      let bytes := wireBytes (wireAt (p.par.getD 3 0) (3 + i)) (collType p) p xs
      seqA [pureA [.fresh], forA (List.range ((bytes.length + 255) / 256)) (fun f =>
        lsendSend ⟨2, p.core, s.dev.ident + 1 + Config.freeNat s.fresh, port, s.cycle, s.cycle, false, 0, f, o, 0,
          (bytes.drop (256 * f)).take 256, none, 0, [], s.dev.ident + p.core * 2 ^ 20⟩)] s)

/-- The leading member's event: all sources are read, and each member gets its result after a free time, its new residual
with it; members that differ take a collective fault, and a routine fault goes to the leading member (R202, R330). -/
def collCombine (o : Nat) (p : Op) : Act := fun s =>
  let g := collGroup s p
  if !g.all (fun e => collAgree p e.2) then
    forA g (fun e => seqA [pureA (collEnd e.1 e.2), opTrap e.2 s.cycle (opFlt e.2 0x1D [])]) s
  else
    let r := collResult s g p
    let first := (collRanks s g p).2
    let flags := p.flags ||| r.2.1.flags
    match r.2.1.flt with
    | some x =>
      let f := opFlt p 8 (routineDetail s 4 (p.par.getD 2 0) r.2.1.elem r.2.1.leaf r.2.1.nodes x)
      let reads := g.map (fun e => collRead s e.2)
      seqA [
        -- the elements done before it are written and stand; the others' sources are in the record (R202)
        forA (List.range g.length) (fun j => match g[j]? with
          | none => pureA []
          | some e =>
            let q := { e.2 with acc := collPart e.2 (first + j) r.1 }
            let b := q.boxes.getD 0 q.src
            let out := collOut q
            forA ((List.range out.length).filter (fun l => q.next ≤ collIdx q (first + j) l && collIdx q (first + j) l < r.1.length))
              (fun l => writeElem e.1 ⟨l, 0, false⟩ b (b.at l) (elV (out.getD l 0)))),
        pureA ((List.range g.length).flatMap (fun j => match g[j]? with
          | none => []
          | some e => [Upd.op e.1 (fun q => { q with
              acc := reads.getD j []
              next := r.1.length
              total := first + j })]) ++
        [.op o (fun q => { q with
          flt := some f
          skip := r.2.1.k
          flags := flags }), areaU p.ctx (f.detail.getD 0 0)
            (routineRecord f (r.1 ++ reads.flatMap (fun l => l.drop r.1.length))), .fresh]), opTrap p s.cycle f] s
    | none =>
      seqA [collSends s o p r.1, fun s => .fresh :: (List.range g.length).flatMap (fun j => match g[j]? with
        | none => []
        | some e => [Upd.op e.1 (fun q => { q with
            phase := 2
            acc := collPart e.2 (first + j) r.1
            repl := if e.2.residual.isSome then
              [(0, r.2.2.foldl (fun x h => (qc4Hop e.2 h x).2) (collResidual s e.2))] else []
            flags := flags }), postU (s.cycle + 1 + Config.freeNat (s.fresh + 1 + j)) 2 (.collDelivery e.1)])] s

/-- COLL_DELIVERY (R330). For the leading member: the combine. For a member whose residual has been read: it is ready. With
its result come: an enabled flag faults it, and it writes nothing (R122); else its residual is written, then its
destination, and the delivery is counted. -/
def collDeliveryAct (o : Nat) : Act := viewA o fun s =>
  match tfind s.ops o with
  | none => []
  | some p =>
    if p.kind != .coll || p.st != .running || p.flt.isSome || p.reqs != 0 then []
    else if p.phase == 1 then collCombine o p s
    else if p.phase == 7 then [.op o (fun q => { q with phase := 6 })]
    else if p.phase == 4 then collFinish o p (collOut p) s
    else if p.phase != 2 then []
    else
      let out := collOut p
      let fl := out.foldl (fun f x => f ||| elF x) p.flags
      if fl &&& p.enb != 0 then seqA [
        flagFor p.core p.task fl,
        pureA (collEnd o p),
        opTrap p s.cycle (opFlt p 5 (arithDetail fl (out.findIdx? (fun x => elF x &&& p.enb != 0))))] s
      else match p.residual with
        | none => collFinish o p out s
        | some r => seqA [
            pureA [.op o (fun q => { q with phase := 4 })],
            forA (List.range r.count) (fun e => writeElem o ⟨e, 0, false⟩ r (r.at e)
              (((p.repl.headD (0, [])).2).getD e 0)),
            landStep o] s

/-! ### XSTAT (R331) -/

def xstatWord (s : State) (sel port : Nat) : Word :=
  let c := s.core s.me
  match sel with
  | 0 => BitVec.ofNat 64 ((if c.tt.isSome then 1 else 0) + c.ttDone % 2 ^ 12 * 2 + c.ttLate % 2 ^ 12 * 2 ^ 13 +
      c.ttMiss % 2 ^ 12 * 2 ^ 25 + c.ttStray % 2 ^ 16 * 2 ^ 37)
  | 1 => BitVec.ofNat 64 (c.lsOut % 2 ^ 5 + c.lsDone % 2 ^ 32 * 2 ^ 32)
  | 2 => BitVec.ofNat 64 (c.collQ % 2 ^ 3 + c.collDone % 2 ^ 32 * 2 ^ 32)
  | _ =>
    let p := s.port port
    BitVec.ofNat 64 (p.mode + p.lat % 2 ^ 16 * 2 ^ 2 + p.resends % 2 ^ 32 * 2 ^ 18)

/-! ### The clock and the links -/

/-- PTP_MESSAGE: a two-step delay measurement; its offset is the servo's last measured one, and stands in TSTAT with the
lock state (R307). A lost lock may come back (log 14). -/
def ptpAct (port t1 t2 t3 t4 : Nat) : Act := fun s =>
  let off : Int := (((t2 : Int) - t1) - ((t4 : Int) - t3)) / 2
  let lock := s.dev.lock || Config.freeNat s.fresh % 2 == 1
  [.fresh, .dev (fun d => { d with
    lock := lock
    sr := tput d.sr 0x151 (BitVec.ofNat 64 ((off % 2 ^ 32).toNat * 2 ^ 32 + if lock then 1 else 0))
    outbox := d.outbox ++ [.ptp port t3] })]

/-- LOCK_LOSS: the supervisor receives a time event (R309). -/
def lockLossAct : Act := fun _ =>
  [.dev (fun d => { d with
    lock := false
    sr := tput d.sr 0x151 (setBit (tget 0 d.sr 0x151) 0 false) }), supEvent evTime 0]

/-! ### Instructions and events -/

/-- SEND (R315). -/
def execSend (ms peer b xc : Nat) (s : State) : Host.Outcome State Fault Refusal :=
  done (checked (sendLegal ms peer b xc)
    (andThen (hitsCheck b false (fun s bx => xLanes s bx xc)) (peerFault ms peer)) (sendAct ms peer b xc)) s
/-- RECV (R315). -/
def execRecv (ms peer b xc : Nat) (s : State) : Host.Outcome State Fault Refusal :=
  done (checked (sendLegal ms peer b xc)
    (andThen (hitsCheck b true (fun s bx => xLanes s bx xc)) (andThen (peerFault ms peer) (recvMatch ms peer)))
    (recvAct ms peer b xc)) s
/-- RECVOP (R315). -/
def execRecvop (ms peer b xc op rt : Nat) (s : State) : Host.Outcome State Fault Refusal :=
  done (checked (andThen (sendLegal ms peer b xc) (recvopRoutine b op rt))
    (andThen (rightsBar [(b, true, true)]) (andThen (hitsCheck b true (fun s bx => xLanes s bx xc))
      (andThen (peerFault ms peer) (recvMatch ms peer))))
    (recvopAct ms peer b xc op rt)) s
/-- COLL (R327). -/
def execColl (bd bs bq sc bin rm : Nat) (s : State) : Host.Outcome State Fault Refusal :=
  done (checked (collLegal bd bs bq sc bin) (collFault bd bs bq sc) (collAct bd bs bq sc bin rm)) s
/-- TTARM (R320). -/
def execTtarm (xb tt : Nat) (s : State) : Host.Outcome State Fault Refusal :=
  done (checked (ttarmLegal tt) (ttarmFault xb tt) (ttarmAct xb tt)) s
/-- LSEND (R325). -/
def execLsend (bd bs bc : Nat) (s : State) : Host.Outcome State Fault Refusal :=
  done (checked (lsendLegal bd bs bc)
    (andThen (rightsBar [(bs, true, false), (bd, false, true), (bc, false, true)]) (loanBar [bs])) (lsendAct bd bs bc)) s
/-- XSTAT (R331). -/
def execXstat (d sel port : Nat) (s : State) : Host.Outcome State Fault Refusal :=
  done (guarded (fun s => reasonIf s [(sel != 3 && port != 0, 2), (3 < sel, 3)])
    (fun s => emitX 2 d false (xstatWord s sel port) s)) s
/-- SYNCD (R306). -/
def execSyncd (l : Nat) (s : State) : Host.Outcome State Fault Refusal :=
  done (guarded (fun s => if domLvl s s.me < scopeLevel l then some (faultNow s 0x1A 0 []) else none)
    (fun s => [.core s.me (fun c => { c with hold := .syncd (scopeLevel l) })])) s
/-- BARRIER_RESUME (R306). -/
def execBarrierResume (n level : Nat) (s : State) : Host.Outcome State Fault Refusal := done (barrierResumeAct n level) s
/-- EXCHANGE_ARRIVAL (R315, R316). -/
def execExchangeArrival (k : Nat) (s : State) : Host.Outcome State Fault Refusal := done (exchangeArrivalAct k) s
/-- TT_OUT_ENTRY (R321). -/
def execTtOutEntry (n e : Nat) (s : State) : Host.Outcome State Fault Refusal := done (ttOutEntryAct n e) s
/-- TT_FLIT_ARRIVAL (R322). -/
def execTtFlitArrival (k : Nat) (s : State) : Host.Outcome State Fault Refusal := done (ttFlitArrivalAct k) s
/-- TT_ENTRY_LATE (R323). -/
def execTtEntryLate (n e : Nat) (s : State) : Host.Outcome State Fault Refusal := done (ttEntryLateAct n e) s
/-- TT_ENTRY_MISSING (R323). -/
def execTtEntryMissing (n e : Nat) (s : State) : Host.Outcome State Fault Refusal := done (ttEntryMissingAct n e) s
/-- TT_END (R323). -/
def execTtEnd (n : Nat) (s : State) : Host.Outcome State Fault Refusal := done (ttEndAct n) s
/-- LSEND_READ_COMPLETION (R325). -/
def execLsendReadCompletion (o : Nat) (s : State) : Host.Outcome State Fault Refusal := done (lsendReadCompletionAct o) s
/-- LSEND_FLIT_DELIVERY (R325). -/
def execLsendFlitDelivery (k : Nat) (s : State) : Host.Outcome State Fault Refusal := done (lsendFlitDeliveryAct k) s
/-- LSEND_RETIRE (R326). -/
def execLsendRetire (o : Nat) (s : State) : Host.Outcome State Fault Refusal := done (lsendRetireAct o) s
/-- FAR_END_ACKNOWLEDGEMENT (R312). -/
def execFarEndAcknowledgement (port k : Nat) (s : State) : Host.Outcome State Fault Refusal := done (farEndAckAct port k) s
/-- LINK_FLIT_RESEND (R311). -/
def execLinkFlitResend (port k : Nat) (s : State) : Host.Outcome State Fault Refusal := done (linkFlitResendAct port k) s
/-- FRAME_RETRY (R312). -/
def execFrameRetry (port k : Nat) (s : State) : Host.Outcome State Fault Refusal := done (frameRetryAct port k) s
/-- LINK_EVENT: a link lost beyond retry (R326). -/
def execLinkEvent (port : Nat) (s : State) : Host.Outcome State Fault Refusal := done (pureA [supEvent evLink port]) s
/-- COLL_DELIVERY (R330). -/
def execCollDelivery (o : Nat) (s : State) : Host.Outcome State Fault Refusal := done (collDeliveryAct o) s
/-- PTP_MESSAGE (R307). -/
def execPtpMessage (port t1 t2 t3 t4 : Nat) (s : State) : Host.Outcome State Fault Refusal :=
  done (ptpAct port t1 t2 t3 t4) s
/-- LOCK_LOSS (R309). -/
def execLockLoss (s : State) : Host.Outcome State Fault Refusal := done lockLossAct s

end Sys2Proof.Machine
end

