-- ==== Sys2Proof/Machine/Tasks.lean ====
section
/-! DEFINITION. Tasks (R276 to R296, R374 to R379): loop records, calls with their snapshots and images, spawns, finish
scopes with their merges, returns, failures and re-execution. -/

namespace Sys2Proof.Machine

/-! ### Loop records (R277, R278) -/

/-- A record's 256 bits from its eight words. -/
def recBits (ws : List Nat) : Nat := ofLanes 32 ws

/-- The fields of a record. -/
def recOf (w : Nat) : Rec where
  trips := bitsOf w 224 32
  budget := bitsOf w 203 21
  spad := bitsOf w 190 13
  tiles := bitsOf w 186 4
  rot := bitsOf w 180 6
  treg := bitsOf w 176 4
  trr := bitsOf w 175 1 == 1
  prio := bitsOf w 48 2
  gang := bitsOf w 46 2
  nrep := bitsOf w 45 1 == 1
  tagc := bitsOf w 44 1 == 1
  he := bitsOf w 43 1 == 1
  hp := bitsOf w 42 1 == 1
  epi := bitsOf w 28 14
  pro := bitsOf w 14 14
  kern := bitsOf w 0 14

/-- The checks of a record a call names (R277). -/
def recOk (w : Nat) : Bool :=
  let r := recOf w
  bitsOf w 50 125 == 0 && (r.trr || r.trips != 0) && 1 ≤ r.budget && r.budget ≤ 2 ^ 20 && r.spad ≤ 4096 && r.tiles ≤ 8 &&
    r.rot ≤ 48

/-- The record of an index in a context's image, if it is there and passes. -/
def recordOf (s : State) (k i : Nat) : Option Rec :=
  match (s.ctx k).code with
  | none => none
  | some c => match c.records[i]? with
    | some ws => if recOk (recBits ws) then some (recOf (recBits ws)) else none
    | none => none

/-- Tiles a class provides. -/
def classTiles (c : Nat) : Nat := if c == 0 then 4 else if c == 1 then 6 else 8

/-- The least class whose limits cover a record (R278). -/
def recClass (r : Rec) : Nat :=
  ((List.range 4).find? (fun c => r.spad ≤ 1024 * (c + 1) && r.tiles ≤ classTiles c)).getD 3

/-- The class of a core. -/
def coreClass (s : State) (n : Nat) : Nat := wbits (s.sr n srCORECAP) 0 2

/-- Cores of a gang. -/
def gangSize (g : Nat) : Nat := if g == 0 then 1 else if g == 1 then 4 else if g == 2 then 40 else 160

/-- The trip count of a task (R277). -/
def Task.trips (t : Task) : Nat := if t.lrec.trr then (t.args.getD t.lrec.treg 0).toNat % 2 ^ 32 else t.lrec.trips

/-! ### Images (R287) -/

/-- Does byte j of an image belong to the box: to an element, or to the header of a group record? -/
def Box.imageHas (b : Box) (j : Nat) : Bool :=
  let o := b.first + j
  (b.fmt == 5 && o % 8452 < 260) || b.covers o

/-- The bits of a byte at an offset that belong to a box's elements. -/
def Box.byteMask (b : Box) (o : Int) : Nat :=
  if b.fmt == 5 && 260 ≤ o % 8452 then
    let l := o / 8452 * 16384 + (o % 8452 - 260) * 2
    (if hasIdx b.ext b.str (l - b.idx) then 0x0F else 0) + (if hasIdx b.ext b.str (l + 1 - b.idx) then 0xF0 else 0)
  else 0xFF

/-- A box of the same shape over an image (R287). -/
def Box.imaged (b : Box) (tier home org key : Nat) : Box :=
  { b with
    tier := tier
    home := home
    org := org
    key := key
    idx := b.idx - (if b.fmt == 5 then b.low / 16384 * 16384 else b.low) }

/-- A T1 box moved with its core to another scratchpad (R289, R300). -/
def Box.rebase (old new : Nat) (b : Box) : Box := if b.tier == 1 && b.home == old then { b with home := new } else b

/-- Images fit beside those in use: an address range is free. -/
def rangeFree (used : List (Nat × Nat)) (a sz : Nat) : Bool := used.all (fun u => a + sz ≤ u.1 || u.2 ≤ a)

/-- The lowest free range of a size at an alignment below a limit. -/
def lowestFree (used : List (Nat × Nat)) (sz al lim : Nat) : Option Nat :=
  ((0 :: used.map (fun u => (u.2 + al - 1) / al * al)).filter (fun a => a + sz ≤ lim && rangeFree used a sz)).foldl
    (fun m a => match m with
      | some x => some (min x a)
      | none => some a) none

/-- The tier of an argument's image: T1 for a T1 argument, unless it is passed sliced, else the child's (R287, R404). -/
def imageTier (sliced : Bool) (tier : Nat) (b : Box) : Nat := if b.tier == 1 && !sliced then 1 else tier

/-- Bytes of scratchpad, rows of a vault and bytes of the arena that a child's images take. -/
def imageNeeds (sliced : Bool) (tier : Nat) (bs : List Box) : Nat × Nat × Nat :=
  bs.foldl (fun a b =>
    let n := b.imageLen
    match imageTier sliced tier b with
    | 1 => (a.1 + (n + 1023) / 1024 * 1024, a.2.1, a.2.2)
    | 2 => (a.1, a.2.1 + (n + 65535) / 65536, a.2.2)
    | _ => (a.1, a.2.1, a.2.2 + (n + 4095) / 4096 * 4096)) (0, 0, 0)

/-- The context's T2 call region: first row and rows (R345). -/
def arenaRows (s : State) (k : Nat) : Nat × Nat := (bitsOf (s.ctx k).varena 0 15, bitsOf (s.ctx k).varena 16 16)

/-- Bytes of the context's call arena, range entry 63 (R287, R349). -/
def arenaBytes (s : State) (k : Nat) : Nat :=
  if rangeWord s k 63 3 % 2 == 1 then rangeWord s k 63 1 % 2 ^ 48 + 1 else 0

/-- Does a task hold its images still: until its outward copies have merged (R287)? -/
def Task.holds (t : Task) : Bool := !(t.st == .done || t.st == .failed) && t.core.isSome || t.st == .suspended || t.st == .merging ||
  (t.st == .queued && t.saved.isSome)

/-- Rows in use in vault v, and arena bytes in use, by a context's images. -/
def usedRows (s : State) (k v : Nat) : List (Nat × Nat) :=
  s.tasks.flatMap (fun e => if e.2.ctx == k && e.2.holds then
    e.2.imgs.filterMap (fun g => if g.child.tier == 2 && g.child.home == v then
      some (g.child.org, g.child.org + (g.child.imageLen + 65535) / 65536) else none) else [])
def usedArena (s : State) (k : Nat) : List (Nat × Nat) :=
  s.tasks.flatMap (fun e => if e.2.ctx == k && e.2.holds then
    e.2.imgs.filterMap (fun g => if g.child.tier == 3 then some (g.child.org, g.child.org + g.child.imageLen) else none)
    else [])

/-! ### Snapshots (R294) -/

/-- The byte an inward copy for a call of core n into scope x reads: the caller's own writes before the call in local order,
else the byte as it was when the scope opened, or as the caller and its threads have written it since. -/
def callByte (s : State) (n : Nat) (x : Scope) (sp : Space) (k : Nat) (now : Byte) : Byte :=
  let hit (a : Nat) (bs : List Byte) : Option Byte := if a ≤ k then bs[k - a]? else none
  let own := ((s.core n).pend.filter (fun p => p.ord < s.cycle && p.flt.isNone)).foldl (fun m p =>
    p.wr.foldl (fun m w => match w with
      | .mem q a bs => if q == sp then ((hit a bs).map some).getD m else m
      | _ => m) m) none
  let far := (s.reqs.filter (fun e => e.2.core == n && e.2.op.isNone && e.2.kind == 1 && e.2.st < 3 && e.2.issue < s.cycle)).foldl
    (fun m e =>
      let at_ := if e.2.sealed.isEmpty then (Space.dram, vkey e.2.vault e.2.addr) else (Space.host, e.2.sealed.getD 2 0)
      if at_.1 == sp then ((hit at_.2 e.2.data).map some).getD m else m) own
  match far with
  | some b => b
  | none => match x.old.find? (fun e => e.1 == sp && e.2.1 == k) with
    | some e => e.2.2
    | none => now

/-- The identity a FOLD image is filled with (R294). -/
def foldIdent (s : State) (k : Nat) (b : Box) : Nat :=
  if b.fop ≤ 2 then combineIdent b.fop b.fmt else (rtIdent (routineOf s k b.rt)).getD 0 0

/-- A FOLD operator that a call accepts (R293). -/
def foldOk (s : State) (k : Nat) (b : Box) : Bool :=
  if b.fop ≤ 2 then b.fmt != 5
  else
    let r := routineOf s k b.rt
    routineOk r 16 true && rtComm r && rtIdv r && routinePair r && rtComps r == 1 && rtF r 0 == b.fmt

/-- The bytes of an inward image, or what translation found (R287, R294). -/
def snapshot (s : State) (n : Nat) (x : Scope) (b : Box) : Except Xlate (List Host.Cell) :=
  if b.merge == 3 then
    .ok ((List.range b.count).flatMap (fun l =>
      let o := (b.offset (b.at l) - b.first).toNat
      let v := bytesOf b.esize (foldIdent s b.key b)
      (List.range b.esize).map (fun j => (o + j, v.getD j 0))))
  else (List.range b.imageLen).foldl (fun a j => match a with
    | .error e => .error e
    | .ok l =>
      if !b.imageHas j then .ok l
      else match b.placeOff s (b.first + j) 1 b.rd b.wr with
        | .none e => .error e
        | pl =>
          if pl.broken s then .error { Xlate.nil with cause := 0x22 }
          else match pl.cell with
            | some (sp, k) => .ok (l ++ [(j, callByte s n x sp k ((pl.bytes s 1).headD 0))])
            | none => .ok l) (.ok [])

/-- What bars the copies of an image, inward or outward, from a byte: a right, a closed page kind, the front half of a window
(R211, R215, R233). A FOLD merge is a read-modify-write. -/
def imageBar (s : State) (sup : Bool) (b : Box) : Option Xlate :=
  if b.tier != 3 then none
  else (List.range b.imageLen).findSome? (fun j =>
    if b.imageHas j then byteBar s b sup b.rd b.wr (b.wr && b.merge != 3) (b.first + j) else none)

/-- The fault of a call over boxes whose inward images cannot be read: what translation found, or a sealed unit whose tag
fails (R286, R356). -/
def snapshotFault (s : State) (b : Box) (e : Xlate) : Flt :=
  if e.cause == 0x22 then
    faultNow s 0x22 0 ((sealBroken s b ((List.range b.imageLen).filterMap (fun j =>
      if b.imageHas j then some (b.first + j, 1) else none))).getD [])
  else faultNow s (if e.cause == 0 then 3 else e.cause) 0 (addrDetail s.iss.slot s.iss.word 0x1F b.tier (b.ctxAddr s b.idx) e)

/-! ### Scopes (R290, R291) -/

/-- The scope a handle names: its key, when the handle is well formed and its generation stands. -/
def scopeOf (s : State) (h : Nat) : Option (Nat × Scope) :=
  if h / 2 ^ 32 != 0 || bitsOf h 10 6 != 0 then none
  else
    let k := bitsOf h 0 8 + 256 * bitsOf h 8 2
    match tfind s.scopes k with
    | some x => if x.live && x.gen == bitsOf h 16 16 then some (k, x) else none
    | none => none

/-- Has every task of a scope returned and merged, or failed for good (R291)? What stations merge must have been performed. -/
def scopeDone (s : State) (x : Scope) : Bool :=
  x.tasks.all (fun t => match tfind s.tasks t with
    | some k => k.st == .failed || (k.st == .done && k.imgs.all (fun g => g.merged || !g.byStation s))
    | none => true)

/-- The cells of an image, together as far as they belong to one element. -/
def Img.pieces (g : Img) (cells : List Host.Cell) : List (List Host.Cell) :=
  let w := if g.parent.fmt == 5 then 1 else g.parent.esize
  cells.foldr (fun e l => match l with
    | (c :: r) :: t => if c.1 == e.1 + 1 && c.1 / w == e.1 / w then (e :: c :: r) :: t else [e] :: (c :: r) :: t
    | l => [e] :: l) []

/-- Merge an image under FAULT, ORDERED or DIRTY: `out` holds the bytes to merge. Under DIRTY an element an earlier sibling
wrote keeps its value, and the lowest such element is reported (R296). -/
def mergeCopy (owner k t : Nat) (g : Img) (done : List (Space × Nat)) : Act := fun s =>
  let b := g.parent
  let at_ (s : State) (j n : Nat) : Place := b.placeOff s (b.first + j) n false true
  let clash (j : Nat) : Bool := b.merge == 2 && (List.range 4).any (fun d => match (at_ s (j / 4 * 4 + d) 1).cell with
    | some p => done.contains p && g.out.any (fun e => e.1 == j / 4 * 4 + d)
    | none => false)
  let elem (p : Nat → Bool) : Option Nat := (List.range b.count).find? (fun l => p (b.offset (b.at l) - b.first).toNat)
  seqA [
    forA ((g.pieces g.out).filter (fun l => !clash (l.headD (0, 0)).1)) (fun l => fun s =>
      let j := (l.headD (0, 0)).1
      let pl := (at_ s j l.length).back s
      mergeAt owner (some k) pl (((l.zip (pl.bytes s l.length))).map (fun e =>
        let m := b.byteMask (b.first + e.1.1)
        BitVec.ofNat 8 (e.2.toNat &&& (255 - m) ||| (e.1.2.toNat &&& m)))) s),
    fun s => match elem clash with
      | some l => mergeFault 0 k t g.arg b l s
      | none => [],
    fun s => match elem (fun j => (at_ s j 1).broken s) with
      | some l => mergeFault 0x22 k t g.arg b l s
      | none => []] s

/-- Merge an image under FOLD: element by element, in linear order; flags go to the owner (R296). -/
def mergeFold (n owner k t : Nat) (g : Img) : Act :=
  let b := g.parent
  forA (List.range b.count) (fun l => fun s =>
    let pl := (b.placeOff s (b.offset (b.at l)) b.esize false true).back s
    if pl.broken s then mergeFault 0x22 k t g.arg b l s
    else
      let r := foldMerge s ((s.core n).ctx) b (natOf (pl.turnBytes s b.esize)) (g.value l)
      seqA [
        mergeAt owner (some k) pl (bytesOf b.esize r.1),
        orFlg n r.2.1,
        whenA (fun _ => r.2.2) (mergeFault 8 k t g.arg b l)] s)

/-- Bytes of parents' boxes that the images of tasks hold, for DIRTY. -/
def mergedKeys (s : State) (ts : List Nat) : List (Space × Nat) :=
  ts.flatMap (fun t => match tfind s.tasks t with
    | some k => if k.st != .done then [] else k.imgs.flatMap (fun g => if g.parent.merge != 2 || !g.parent.wr then [] else
        g.out.filterMap (fun e => (g.parent.placeOff s (g.parent.first + e.1) 1 false true).cell))
    | none => [])

/-- Every merge of a scope, in call order, into the boxes of its owner on core n (R296). -/
def mergeScope (n owner k : Nat) : Act := fun s =>
  match tfind s.scopes k with
  | none => []
  | some x => forA (List.range x.tasks.length) (fun i => fun s =>
      let t := x.tasks.getD i 0
      match tfind s.tasks t with
      | some c =>
        if c.st != .done then []
        else forA (c.imgs.filter (fun g => g.parent.wr && !g.byStation s)) (fun g =>
          if g.parent.merge == 3 then mergeFold n owner k t g
          else mergeCopy owner k t g (mergedKeys s (x.tasks.take i))) s
      | none => []) s

/-- Free a scope: its entry can be allocated from the next cycle, and its tasks are forgotten (R290). -/
def freeScope (owner k : Nat) : Act := fun s =>
  match tfind s.scopes k with
  | none => []
  | some x =>
    .scope k { x with
      live := false
      tasks := []
      faults := []
      old := []
      freed := s.cycle } ::
    .task owner (fun t => { t with scopes := t.scopes.filter (· != k) }) :: x.tasks.map Upd.delTask

/-- The faults of a scope as one child fault: the earliest-called, with the count of all (R292, R397). -/
def scopeReport (x : Scope) (pc : Nat) : Option Flt :=
  let pos (f : Flt) : Nat := bitsOf (f.detail.headD 0) 32 16
  let all := x.faults.foldl (fun (l : List Nat) f => if l.contains (pos f) then l else l ++ [pos f]) []
  match x.faults.find? (fun f => x.faults.all (fun g => pos f ≤ pos g)) with
  | some f => some { f with
      opc := pc
      detail := f.detail.set 1 all.length }
  | none => none

/-- A FINWAIT's join on core n: the merges, the scope freed, and a child fault on the next bundle (R291, R292). -/
def joinScope (n owner k pc : Nat) : Act := seqA [
  mergeScope n owner k,
  fun s => match tfind s.scopes k with
    | none => []
    | some x => freeScope owner k s ++ orFlg n x.flags s ++ (match scopeReport x pc with
      | some f => dueFor n (some owner) s.cycle f none false s
      | none => [])]

/-! ### FINOPEN and FINWAIT -/

/-- Entries of a die's table that can be allocated now (R290). -/
def freeEntries (s : State) (die : Nat) : List Nat :=
  (List.range 256).filter (fun e => match tfind s.scopes (e + 256 * die) with
    | some x => !x.live && x.freed < s.cycle
    | none => true)

/-- The task that runs on the core now issuing. -/
def State.self (s : State) : Option (Nat × Task) :=
  (s.core s.me).task.bind (fun t => (tfind s.tasks t).map (fun k => (t, k)))

def finopenFault : State → Option Flt := fun s =>
  if (freeEntries s (s.me / 40)).isEmpty then some (faultNow s 0x17 0 []) else none

/-- FINOPEN: which free entry is taken is free (log 10). -/
def finopenAct (d : Nat) : Act := fun s =>
  let l := freeEntries s (s.me / 40)
  let e := l.getD (if l.length ≤ 1 then 0 else Config.freeNat s.fresh % l.length) 0 + 256 * (s.me / 40)
  let gen := (((tfind s.scopes e).map (·.gen)).getD 0 + 1) % 2 ^ 16
  let x : Scope := ⟨gen, true, (s.core s.me).task.getD 0, s.self.bind (fun t => t.2.scope), [], [], 0, 0, []⟩
  .fresh :: .scope e x :: (match (s.core s.me).task with
    | some t => [Upd.task t (fun k => { k with scopes := k.scopes ++ [e] })]
    | none => []) ++ emitX 2 d false (BitVec.ofNat 64 (gen * 2 ^ 16 + e)) s

def finwaitFault (f : Nat) : State → Option Flt := fun s =>
  match scopeOf s (s.x s.me f).toNat with
  | some (_, x) => if some x.owner == (s.core s.me).task then none else some (faultNow s 0x17 0 [])
  | none => none

/-- A gang's pre-emption request is put to a later boundary, or withdrawn: members that held at the boundary go on (R300,
R301). -/
def requestU (s : State) (t : Nat) (at_ : Option Nat) : List Upd :=
  match tfind s.tasks t with
  | none => []
  | some k => (s.tasks.filter (fun e => e.2.lead == k.lead)).flatMap (fun e =>
      .task e.1 (fun q => { q with preempt := at_ }) :: (match e.2.core with
        | some n => if (s.core n).held == .save then [.core n (fun c => { c.release (s.cycle + 1) with iter := s.cycle + 1 })]
          else []
        | none => []))

/-- FINWAIT: nothing for a freed scope; a complete scope is merged and freed; otherwise the task holds its core until it
can be saved (R291). A sibling waits in place. -/
def finwaitAct (f : Nat) : Act := fun s =>
  let n := s.me
  match scopeOf s (s.x n f).toNat with
  | none => []
  | some (k, x) =>
    if scopeDone s x then joinScope n x.owner k s.pcNow s
    else .core n (fun c => { c with
        hold := .finwait k s.pcNow c.spawner.isSome
        iter := if c.spawner.isSome then c.iter else s.cycle + 1 - c.iter }) :: requestU s x.owner none

/-! ### TCALL (R285 to R287, R293, R294, R404) -/

/-- The box arguments of a call. -/
def callBoxes (s : State) (nb : Nat) : List (Option Box) := (List.range nb).map (fun i => s.b s.me (8 + i))

/-- Is the single argument of a call passed sliced (R404)? -/
def callSliced (size tier nb : Nat) (b : Box) : Bool :=
  size == 4 && tier == 2 && nb == 1 && 2 ≤ b.rank && b.rank ≤ 6 && b.ext.getLastD 0 == 4

/-- Slice m of a box's highest dimension. -/
def Box.slice (b : Box) (m : Nat) : Box :=
  { b with
    ext := b.ext.dropLast
    str := b.str.dropLast
    idx := b.idx + m * b.str.getLastD 0 }

/-- The parent's box of one member for one argument. -/
def memberBox (size tier nb m : Nat) (b : Box) : Box := if callSliced size tier nb b then b.slice m else b

/-- The child's tier (R285). -/
def childTier (s : State) (tier : Nat) : Nat :=
  if tier != 0 then tier else max 1 ((match s.self with
    | some (_, t) => t.tier
    | none => 3) - 1)

/-- Cores an extent offers (R298). -/
def extentSize (pext : Nat) : Nat := if pext == 0 then 4 else if pext == 1 then 40 else 160

/-- May two writable loans overlap (R293)? -/
def loansAgree (a b : Box) : Bool :=
  a.merge == b.merge && a.merge != 0 && (a.merge != 3 || (a.fop == b.fop && (a.fop != 3 || a.rt == b.rt)))

def tcallLegal (nb nx : Nat) : State → Option Flt := fun s => reasonIf s [(8 < nb || 8 < nx, 2)]

/-- TCALL's faults: call faults, then overlap faults, then what reading the arguments finds (R286). -/
def tcallFault (rc xf tier nb : Nat) : State → Option Flt := fun s =>
  let call := some (faultNow s 0x14 0 [])
  let n := s.me
  match recordOf s (s.core n).ctx rc, scopeOf s (s.x n xf).toNat with
  | some r, some (_, x) =>
    let size := gangSize r.gang
    let ct := childTier s tier
    let bs := (callBoxes s nb).filterMap id
    let mine := (List.range size).map (fun m => bs.map (memberBox size ct nb m))
    let needs := imageNeeds (bs.any (callSliced size ct nb)) ct (mine.headD [])
    if some x.owner != (s.core n).task || extentSize (domPext s n) < size ||
        bs.any (fun b => b.peer || 4 ≤ b.tier || (b.tier != 1 && b.tier < ct) || (b.merge == 3 && !foldOk s (s.core n).ctx b)) ||
        1024 * r.spad < needs.1 || (arenaRows s (s.core n).ctx).2 < needs.2.1 || arenaBytes s (s.core n).ctx < size * needs.2.2
      then call
    else
      let lent := x.tasks.flatMap (fun t => match tfind s.tasks t with
        | some k => (k.imgs.filter (fun g => g.parent.wr)).map (·.parent)
        | none => [])
      let new := mine.flatMap (fun l => l.filter (·.wr))
      let own := bs.filter (·.wr)
      let bad := own.any (fun b => (1 < size && b.merge == 0 && !callSliced size ct nb b) ||
          lent.any (fun l => !loansAgree l b && l.overlaps s b)) ||
        (List.range own.length).any (fun i => (List.range i).any (fun j => match own[i]?, own[j]? with
          | some a, some b => !loansAgree a b && a.overlaps s b
          | _, _ => false))
      if bad && !new.isEmpty then some (faultNow s 0x15 0 [])
      else firstFlt (fun b => match imageBar s (s.core n).sup b, snapshot s n x b with
        | some e, _ => some (snapshotFault s b e)
        | none, .error e => some (snapshotFault s b e)
        | none, .ok _ => none) bs
  | _, _ => call

/-- The random-bit counter of a child or sibling (R280). -/
def childCtr (seq : Word) (member kind : Nat) : Word × Word := (seq, BitVec.ofNat 64 (member + kind * 2 ^ 32))

/-- A gang member as it enters the queue. -/
def newMember (s : State) (rc : Nat) (r : Rec) (xk tier nb nx m : Nat) (x : Scope) : Task :=
  let n := s.me
  let size := gangSize r.gang
  let ctr := childCtr (s.sr n srRBSEQ) m 1
  let arg (i : Nat) : Word := if i == 15 then BitVec.ofNat 64 m else if i < nx then s.x n (56 + i) else 0
  let imgs := ((List.range nb).zip (callBoxes s nb)).filterMap (fun e => match e.2 with
    | none => none
    | some b =>
      let p := memberBox size tier nb m b
      some ⟨e.1, p, p.imaged (imageTier (callSliced size tier nb b) tier b) 0 0 (s.core n).ctx, [], (match snapshot s n x p with
        | .ok l => l
        | .error _ => []), [], false⟩)
  { ctx := (s.core n).ctx
    recIdx := rc
    lrec := r
    tier := tier
    caller := (s.core n).task
    scope := some xk
    gen := x.gen
    tick := s.ctime
    tie := n
    gang := size
    member := m
    lead := s.nid
    args := (List.range 16).map arg
    boxes := callBoxes s nb
    imgs := imgs
    st := .queued
    core := none
    yard := n / 40
    origin := n
    since := s.ctime
    ready := 0
    domain := BitVec.ofNat 64 (domPext s n * 2 ^ 40)
    key0 := s.sr n srRBKEY0
    key1 := s.sr n (srRBKEY0 + 1)
    ctr0 := ctr.1
    ctr1 := ctr.2
    saved := none
    retries := 0
    escaped := false
    changed := false
    cause := 0
    placed := 0
    preempt := none
    seq := none
    scopes := [] }

/-- Moments at which a waiting task's effective priority rises (R297), as looks of its yard. -/
def agingU (s : State) (y : Nat) : List Upd :=
  (List.range 4).map (fun j => postU (s.cycle + 2 ^ 16 * (j + 1)) 3 (.yardDispatch y))

/-- TCALL: the members enter the yard's queue; the caller's RBSEQ advances (R280, R285). -/
def tcallAct (rc xf tier nb nx : Nat) : Act := fun s =>
  let n := s.me
  match recordOf s (s.core n).ctx rc, scopeOf s (s.x n xf).toNat with
  | some r, some (k, x) =>
    let size := gangSize r.gang
    let ct := childTier s tier
    (List.range size).map (fun m => Upd.newTask (newMember s rc r k ct nb nx m x)) ++
    [.scope k { x with tasks := x.tasks ++ (List.range size).map (· + s.nid) }, .sr n srRBSEQ (s.sr n srRBSEQ + 1)] ++
    agingU s (n / 40)
  | _, _ => []

/-! ### SPAWN (R289) -/

/-- Is a core kept by a reservation of a yard for a task other than t (R303)? -/
def reservedFrom (s : State) (n : Nat) (t : Option Nat) : Bool :=
  s.yards.any (fun e => match e.2.reserve with
    | some (l, cs) => cs.contains n && some l != t && (match tfind s.tasks l with
      | some k => k.st == .queued
      | none => false)
    | none => false)

def spawnFault (q : Nat) : State → Option Flt := fun s =>
  let m := quadMate s.me q
  let c := s.core m
  if 160 ≤ s.me || m == s.me || c.run != .idle || (c.task.isSome && !c.sup) || c.mark || coreFenced s m || reservedFrom s m none ||
      coreClass s m < recClass (s.core s.me).lrec
    then some (faultNow s 0x16 0 []) else none

/-- The cores that run a task. -/
def coresOf (s : State) (t : Nat) : List Nat := (s.cores.filter (fun e => e.2.task == some t)).map (·.1)

/-- A quad member's bit set or cleared in every member's DOMAIN (R289). -/
def quadBit (s : State) (t n : Nat) (on : Bool) : List Upd :=
  (coresOf s t).map (fun m => Upd.sr m srDOMAIN (setBit (s.sr m srDOMAIN) (36 + quadPos n) on))

/-- The random-bit registers of a task at its start (R280). -/
def rbStartU (n : Nat) (k0 k1 c0 c1 : Word) : List Upd :=
  let key := genKey k0 k1
  let cv (j : Nat) : Word := BitVec.ofNat 64 (gen128 ⟨c0.toNat % 2 ^ 32, c0.toNat / 2 ^ 32, c1.toNat % 2 ^ 32,
    (c1.toNat / 2 ^ 32) ^^^ (0x80000000 + j)⟩ key).w0
  [.sr n srRBKEY0 k0, .sr n (srRBKEY0 + 1) k1, .sr n srRBCTR0 c0, .sr n (srRBCTR0 + 1) c1,
    .sr n srRBCV0 (cv 0), .sr n (srRBCV0 + 1) (cv 1), .sr n (srRBCV0 + 2) (cv 2)]

/-- The image of a context on a core (R352). -/
def loadU (s : State) (n k : Nat) : List Upd :=
  match (s.ctx k).code with
  | some c => [.load n c.bundles]
  | none => [.load n ((List.range 16384).filterMap (fun i => tfind s.istore (16384 * s.me + i)))]

/-- What of a result is still performed when its core starts anew: matrix work, which is never cut short (R179), and stores. -/
def Pend.outlives (p : Pend) : Option Pend :=
  if p.matrix then some p
  else
    let w := p.wr.filter (fun w => match w with
      | .mem _ _ _ => true
      | _ => false)
    let combining := match p.again with
      | .recvop _ _ _ _ _ _ _ => true
      | _ => false
    if w.isEmpty && !combining then none
    else some { p with
      wr := w
      lat := none }

/-- A matrix operation whose core starts anew keeps the plane its rows stream through (R179). -/
def MOp.hold (p0 p1 : Plane) (m : MOp) : MOp :=
  if (m.kind == 2 || m.kind == 3) && m.kept.isNone then { m with kept := some (if m.plane == 0 then p0 else p1) } else m

/-- The planes of a core's matrix work under way, before its core is cleared. -/
def holdPlanes (n : Nat) : Act := fun s =>
  if (s.core n).mops.isEmpty then []
  else [.core n (fun c => { c with mops := c.mops.map (MOp.hold (s.plane n 0) (s.plane n 1)) })]

/-- A core that starts anew: what it issued before and is still under way goes on (R179). -/
def Core.fresh (c : Core) : Core :=
  { Core.start with
    before := c.before
    image := c.image
    lsOut := c.lsOut
    pend := c.pend.filterMap Pend.outlives
    mops := c.mops
    mflags := c.mflags
    busy := c.busy
    chain := c.chain
    act := c.act
    use0 := c.use0
    use1 := c.use1
    fill := c.fill
    entry := c.entry }

/-- SPAWN: the sibling starts at c + 4. -/
def spawnAct (q e : Nat) : Act := fun s =>
  let n := s.me
  let m := quadMate n q
  let c := s.core n
  let ctr := childCtr (s.sr n srRBSEQ) q 2
  let dom := setBit (s.sr n srDOMAIN) (36 + quadPos m) true
  loadU s m c.ctx ++ holdPlanes m s ++
  [.clear m, .core m (fun d => { d.fresh with
      image := c.image
      run := .issuing
      pc := e
      nextAt := s.cycle + 4
      task := c.task
      ctx := c.ctx
      lrec := c.lrec
      iter := s.cycle + 4
      bound := c.lrec.budget
      spawner := some n }),
    .sr m srSYNCCNT (s.sr n srSYNCCNT), .sr m srDOMAIN dom, .sr n srDOMAIN dom, .sr n srRBSEQ (s.sr n srRBSEQ + 1)] ++
  rbStartU m (s.sr n srRBKEY0) (s.sr n (srRBKEY0 + 1)) ctr.1 ctr.2 ++
  (List.range 16).map (fun i => Upd.x m (48 + i) (s.x n (48 + i))) ++
  (List.range 16).map (fun i => Upd.b m i ((s.b n i).map (fun b => if b.tier == 1 then { b with home := m } else b))) ++
  (match c.task with
    | some t => quadBit s t m true
    | none => [])

/-! ### TRET and the outward copies (R288, R296, R406) -/

/-- Has every engine thread of a core's task completed, as its return needs? -/
def threadsDone (s : State) (t : Nat) : Bool :=
  s.ops.all (fun e => e.2.task != t || (e.2.st == .done && e.2.fin ≤ s.cycle))

/-- Is every sibling the task spawned idle? -/
def siblingsIdle (s : State) (t n : Nat) : Bool := (coresOf s t).all (fun m => m == n)

/-- Nothing of core n is on its way: results, matrix work, far accesses. -/
def coreQuiet (s : State) (n : Nat) : Bool :=
  let c := s.core n
  c.pend.isEmpty && c.mops.isEmpty && c.mflags.isEmpty && c.busy.all (fun e => e.2 ≤ s.cycle) &&
    !s.reqs.any (fun e => e.2.core == n && e.2.op.isNone)

/-- May a returning task on core n go on to its outward copies? -/
def returnReady (s : State) (t n : Nat) (k : Task) : Bool :=
  k.st == .running && (s.core n).held == .tret && !(s.core n).sup && coreQuiet s n &&
    -- the accesses of its siblings are the task's (R289, R406)
    !s.reqs.any (fun e => e.2.task == t && e.2.op.isNone) && threadsDone s t && siblingsIdle s t n && (s.core n).tt.isNone &&
    k.scopes.all (fun c => match tfind s.scopes c with
      | some x => scopeDone s x
      | none => true)

/-- TRET: issue ends. A core without a task goes idle. -/
def tretAct : Act := fun s =>
  let n := s.me
  match (s.core n).task with
  | none => [.core n (fun c => { c with run := .idle })]
  | some t =>
    .core n (fun c => { c with hold := .tret }) ::
    (if (s.core n).spawner.isSome then [postU (s.cycle + 1) 3 (.tretComplete t)]
     else requestU s t none)

/-- Vaults an image or its parent lies in. -/
def boxVaults (s : State) (b : Box) : List Nat :=
  if b.tier == 2 then [b.home]
  else if b.tier == 3 then
    (List.range (b.imageLen / 4096 + 1)).foldl (fun l j => match b.placeOff s (b.first + min (4096 * j) (b.imageLen - 1)) 1 false false with
      | .at_ .dram key => if l.contains (key / 2 ^ 31) then l else l ++ [key / 2 ^ 31]
      | _ => l) []
  else []

/-- The vault and the column of the byte at an offset of a box's image. -/
def colOf (s : State) (b : Box) (j : Nat) : Option (Nat × Nat) :=
  match b.placeOff s (b.first + j) 1 false false with
  | .at_ .dram key => some (key / 2 ^ 31, key % 2 ^ 31 / 64 * 64)
  | _ => none

/-- The columns of an image's copy in the order written: each read where the copy takes it, and written where it leaves it,
once for neighbouring bytes (R275, R296). A FOLD image is neither filled from the parent nor copied out to it. -/
def imgCols (s : State) (inward : Bool) (g : Img) : List (Nat × Nat × Bool) :=
  let fold := g.parent.merge == 3
  let src : Option Box := if inward then (if fold then none else some g.parent) else some g.child
  let dst : Option Box := if inward then some g.child else (if fold then none else some g.parent)
  let put (l : List (Nat × Nat × Bool)) (last : Option (Nat × Nat)) (c : Option (Nat × Nat)) (w : Bool) :
      List (Nat × Nat × Bool) × Option (Nat × Nat) :=
    match c with
    | some x => if last == c then (l, last) else ((x.1, x.2, w) :: l, c)
    | none => (l, last)
  ((List.range g.child.imageLen).foldl (fun (a : List (Nat × Nat × Bool) × Option (Nat × Nat) × Option (Nat × Nat)) j =>
    if !g.child.imageHas j then a
    else
      let r := put a.1 a.2.1 (src.bind (fun b => colOf s b j)) false
      let w := put r.1 a.2.2 (dst.bind (fun b => colOf s b j)) true
      (w.1, r.2, w.2)) ([], none, none)).1.reverse

/-- The default generator's programs for the copies of a task's images, one for each vault (R22, R275; log 23). -/
def generatorU (s : State) (t n : Nat) (k : Task) (imgs : List Img) (inward : Bool) : Act :=
  let cs := imgs.flatMap (imgCols s inward)
  let vs := cs.foldl (fun (l : List Nat) c => if l.contains c.1 then l else l ++ [c.1]) []
  forA vs (fun v => seqA [
    fun s => [.vault v (fun q => { q with
      gens := q.gens ++ [⟨1, t, k.ctx, n, n, v, 0, 0, 0, 0, 0, 32768, true, true, s.cycle, false, 0, 0, 0,
        (cs.filter (fun c => c.1 == v)).map (·.2)⟩] })],
    vaultKick v])

/-- Do generator programs of a task still run or wait? -/
def generating (s : State) (t : Nat) : Bool :=
  s.vaults.any (fun e => e.2.gens.any (fun q => q.task == t) ||
    e.2.queue.any (fun q => q.kind == 1 && q.task == t) || (match e.2.prog with
    | some p => p.req.kind == 1 && p.req.task == t
    | none => false))

/-- A sibling that has returned goes idle, and its bit leaves QM (R289). -/
def siblingsReturn (t : Nat) : Act := fun s =>
  forA ((coresOf s t).filter (fun m => (s.core m).spawner.isSome && (s.core m).held == .tret)) (fun m => fun s =>
    [.core m (fun c => { c with
      run := .idle
      hold := .none
      task := none
      spawner := none
      due := [] })] ++ quadBit s t m false) s

/-- TRET_COMPLETE (R288): the scopes are merged and freed; a failure found there fails the task; otherwise its outward
copies start. -/
def tretCompleteAct (t : Nat) : Act := seqA [
  siblingsReturn t,
  fun s => match tfind s.tasks t with
    | none => []
    | some k => match k.core with
      | none => []
      | some n =>
        if !returnReady s t n k then []
        else
          let bad (s : State) : Bool := k.scopes.any (fun c => match tfind s.scopes c with
            | some x => !x.faults.isEmpty
            | none => false)
          seqA [
            forA k.scopes (mergeScope n t),
            fun s =>
              let fail := bad s
              seqA [
                forA k.scopes (freeScope t),
                fun s =>
                  if fail then [postU s.cycle 3 (.taskFailure t 0x19)]
                  else
                    let w := k.imgs.filter (fun g => g.parent.wr)
                    let dt := if w.isEmpty then 0 else Config.freeNat s.fresh
                    seqA [
                      pureA [.fresh, .task t (fun x => { x with
                          st := .merging
                          ready := s.cycle + dt }), postU (s.cycle + dt) 3 (.outwardMerge t)],
                      generatorU s t n k w false] s] s] s]

/-- The bytes of an image's outward copy: every byte, or under DIRTY those of marked elements (R296). -/
def outward (s : State) (g : Img) : List Host.Cell :=
  let b := g.child
  (List.range b.imageLen).filterMap (fun j =>
    if !b.imageHas j then none
    else match b.placeOff s (b.first + j) 1 false false with
      | .none _ => none
      | pl => (pl.cell).bind (fun c =>
        if b.merge == 2 && !g.marks.contains (c.2 / 4) then none else some (j, (pl.bytes s 1).headD 0)))

/-- Must a returning task wait for an earlier-called sibling whose loan overlaps (R296)? -/
def mustWait (s : State) (t : Nat) (k : Task) : Bool :=
  match k.scope.bind (tfind s.scopes) with
  | none => false
  | some x => (x.tasks.takeWhile (· != t)).any (fun o => match tfind s.tasks o with
    | some q => !(q.st == .done || q.st == .failed) && q.imgs.any (fun a => a.parent.wr &&
        k.imgs.any (fun b => b.parent.wr && a.parent.overlaps s b.parent))
    | none => false)

/-- Bytes of a context's save area in use: sealed records and siding images; each record's overhead is free (R304; log 10). -/
def savedSize (k : Task) : Nat :=
  match k.saved with
  | some v => 1024 * k.lrec.spad + 131072 * (if v.scope.isSome then 8 else k.lrec.tiles) + Config.freeNat k.lead % 2 ^ 20
  | none => 0
def areaUsed (s : State) (ctx : Nat) : Nat :=
  s.tasks.foldl (fun a e => if e.2.ctx != ctx then a
    else a + savedSize e.2 + (if e.2.st == .merging && e.2.core.isNone then (e.2.imgs.map (·.out.length)).foldl (· + ·) 0 else 0)) 0
def areaSize (s : State) (ctx : Nat) : Nat := wbits (s.dsr (0x120 + ctx)) 48 8 * 2 ^ 24

/-- The mailbox's DONE count rises (R333, R379). -/
def mailDone : Act := fun s =>
  [.dev (fun d => { d with doneCnt := d.doneCnt + 1 }), .mem .host (s.dev.mailbox + 16) (bytesOf 8 (s.dev.doneCnt + 1))]

/-- The core of a task goes back to the yard. -/
def releaseCore (n : Nat) : Upd := .core n (fun c => if c.run == .fenced then { c with task := none } else c.fresh)

/-- A root whose members have all returned is counted and forgotten (R333). -/
def rootDone (k : Task) : Act := fun s =>
  let l := (s.tasks.filter (fun e => e.2.lead == k.lead)).map (·.1)
  if k.seq.isSome && l.all (fun t => ((tfind s.tasks t).map (·.st)) == some .done) then
    mailDone s ++ l.map Upd.delTask
  else []

/-- OUTWARD_MERGE (R296): the images leave the core; a task behind an unmerged sibling waits in the siding, or on its core
when the siding is full. The merged values reach the parent's boxes at the join of its scope. -/
def outwardMergeAct (t : Nat) : Act := fun s =>
  match tfind s.tasks t with
  | none => []
  | some k =>
    if k.st != .merging || s.cycle < k.ready then []
    else if generating s t then [postU (s.cycle + 1) 3 (.outwardMerge t)]
    else
      let wait := mustWait s t k
      match k.core with
      | none => if wait then [] else [.task t (fun k => { k with st := .done })]
      | some n =>
        let imgs := k.imgs.map (fun g => if g.parent.wr then { g with out := outward s g } else g)
        let room := areaUsed s k.ctx + (imgs.map (·.out.length)).foldl (· + ·) 0 ≤ areaSize s k.ctx
        if wait && !room then []
        else seqA [
          pureA [.task t (fun k => { k with
              imgs := imgs
              core := none
              st := if wait then .merging else .done }), releaseCore n],
          rootDone k] s

/-! ### Failure and re-execution (R374 to R379) -/

/-- Tasks called, directly or through others, by a task: on fuel, the depth of the task tree. -/
def descendants (s : State) : Nat → List Nat → List Nat
  | 0, l => l
  | f + 1, l =>
    let kids := (s.tasks.filter (fun e => match e.2.caller with
      | some c => l.contains c && !l.contains e.1
      | none => false)).map (·.1)
    if kids.isEmpty then l else descendants s f (l ++ kids)

/-- Stop a task: no bundle more; its engine threads run on (R374). -/
def stopTask (t cause : Nat) : Act := fun s =>
  [.task t (fun k => { k with
    st := .stopped
    cause := cause
    saved := none
    preempt := none })] ++
  (coresOf s t).map (fun n => Upd.core n (fun c => if c.run == .fenced then c else { c with
    hold := .failed
    sup := false
    due := []
    img := none
    dly := 0
    fmtQ := []
    mskQ := []
    zl := [] }))

/-- Do the collectives of a failed gang stand for ever: every member is stopped, and those they wait for never issued (R3)? -/
def collStuck (s : State) (t : Nat) : Bool :=
  let lead (i : Nat) : Option Nat := (tfind s.tasks i).map (·.lead)
  s.tasks.all (fun e => some e.2.lead != lead t || e.2.st == .stopped) &&
    s.ops.all (fun e => e.2.kind != .coll || lead e.2.task != lead t || e.2.st == .done || e.2.flt.isSome ||
      (e.2.st == .waiting && e.2.phase != 9) || e.2.phase == 6)

/-- The operations of a failed task that stand at a routine fault end, and collectives that cannot complete; the next of their
engines start from then (R3, R203). -/
def dropFaulted (t : Nat) : Act := fun s =>
  forA (s.ops.filter (fun e => e.2.task == t && ((e.2.flt.map (·.cause) == some 8 && (e.2.fin == 1 || e.2.kind == .coll)) ||
      (e.2.kind == .coll && e.2.st != .done && collStuck s t))))
    (fun e => seqA [pureA (if e.2.kind == .coll then collEnd e.1 e.2 else [.delOp e.1]), engineNext e.2, cpyFree e.2.core]) s

/-- TASK_FAILURE: the whole gang stops, and so do its descendants, whose scopes are freed (R374, R377). -/
def taskFailureAct (t cause : Nat) : Act := fun s =>
  match tfind s.tasks t with
  | none => []
  | some k =>
    if k.st == .done || k.st == .stopped || k.st == .failed then []
    else
      let gang := (s.tasks.filter (fun e => e.2.lead == k.lead)).map (·.1)
      let kids := (descendants s s.tasks.length gang).filter (fun d => !gang.contains d)
      seqA [
        forA gang (fun m => stopTask m cause),
        forA kids (fun m => seqA [stopTask m 0, pureA [.task m (fun k => { k with
          caller := none
          scope := none
          seq := none })]]),
        fun s => (s.scopes.filter (fun e => e.2.live && (gang ++ kids).contains e.2.owner)).map (fun e =>
          Upd.scope e.1 { e.2 with
            live := false
            tasks := []
            faults := []
            old := []
            freed := s.cycle }),
        fun _ => (gang ++ kids).map (fun m => Upd.task m (fun k => { k with scopes := [] }))] s

/-- Is a stopped task's core drained: threads complete, timetable over? -/
def stopDrained (s : State) (t : Nat) : Bool :=
  threadsDone s t && (coresOf s t).all (fun n => (s.core n).run == .fenced || (coreQuiet s n && (s.core n).tt.isNone))

/-- May a failed gang run again (R375, R376, R378)? -/
def mayRetry (s : State) (gang : List Task) : Bool :=
  gang.all (fun k => !k.lrec.nrep && !k.escaped && !k.changed &&
    k.retries < wbits (s.dsr 0x13C) (4 * k.ctx) 4)

/-- A mailbox entry's STATUS after its root failed (R379). -/
def rootFailed (seq cause : Nat) : Act := fun s =>
  .mem .host (s.dev.mailbox + 256 * (seq % 255 + 1) + 152) (bytesOf 4 (5 + 256 * cause)) :: mailDone s

/-- RE_EXECUTION: a failed gang whose threads have ended is placed again, or its failure is delivered (R376 to R379). -/
def reExecutionAct (t : Nat) : Act := fun s =>
  match tfind s.tasks t with
  | none => []
  | some k =>
    let ids := (s.tasks.filter (fun e => e.2.lead == k.lead)).map (·.1)
    let gang := ids.filterMap (tfind s.tasks)
    if k.st != .stopped || !ids.all (fun i => stopDrained s i) || gang.any (fun g => g.st != .stopped) then []
    else
      let rel := ids.flatMap (fun i => (coresOf s i).map releaseCore)
      if k.caller.isNone && k.seq.isNone then rel ++ ids.map Upd.delTask
      else if mayRetry s gang then
        rel ++ ids.map (fun i => Upd.task i (fun g => { g with
          st := .queued
          core := none
          retries := g.retries + 1
          cause := 0
          since := s.ctime
          imgs := g.imgs.map (fun m => { m with
            marks := []
            out := [] }) })) ++ agingU s k.yard
      else match k.seq with
        | some q => rel ++ rootFailed q k.cause s ++ ids.map Upd.delTask
        | none =>
          rel ++ ids.map (fun i => Upd.task i (fun g => { g with
            st := .failed
            core := none })) ++
          (match k.scope.bind (fun c => (tfind s.scopes c).map (fun x => (c, x))) with
            | some (c, x) => scopeFault c (childFlt k.cause k.recIdx (callPos s x t) 0 [] 0) s
            | none => [])

/-! ### Instructions and events -/

/-- FINOPEN (R290). -/
def execFinopen (d : Nat) (s : State) : Host.Outcome State Fault Refusal := done (guarded finopenFault (finopenAct d)) s
/-- FINWAIT (R291). -/
def execFinwait (f : Nat) (s : State) : Host.Outcome State Fault Refusal := done (guarded (finwaitFault f) (finwaitAct f)) s
/-- TCALL (R285). -/
def execTcall (rc xf tier nb nx : Nat) (s : State) : Host.Outcome State Fault Refusal :=
  done (checked (tcallLegal nb nx) (tcallFault rc xf tier nb) (tcallAct rc xf tier nb nx)) s
/-- SPAWN (R289). -/
def execSpawn (q e : Nat) (s : State) : Host.Outcome State Fault Refusal := done (guarded (spawnFault q) (spawnAct q e)) s
/-- TRET (R288). -/
def execTret (s : State) : Host.Outcome State Fault Refusal := done tretAct s
/-- TRET_COMPLETE (R288). -/
def execTretComplete (t : Nat) (s : State) : Host.Outcome State Fault Refusal := done (tretCompleteAct t) s
/-- OUTWARD_MERGE (R296). -/
def execOutwardMerge (t : Nat) (s : State) : Host.Outcome State Fault Refusal := done (outwardMergeAct t) s
/-- TASK_FAILURE (R374). -/
def execTaskFailure (t cause : Nat) (s : State) : Host.Outcome State Fault Refusal := done (taskFailureAct t cause) s
/-- RE_EXECUTION (R376). -/
def execReExecution (t : Nat) (s : State) : Host.Outcome State Fault Refusal := done (reExecutionAct t) s

end Sys2Proof.Machine
end

