-- ==== Sys2Proof/Machine/Yard.lean ====
section
/-! DEFINITION. The yards (R297 to R304): choosing and placing tasks, starting them, pre-emption, reservations, saving
and restoring contexts, scopes that complete, and roots from the mailbox (R332, R333). -/

namespace Sys2Proof.Machine

/-! ### Queues (R297) -/

/-- Was a queued task suspended alone, at a FINWAIT? -/
def Task.alone (k : Task) : Bool := match k.saved with
  | some v => v.scope.isSome
  | none => false

/-- The tasks placed together with one: its gang, or a member that returns from a FINWAIT alone. -/
def unitOf (s : State) (t : Nat) (k : Task) : List Nat :=
  if k.alone then [t] else (s.tasks.filter (fun e => e.2.lead == k.lead)).map (·.1)

/-- Units waiting in a yard, by their first member. -/
def waiting (s : State) (y : Nat) : List (Nat × Task) :=
  s.tasks.filter (fun e => e.2.yard == y && e.2.st == .queued && (e.2.alone ||
    (e.2.lead == e.1 && (unitOf s e.1 e.2).all (fun i => match tfind s.tasks i with
      | some q => q.st == .queued
      | none => false))))

/-- The effective priority of a waiting task (R297). -/
def effPrio (s : State) (k : Task) : Nat := min 3 (k.lrec.prio + (s.ctime - k.since) / 2 ^ 16)

/-- Is task a taken before task b: higher effective priority, then earlier call order? -/
def before (s : State) (a b : Nat × Task) : Bool :=
  let pa := effPrio s a.2
  let pb := effPrio s b.2
  pb < pa || (pa == pb && (a.2.tick < b.2.tick || (a.2.tick == b.2.tick && (a.2.tie < b.2.tie ||
    (a.2.tie == b.2.tie && a.1 < b.1)))))

/-- The waiting units of a yard, in the order it takes them. -/
def inOrder (s : State) (y : Nat) : List (Nat × Task) :=
  (waiting s y).foldl (fun l e => l.filter (fun a => before s a e) ++ [e] ++ l.filter (fun a => !before s a e)) []

/-! ### Placements (R298) -/

/-- The four cores of quad q of a die, by quad position. -/
def quadCores (die q : Nat) : List Nat :=
  (List.range 4).map (fun p => 40 * die + (q / 5 * 2 + p / 2) * 10 + q % 5 * 2 + p % 2)

/-- Dies in the order they are tried. -/
def dieOrder (d : Nat) : List Nat := (List.range 4).map (fun i => (d + i) % 4)

/-- The placements tried for a unit, in order. A member that returns from a FINWAIT in a larger gang keeps its place. -/
def candidates (k : Task) : List (List Nat) :=
  let d := k.origin / 40
  let pext := wbits k.domain 40 3
  let dies := if pext ≤ 1 then [d] else dieOrder d
  match k.alone && 1 < k.gang, k.saved with
  | true, some v => [[v.left]]
  | _, _ =>
    if k.gang == 1 then
      (if pext == 0 then (List.range 40).map (fun c => [40 * d + c]) |>.filter (fun l =>
          quadOf' (l.headD 0) == quadOf' k.origin)
       else dies.flatMap (fun e => (List.range 40).map (fun c => [40 * e + c])))
    else if k.gang == 4 then
      (if pext == 0 then [quadCores d (quadOf' k.origin)] else dies.flatMap (fun e => (List.range 10).map (quadCores e)))
    else if k.gang == 40 then dies.map (fun e => (List.range 40).map (· + 40 * e))
    else [List.range 160]

/-- Cores a context holds. -/
def heldCores (s : State) (k : Nat) : Nat := (s.cores.filter (fun e => e.2.task.isSome && e.2.ctx == k)).length

/-- Does YCTL let the yards dispatch tasks of a context now (R304, R352, R390, R391)? -/
def dispatchable (s : State) (k : Nat) : Bool :=
  let y := s.dsr (0x120 + k)
  y.getLsbD 0 && !y.getLsbD 1 && (s.ctx k).accepted && !s.dev.capHold && !s.dev.thermHold

/-- Can task `lead` of context k take core n; `gone` are cores counted as free? -/
def coreTakes (s : State) (k lead cls n : Nat) (gone : List Nat) : Bool :=
  let c := s.core n
  (gone.contains n || (c.run == .idle && !c.mark && (c.task.isNone || c.sup))) && c.run != .fenced && !coreFenced s n &&
    cls ≤ coreClass s n && (s.dsr (0x120 + k)).getLsbD (8 + n / 40) && !reservedFrom s n (some lead)

/-- The images of a unit laid out for its cores, member by member, when they fit (R287). -/
def layImages (s : State) (k : Nat) (ids cores : List Nat) : Option (List (Nat × List Img)) :=
  let (first, nrow) := arenaRows s k
  let vs := cores.map ownVault
  let rows := vs.flatMap (usedRows s k)
  let step (a : Option (List (Nat × List Img) × List (Nat × Nat) × List (Nat × Nat))) (e : Nat × Nat) :=
    match a, tfind s.tasks e.1 with
    | some (l, _, arena), some t =>
      -- T2 images of every member lie at the same rows
      let r := t.imgs.foldl (fun (b : Option (List Img × Nat × List (Nat × Nat) × List (Nat × Nat))) g =>
        match b with
        | none => none
        | some (gs, at1, rws, ar) =>
          let n := g.child.imageLen
          let key := g.child.key
          match g.child.tier with
          | 1 => some (gs ++ [{ g with child := { g.child with home := e.2, org := at1, key := key } }],
              at1 + (n + 1023) / 1024 * 1024, rws, ar)
          | 2 => match lowestFree rws ((n + 65535) / 65536) 1 (first + nrow) with
            | some o => some (gs ++ [{ g with child := { g.child with home := ownVault e.2, org := o } }], at1,
                (o, o + (n + 65535) / 65536) :: rws, ar)
            | none => none
          | _ => match lowestFree ar n 4096 (arenaBytes s k) with
            | some o => some (gs ++ [{ g with child := { g.child with home := 63, org := o } }], at1, rws, (o, o + n) :: ar)
            | none => none) (some ([], 0, (0, first) :: rows, arena))
      (match r with
        | some (gs, _, _, ar) => some (l ++ [(e.1, gs)], [], ar)
        | none => none)
    | _, _ => none
  match (ids.zip cores).foldl step (some ([], [], usedArena s k)) with
  | some (l, _) => some l
  | none => none

/-- The first placement of a unit, cores in `gone` counted as free (R298, R304). -/
def placement (s : State) (t : Nat) (k : Task) (gone : List Nat) : Option (List Nat) :=
  let y := s.dsr (0x120 + k.ctx)
  let size := (unitOf s t k).length
  let cmax := wbits y 56 8
  let own := gone.filter (fun n => (s.core n).task.isSome && (s.core n).ctx == k.ctx)
  if !dispatchable s k.ctx || (cmax != 0 && cmax < heldCores s k.ctx - own.length + size) then none
  else (candidates k).find? (fun cs =>
    cs.length == size && cs.all (fun n => coreTakes s k.ctx k.lead (recClass k.lrec) n gone) &&
      (k.saved.isSome || (layImages s k.ctx (unitOf s t k) cs).isSome))

/-- Does a call come earlier than another in call order (R297)? -/
def callBefore (a b : Nat × Task) : Bool :=
  a.2.tick < b.2.tick || (a.2.tick == b.2.tick && (a.2.tie < b.2.tie || (a.2.tie == b.2.tie && a.1 < b.1)))

/-- May a task be dispatched past the reservation of its yard: the reserving task itself, and tasks of earlier call order
(R297, R302)? -/
def mayPass (s : State) (y : Nat) (e : Nat × Task) : Bool :=
  match (s.yard y).reserve with
  | some (l, _) => (match tfind s.tasks l with
    | some k => k.st != .queued || e.1 == l || callBefore e (l, k)
    | none => true)
  | none => true

/-- The unit a yard dispatches next and its cores (R297). -/
def nextPlace (s : State) (y : Nat) : Option (Nat × Task × List Nat) :=
  ((inOrder s y).filter (mayPass s y)).foldl (fun a e => match a with
    | some x => some x
    | none => (placement s e.1 e.2 []).map (fun cs => (e.1, e.2, cs))) none

/-- A DOMAIN identifier no other task of the device has; which one is free (R305; log 10). -/
def freshDid (s : State) : Nat :=
  let used := s.tasks.map (fun e => e.2.domain.toNat % 2 ^ 32) ++ s.cores.map (fun e => (s.sr e.1 srDOMAIN).toNat % 2 ^ 32)
  let base := Config.freeNat s.fresh
  ((List.range (used.length + 1)).map (fun j => (base + j) % 2 ^ 32)).find? (fun d => !used.contains d) |>.getD 0

/-- The DOMAIN of a task on a core (R305). -/
def placedDomain (did : Nat) (k : Task) (n : Nat) : Word :=
  let qm := if k.gang == 1 then 2 ^ quadPos n else 15
  if k.seq.isSome || k.saved.isSome then
    BitVec.ofNat 64 (k.domain.toNat - wbits k.domain 36 4 * 2 ^ 36 + qm * 2 ^ 36)
  else BitVec.ofNat 64 (wbits k.domain 40 3 * 2 ^ 40 + qm * 2 ^ 36 +
    (if k.gang ≤ 4 then 0 else if k.gang == 40 then 1 else 2) * 2 ^ 33 + did)

/-- Cycles a save or a restore takes (R300, R401). -/
def saveTime (k : Task) (all : Bool) : Nat := 256 + 4 * k.lrec.spad + 512 * (if all then 8 else k.lrec.tiles)

/-- Cycles in which the instruction store of core n is reloaded with the image of context k at 256 B a cycle: none where it
holds that image (R352). A restore takes the time of R401 (log 92). -/
def reloadTime (s : State) (n k : Nat) : Nat :=
  if (s.core n).image == some k then 0
  else match (s.ctx k).code with
    | some c => (32 * c.bundles.length + 255) / 256
    | none => 0

/-- Place a unit: cores reserved, images laid, copies or the restore begun (R287, R297, R299, R401). The start comes
after the copies and the reloads of the cores' stores. -/
def placeUnit (t : Nat) (k : Task) (cs : List Nat) : Act := fun s =>
  let ids := unitOf s t k
  let dt := if k.saved.isSome then saveTime k k.alone + (if 1 < ids.length then 8 + Config.freeNat s.fresh else 0)
    else cs.foldl (fun m n => max m (reloadTime s n k.ctx + 1)) (8 + Config.freeNat s.fresh)
  let imgs := (layImages s k.ctx ids cs).getD []
  let did := freshDid s
  seqA [
    pureA [.fresh],
    forA (ids.zip cs) (fun e => fun s => match tfind s.tasks e.1 with
      | none => []
      | some q =>
        [.task e.1 (fun q => { q with
            st := if q.saved.isSome then .restoring else .starting
            core := some e.2
            placed := s.ctime
            domain := placedDomain did q e.2
            imgs := if q.saved.isSome then q.imgs else ((imgs.find? (fun i => i.1 == e.1)).map (·.2)).getD q.imgs
            ready := s.cycle + dt }),
          .core e.2 (fun c => { c with
            task := some e.1
            ctx := q.ctx }),
          if q.saved.isSome then postU (s.cycle + dt) 3 (.contextRestore e.1) else postU (s.cycle + 1) 3 (.taskStart e.1)]),
    pureA ((List.range 4).map (fun y => Upd.yard y (fun q => match q.reserve with
      | some (l, _) => if l == t then { q with reserve := none } else q
      | none => q))),
    forA (ids.zip cs) (fun e => fun s => match tfind s.tasks e.1 with
      | some q => if q.saved.isSome then [] else generatorU s e.1 e.2 q q.imgs true s
      | none => [])] s

/-- YARD_DISPATCH (R297). -/
def yardDispatchAct (y : Nat) : Act := fun s =>
  match nextPlace s y with
  | some (t, k, cs) => placeUnit t k cs s
  | none => []

/-! ### Starting (R279, R287, R299, R404, R407) -/

/-- The peer views of a sliced argument's other members (R404). -/
def peerViews (s : State) (k : Task) : List (Nat × Box) :=
  match k.scope, k.imgs with
  | some _, [g] =>
    if k.gang == 4 && k.tier == 2 && k.boxes.length == 1 && g.parent.rank + 1 == ((k.boxes.headD none).map (·.rank)).getD 0 then
      (List.range 3).filterMap (fun j =>
        match tfind s.tasks (k.lead + (k.member ^^^ (j + 1))) with
        | some q => match q.imgs with
          | h :: _ => some (j + 1, { h.child with
              rd := false
              wr := true
              merge := 0
              peer := true })
          | [] => none
        | none => none)
    else []
  | _, _ => []

/-- The boxes of a task at its start: images for a child; a root's boxes as its entries state, T1 on its core. -/
def startBoxes (s : State) (k : Task) (n : Nat) : List (Nat × Box) :=
  if k.seq.isSome then
    ((List.range 8).zip k.boxes).filterMap (fun e => e.2.map (fun b => (e.1, if b.tier == 1 then { b with home := n, key := k.ctx } else b)))
  else k.imgs.map (fun g => (g.arg, g.child)) ++ peerViews s k

/-- The byte of a context's data segment at an address: of HBM, of sealed host memory, or a free one where the address
translates to nothing that opens (log 94). -/
def segmentByte (s : State) (k a : Nat) : Byte :=
  let x := translate s k a true false
  if x.cause != 0 then Config.freeBits 8 (s.fresh * 2 ^ 64 + a)
  else if !x.host then memGet s.dram (t3key x.phys)
  else
    let base := rangeWord s k x.entry 2 % 2 ^ 48
    match t4Open s k x.entry base x.shadow ((x.phys - base) / 64) with
    | some u => u.getD ((x.phys - base) % 64) 0
    | none => Config.freeBits 8 (s.fresh * 2 ^ 64 + a)

/-- The bytes a root's T1 box is filled with: those of the data segment, or zeros (R407). -/
def rootFill (s : State) (k : Task) (n : Nat) : List Upd :=
  if k.seq.isNone then []
  else .fresh :: ((List.range 8).zip k.boxes).flatMap (fun e => match e.2 with
    | some b =>
      if b.tier != 1 then []
      else
        let len := b.imageLen
        let src := b.key
        -- by offset from the box's origin, within the scratchpad
        (List.range len).filterMap (fun (j : Nat) =>
          let o := b.first + (j : Int)
          let a := (b.org : Int) + o
          if 0 ≤ a && a < 2 ^ 22 then some (Upd.mem .spad (skey n a.toNat)
            [if src == 2 ^ 64 - 1 then 0#8 else segmentByte s k.ctx (((src : Int) + o) % 2 ^ 48).toNat])
          else none)
    | none => [])

/-- The sequencer of a task at its first bundle (R279). -/
def startCore (k : Task) (t : Nat) (at_ : Nat) (c : Core) : Core :=
  let skip := k.trips == 0 && !k.lrec.hp
  { c.fresh with
    image := some k.ctx
    run := .issuing
    pc := if k.lrec.hp then k.lrec.pro else if skip && k.lrec.he then k.lrec.epi else k.lrec.kern
    nextAt := at_
    task := some t
    ctx := k.ctx
    lrec := k.lrec
    part := if k.lrec.hp then 0 else if skip then 2 else 1
    iter := at_
    bound := if k.lrec.hp || skip then 2 ^ 20 else k.lrec.budget }

/-- The inward copy of an image: its bytes at their places; sealed bytes of the call arena by element (R287, R356). -/
def fillImage (t : Nat) (g : Img) : Act := fun s =>
  let at_ (s : State) (j n : Nat) : Place := g.child.placeOff s (g.child.first + j) n false false
  if isHost s g.child then forA (g.pieces g.vals) (fun l => fun s => match at_ s (l.headD (0, 0)).1 l.length with
    | .sealed k entry phys shadow base => sealU (some t) k entry phys shadow base (l.map (·.2)) s
    | .at_ sp key => [.mem sp key (l.map (·.2))]
    | _ => []) s
  else g.vals.filterMap (fun e => match at_ s e.1 1 with
    | .at_ sp key => some (Upd.mem sp key [e.2])
    | _ => none)

/-- TASK_START: the inward copies are there, and the first bundle issues now. -/
def taskStartAct (t : Nat) : Act := fun s =>
  match tfind s.tasks t with
  | none => []
  | some k => match k.st == .starting, k.core with
    | true, some n =>
      -- the start is at least eight ticks after the gang's last copy (R299)
      if (s.tasks.any (fun e => e.2.lead == k.lead && e.2.st == .starting && generating s e.1)) then
        [.task t (fun k => { k with ready := max k.ready (s.cycle + 9) }), postU (s.cycle + 1) 3 (.taskStart t)]
      else if s.cycle < k.ready then [postU k.ready 3 (.taskStart t)]
      else
        forA k.imgs (fillImage t) s ++ loadU s n k.ctx ++ holdPlanes n s ++ [.clear n, .core n (startCore k t s.cycle),
          .sr n srTRIPC (BitVec.ofNat 64 k.trips), .sr n srDOMAIN k.domain] ++
        rbStartU n k.key0 k.key1 k.ctr0 k.ctr1 ++
        (List.range 16).map (fun i => Upd.x n (48 + i) (k.args.getD i 0)) ++
        (startBoxes s k n).map (fun e => Upd.b n e.1 (some e.2)) ++
        rootFill s k n ++
        [.task t (fun k => { k with
          st := .running
          imgs := k.imgs.map (fun g => { g with marks := [] }) })]
    | _, _ => []

/-! ### Pre-emption (R300, R301) and reservations (R303) -/

/-- Is a yard's request outstanding? -/
def requestOpen (s : State) (y : Nat) : Bool :=
  match (s.yard y).request with
  | some l => s.tasks.any (fun e => e.2.lead == l && e.2.preempt.isSome && e.2.st == .running)
  | none => false

/-- Running gangs by their first member, with their cores. -/
def runningGangs (s : State) : List (Nat × Task × List Nat) :=
  (s.tasks.filter (fun e => e.2.lead == e.1 && e.2.st == .running)).map (fun e =>
    (e.1, e.2, (s.tasks.filter (fun q => q.2.lead == e.1)).filterMap (fun q => q.2.core)))

/-- The running task whose pre-emption would make a placement: lowest priority, then most recently dispatched (R300). -/
def victimFor (s : State) (t : Nat) (k : Task) : Option Nat :=
  -- its cores are its members' and those of the siblings they spawned
  let ok := (runningGangs s).filter (fun g => g.2.1.lrec.prio < effPrio s k && (placement s t k
    ((s.tasks.filter (fun q => q.2.lead == g.1)).flatMap (fun q => coresOf s q.1))).isSome)
  (ok.foldl (fun (m : Option (Nat × Task)) g => match m with
    | none => some (g.1, g.2.1)
    | some x => if g.2.1.lrec.prio < x.2.lrec.prio || (g.2.1.lrec.prio == x.2.lrec.prio && x.2.placed < g.2.1.placed) then
        some (g.1, g.2.1) else m) none).map (·.1)

/-- Is a core at a FINWAIT or a TRET, which a request for pre-emption does not outlast (R300)? -/
def atRest (s : State) (n : Nat) : Bool := match (s.core n).held with
  | .tret => true
  | .finwait _ _ _ => true
  | _ => false

/-- A later-called running task on a reserved core (R303); one at a FINWAIT or a TRET leaves by itself. -/
def evictFor (s : State) (y : Nat) : Option Nat :=
  match (s.yard y).reserve with
  | none => none
  | some (l, cs) => match tfind s.tasks l with
    | none => none
    | some k => ((runningGangs s).find? (fun g => (g.2.2.any (fun n => cs.contains n) || (s.tasks.any (fun q =>
          q.2.lead == g.1 && (coresOf s q.1).any (fun n => cs.contains n)))) &&
        !g.2.2.any (atRest s) && callBefore (l, k) (g.1, g.2.1))).map (·.1)

/-- Iteration boundaries a member has still to reach: the index of its next one (R301). -/
def nextBoundary (s : State) (k : Task) : Nat :=
  match k.core with
  | some n => k.trips - wbits (s.sr n srTRIPC) 0 32 + 1
  | none => 1

/-- Are dispatch and resumption held, so that running tasks are not touched (R390, R391)? -/
def State.held (s : State) : Bool := s.dev.capHold || s.dev.thermHold

/-- PREEMPTION_REQUEST: the gang is to stop at the first boundary that every member has before it; a request that meets a
member at FINWAIT or TRET is withdrawn. -/
def preemptionRequestAct (y t : Nat) : Act := fun s =>
  match tfind s.tasks t with
  | none => []
  | some k =>
    let gang := s.tasks.filter (fun e => e.2.lead == k.lead)
    if k.st != .running || s.held || requestOpen s y || gang.any (fun e => match e.2.core with
        | some n => atRest s n
        | none => false) then []
    else
      let at_ := (gang.map (fun e => nextBoundary s e.2)).foldl max 0
      .yard y (fun q => { q with request := some k.lead }) :: gang.map (fun e => Upd.task e.1 (fun q => { q with preempt := some at_ }))

/-- Has a task waited 2^16 ticks at effective priority 3 (R303)? -/
def waitedLong (s : State) (k : Task) : Bool := k.since + (3 - k.lrec.prio + 1) * 2 ^ 16 ≤ s.ctime

/-- The placement a reservation fixes: cores held by running tasks, their siblings' too, counted as free. -/
def reservePlace (s : State) (k : Task) : Option (List Nat) :=
  let gone := (s.tasks.filter (fun e => e.2.st == .running)).flatMap (fun e => coresOf s e.1)
  (candidates k).find? (fun cs => cs.all (fun n => coreTakes s k.ctx k.lead (recClass k.lrec) n gone))

/-- Is a reservation of a yard still for a waiting task? -/
def reserved (s : State) (y : Nat) : Bool := match (s.yard y).reserve with
  | some (l, _) => (match tfind s.tasks l with
    | some k => k.st == .queued
    | none => false)
  | none => false

/-- RESERVATION (R303). -/
def reservationAct (y t : Nat) : Act := fun s =>
  match inOrder s y with
  | e :: _ =>
    if e.1 != t || s.held || reserved s y || effPrio s e.2 != 3 || !waitedLong s e.2 || (placement s t e.2 []).isSome then []
    else match reservePlace s e.2 with
      | some cs => [.yard y (fun q => { q with reserve := some (t, cs) })]
      | none => []
  | [] => []

/-! ### Saving and restoring (R291, R300, R372, R401) -/

/-- May the save of a task on core n start (R291, R300)? Copies on the board may wait. -/
def saveReady (s : State) (t n : Nat) : Bool :=
  coreQuiet s n && !(s.core n).sup && (s.core n).due.isEmpty && (s.core n).tt.isNone && siblingsIdle s t n &&
    s.ops.all (fun e => e.2.task != t || (e.2.kind == .cpy && e.2.st == .waiting) || e.2.st == .done) &&
    s.vaults.all (fun e => e.2.queue.all (fun q => q.task != t && q.owner != n) && (match e.2.prog with
      | some p => p.req.task != t && p.req.owner != n
      | none => true))

/-- A core's context as a save stores it; `all` keeps every rotating name and every tile (R291, R300, R372). -/
def capture (s : State) (n t : Nat) (k : Task) (all : Bool) (scope : Option Nat) : Saved :=
  let rotb := s.sr n srROTB
  let keepV := (List.range 64).filter (fun v => all || v < 16 + k.lrec.rot)
  let v : Saved :=
  { left := n
    core := s.core n
    xs := tslice s.xreg (64 * n) 64
    vs := keepV.foldl (fun m v => tput m (vphys rotb v) (s.v n (vphys rotb v))) []
    ps := tslice s.preg (16 * n) 16
    bs := tslice s.breg (16 * n) 16
    tl := tslice s.tile (8 * n * 32768) ((if all then 8 else k.lrec.tiles) * 32768)
    -- the trap record too, where it has an image (R372)
    srs := (tslice s.sysreg (4096 * n) (if (s.core n).img.isSome then 0x111 else 256)).filter (fun e => e.1 != srCORECAP && e.1 != 0)
    spad := tslice s.spad (skey n 0) (1024 * k.lrec.spad)
    tags := tslice s.tags (4096 * n) k.lrec.spad
    planes := tslice s.planes (2 * n) 2
    scope := scope
    counter := (s.core n).iter
    slot := t
    count := tget 0 (s.ctx k.ctx).saves t + 1
    tag := 0 }
  { v with tag := sealTag s.dev.sealEpoch v }

/-- The save begins: the context is stored and sealed, and the core is kept until the save's time has run. -/
def beginSave (t n : Nat) (k : Task) (scope : Option Nat) (ev : Instr) : Act := fun s =>
  let dt := saveTime k scope.isSome
  [.task t (fun q => { q with
      saved := some (capture s n t k scope.isSome scope)
      domain := s.sr n srDOMAIN
      st := .suspended
      preempt := none
      ready := s.cycle + dt }),
    .unlatch n,
    .core n (fun _ => { Core.start with
      task := some t
      ctx := k.ctx
      lrec := k.lrec
      mark := true }),
    .ctx k.ctx (fun c => { c with saves := tput c.saves t (tget 0 c.saves t + 1) }),
    postU (s.cycle + dt) 3 ev]

/-- The save is over: the core goes back to the yard. -/
def endSave (t n : Nat) : List Upd := [.task t (fun q => { q with core := none }), releaseCore n]

/-- Have all members of a gang reached the boundary and met the conditions of a save, every SEND arrived, or begun it (R301,
R317)? -/
def gangSaveReady (s : State) (k : Task) : Bool :=
  (s.tasks.filter (fun e => e.2.lead == k.lead)).all (fun e => e.2.st == .suspended || (match e.2.core with
    | some m => (s.core m).held == .save && saveReady s e.1 m && !s.pkts.any (fun q => q.2.kind == 0 && q.2.src == m)
    | none => false))

/-- CONTEXT_SAVE: a pre-empted task at its boundary is stored, its gang with it, and re-enters its queue with its record
priority and original call order (R300, R301). -/
def contextSaveAct (t : Nat) : Act := fun s =>
  match tfind s.tasks t with
  | none => []
  | some k => match k.core with
    | none => []
    | some n =>
      if k.st == .suspended && k.saved.isSome && !k.alone then
        (if s.cycle < k.ready then []
         else endSave t n ++ [.task t (fun q => { q with
            st := .queued
            since := s.ctime })] ++ agingU s k.yard)
      else if k.st != .running || (s.core n).held != .save then []
      else (if gangSaveReady s k then beginSave t n k none (.contextSave t) s else [])

/-- FINWAIT_SUSPEND: the conditions of R291 hold; the context is saved, or waits in place when the save area is full. -/
def finwaitSuspendAct (t : Nat) : Act := fun s =>
  match tfind s.tasks t with
  | none => []
  | some k => match k.core with
    | none => []
    | some n =>
      if k.st == .suspended && k.alone then (if s.cycle < k.ready then [] else endSave t n)
      else match k.st == .running, (s.core n).held with
        | true, .finwait f pc false =>
          if !saveReady s t n then []
          else if areaSize s k.ctx < areaUsed s k.ctx + 1024 * k.lrec.spad + 131072 * 8 + Config.freeNat k.lead % 2 ^ 20 then
            [.core n (fun c => { c with
              hold := .finwait f pc true
              iter := s.cycle - c.iter }), supEvent evSaveArea k.ctx]
          else beginSave t n k (some f) (.finwaitSuspend t) s
        | _, _ => []

/-- Does a core wait in place on a scope? -/
def stuckOn (c : Core) (f : Nat) : Bool := match c.held with
  | .finwait g _ b => b && g == f
  | _ => false

/-- The address of the FINWAIT that holds a core. -/
def finwaitPc (h : Hold) : Nat := match h with
  | .finwait _ pc _ => pc
  | _ => 0

/-- SCOPE_COMPLETE: a suspended owner becomes ready; one that waits in place goes on, its scope merged and freed (R291). -/
def scopeCompleteAct (f : Nat) : Act := fun s =>
  match tfind s.scopes f with
  | none => []
  | some x =>
    if !x.live || !scopeDone s x then []
    else match tfind s.tasks x.owner with
      | none => []
      | some k =>
        if k.st == .suspended && k.core.isNone && k.saved.any (fun v => v.scope == some f) then
          .task x.owner (fun q => { q with
            st := .queued
            since := s.ctime }) :: agingU s k.yard
        else forA ((coresOf s x.owner).filter (fun n => stuckOn (s.core n) f)) (fun n => seqA [
          pureA [.core n (fun c => c.release (s.cycle + 1))],
          joinScope n x.owner f (finwaitPc (s.core n).held)]) s

/-- The copies of a restored task that wait on the board go on from its new core; each departs at its tick or when the
restore has ended (R300). -/
def boardBack (t old n at_ : Nat) : Act := fun s =>
  (s.ops.filter (fun e => e.2.task == t && e.2.kind == .cpy && e.2.st == .waiting)).flatMap (fun e =>
    [Upd.op e.1 (fun p => { p with
        core := n
        start := max p.start at_
        boxes := p.boxes.map (Box.rebase old n) }),
      postU (max e.2.start at_) 2 (.cpyDeparture e.1)])

/-- An image moved with its owner's core. -/
def Img.rebase (old new : Nat) (g : Img) : Img :=
  { g with
    child := g.child.rebase old new
    marks := if g.child.tier == 1 && g.child.home == old then g.marks.map (fun m => m + 2 ^ 20 * new - 2 ^ 20 * old) else g.marks }

/-- A restore that Sirlen refuses: the context is fenced, its yards held and the task failed with an integrity fault, and the
supervisor learns of it (R337; log 103). -/
def refuseRestore (t n : Nat) (k : Task) : Act := fun s => [
  .task t (fun q => { q with saved := none }),
  devSr (0x120 + k.ctx) (setBit (s.dsr (0x120 + k.ctx)) 1 true), supEvent evIntegrity k.ctx,
  .core n (fun c => { c with mark := false }), postU s.cycle 3 (.taskFailure t 0x22)]

/-- What a core has under way from before goes on in a context restored to it: matrix work is never cut short (R179). -/
def Core.goesOn (old : Core) (p0 p1 : Plane) (c : Core) : Core :=
  { c with
    pend := old.pend.filterMap Pend.outlives
    mops := old.mops.map (MOp.hold p0 p1)
    mflags := old.mflags
    busy := old.busy
    chain := old.chain
    before := old.before
    use0 := max c.use0 old.use0
    use1 := max c.use1 old.use1
    fill := max c.fill old.fill
    entry := max c.entry old.entry
    lsOut := old.lsOut }

/-- CONTEXT_RESTORE (R401): the next bundle issues in the cycle after the restore ends. -/
def contextRestoreAct (t : Nat) : Act := fun s =>
  match tfind s.tasks t with
  | none => []
  | some k => match k.st == .restoring, k.core, k.saved with
    | true, some n, some v =>
      if s.cycle < k.ready then []
      else if !v.genuine s.dev.sealEpoch t (tget 0 (s.ctx k.ctx).saves t) then refuseRestore t n k s
      else
        let u := s.cycle + 1
        let c := Core.goesOn (s.core n) (s.plane n 0) (s.plane n 1) { v.core with
          image := some k.ctx
          run := .issuing
          hold := .none
          task := some t
          ctx := k.ctx
          nextAt := u
          iter := if v.scope.isSome then u - v.counter else u
          mark := false }
        seqA [
          pureA (loadU s n k.ctx ++ [.restore n { v with bs := v.bs.map (fun e => (e.1, e.2.rebase v.left n)) },
            .mem .spad (skey n 0) (memGets v.spad 0 (1024 * k.lrec.spad)),
            .core n (fun _ => c), .sr n srDOMAIN k.domain,
            .task t (fun q => { q with
              st := .running
              saved := none
              imgs := q.imgs.map (Img.rebase v.left n) })]),
          fun s => (s.tasks.filter (fun e => e.2.caller == some t)).map (fun e =>
            Upd.task e.1 (fun q => { q with imgs := q.imgs.map (fun g => { g with parent := g.parent.rebase v.left n }) })),
          boardBack t v.left n u,
          match v.scope with
          | some f => joinScope n t f (finwaitPc v.core.hold)
          | none => pureA []] s
    | _, _, _ => []

/-! ### The mailbox (R332, R333) -/

/-- The root box of an index (R353, R407), none for 0xFF or an absent entry. A T3 or T4 entry's context address becomes
the range entry it falls in and the offset there; entry 63 is no root box's (R349). The table holds the address in `key`. -/
def rootBox (s : State) (k i : Nat) : Option Box :=
  match (s.ctx k).code with
  | none => none
  | some c => match c.roots[i]? with
    | none => none
    | some b =>
      if b.tier == 3 || b.tier == 4 then
        -- an address that the page walk maps, or nothing, counts from entry 0 (log 101)
        match rangeHit s k b.key 64 with
        | some 63 => none
        | e => some { b with
            home := e.getD 0
            org := (b.key + 2 ^ 48 - rangeWord s k (e.getD 0) 0 % 2 ^ 48) % 2 ^ 48
            key := k }
      else if b.tier == 5 then some { b with key := k }
      else some b

/-- The DOMAIN the supervisor hands a root: a legal value, otherwise free (R305, R333; log 14). -/
def rootDomain (f : Nat) : Word :=
  let w := Config.freeNat f
  BitVec.ofNat 64 (w % 2 ^ 32 + w / 2 ^ 32 % 5 * 2 ^ 33 + w / 2 ^ 35 % 3 * 2 ^ 40)

/-- MAILBOX_ENTRY: entry k is read and checked, STATUS and TAKE are written, and a good root enters its yard. The yard is
the supervisor's choice: free (log 14). -/
def mailboxEntryAct (e : Nat) : Act := fun s =>
  let m := s.dev.mailbox
  let a := m + 256 * (e % 255 + 1)
  let w (o n : Nat) : Nat := natOf (memGets s.hostm (a + o) n)
  let put := natOf (memGets s.hostm m 8)
  if e != s.dev.take || put ≤ e then []
  else
    let k := w 8 2
    let idx := (List.range 8).map (fun i => w (144 + i) 1)
    let status := if 16 ≤ k || !(s.ctx k).accepted then 1
      else match recordOf s k (w 10 2) with
        | none => 2
        | some r =>
          if extentSize (wbits (rootDomain s.fresh) 40 3) < gangSize r.gang then 2
          else if idx.any (fun i => i != 255 && (rootBox s k i).isNone) then 3
          else if w 0 8 != e then 4 else 0
    let y := Config.freeNat (s.fresh + 1) % 4
    [.fresh, .fresh, .mem .host (a + 152) (bytesOf 4 status), .mem .host (m + 8) (bytesOf 8 (e + 1)),
      .dev (fun d => { d with take := e + 1 })] ++
    (if status != 0 then []
     else match recordOf s k (w 10 2) with
      | none => []
      | some r =>
        let key := Config.hkdf (s.ctx k).key [0x72, 0x62, 0x6B]
        let half (o : Nat) : Word := BitVec.ofNat 64 (natOf (((key.drop o).take 8).map (BitVec.ofNat 8)))
        (List.range (gangSize r.gang)).map (fun i => Upd.newTask
          { ctx := k
            recIdx := w 10 2
            lrec := r
            tier := 3
            caller := none
            scope := none
            gen := 0
            tick := s.ctime
            tie := e
            gang := gangSize r.gang
            member := i
            lead := s.nid
            args := (List.range 16).map (fun j => if j == 15 && 1 < gangSize r.gang then BitVec.ofNat 64 i
              else BitVec.ofNat 64 (w (16 + 8 * j) 8))
            boxes := idx.map (fun i => if i == 255 then none else rootBox s k i)
            imgs := []
            st := .queued
            core := none
            yard := y
            origin := 40 * y
            since := s.ctime
            ready := 0
            domain := rootDomain s.fresh
            key0 := half 0
            key1 := half 8
            ctr0 := BitVec.ofNat 64 e
            ctr1 := 0
            saved := none
            retries := 0
            escaped := false
            changed := false
            cause := 0
            placed := 0
            preempt := none
            seq := some e
            scopes := [] }) ++ agingU s y)

/-! ### What the yards and cores notice after every event -/

/-- Post an event unless it is already on the agenda. -/
def postOnce (s : State) (due ph : Nat) (ev : Instr) : List Upd :=
  if s.agenda.any (fun i => i.ev == ev) then [] else [postU due ph ev]

/-- The moves of a task that its state makes due. -/
def taskMoves (s : State) (t : Nat) (k : Task) : List Upd :=
  match k.st, k.core with
  | .running, some n =>
    (match (s.core n).held with
      | .tret => if returnReady s t n k then postOnce s s.cycle 3 (.tretComplete t) else []
      | .save => if gangSaveReady s k then postOnce s s.cycle 3 (.contextSave t) else []
      | .finwait _ _ false => if saveReady s t n then postOnce s s.cycle 3 (.finwaitSuspend t) else []
      | _ => [])
  | .merging, _ =>
    if k.ready ≤ s.cycle && !generating s t && (k.core.isSome || !mustWait s t k) &&
        (!mustWait s t k || areaUsed s k.ctx < areaSize s k.ctx) then postOnce s (s.cycle + 1) 3 (.outwardMerge t) else []
  | .stopped, _ =>
    if k.lead == t && (s.tasks.all (fun e => e.2.lead != t || (e.2.st == .stopped && stopDrained s e.1))) then
      postOnce s s.cycle 3 (.reExecution t) else []
  | _, _ => []

/-- Scopes that a suspended or waiting owner can be told of. -/
def scopeMoves (s : State) (f : Nat) (x : Scope) : List Upd :=
  if x.live && scopeDone s x && (match tfind s.tasks x.owner with
      | some k => (k.st == .suspended && k.core.isNone && k.saved.any (fun v => v.scope == some f)) ||
          (coresOf s x.owner).any (fun n => stuckOn (s.core n) f)
      | none => false) then postOnce s s.cycle 3 (.scopeComplete f) else []

/-- What a yard does next: dispatch, reserve, or request a pre-emption; when it does so is free (log 10). -/
def yardMoves (s : State) (y : Nat) : List Upd :=
  let at_ := s.cycle + 1 + Config.freeNat s.fresh
  if (nextPlace s y).isSome then
    (if s.agenda.any (fun i => i.ev == .yardDispatch y && i.due ≤ at_) then [] else [.fresh, postU at_ 3 (.yardDispatch y)])
  else match inOrder s y with
    | [] => []
    | e :: _ =>
      (if !s.held && effPrio s e.2 == 3 && waitedLong s e.2 && !reserved s y && (reservePlace s e.2).isSome then
        postOnce s s.cycle 3 (.reservation y e.1) else []) ++
      (if requestOpen s y || s.held then []
       else match (if reserved s y then (evictFor s y).or (victimFor s e.1 e.2) else victimFor s e.1 e.2) with
        | some v => if s.agenda.any (fun i => match i.ev with
            | .preemptionRequest z _ => z == y
            | _ => false) then [] else [.fresh, postU at_ 3 (.preemptionRequest y v)]
        | none => [])

/-- Everything tasks, scopes and yards notice. -/
def taskScan : Act := fun s =>
  if s.tasks.isEmpty then []
  else seqA [
    fun s => forA ((s.tasks.filter (fun e => e.2.st == .stopped)).map (·.1)) dropFaulted s,
    fun s => s.tasks.flatMap (fun e => taskMoves s e.1 e.2),
    fun s => s.scopes.flatMap (fun e => scopeMoves s e.1 e.2),
    forA (List.range 4) (fun y => fun s => yardMoves s y)] s

/-! ### Events -/

/-- YARD_DISPATCH (R297, R298). -/
def execYardDispatch (y : Nat) (s : State) : Host.Outcome State Fault Refusal := done (yardDispatchAct y) s
/-- TASK_START (R279, R299). -/
def execTaskStart (t : Nat) (s : State) : Host.Outcome State Fault Refusal := done (taskStartAct t) s
/-- RESERVATION (R303). -/
def execReservation (y t : Nat) (s : State) : Host.Outcome State Fault Refusal := done (reservationAct y t) s
/-- PREEMPTION_REQUEST (R300). -/
def execPreemptionRequest (y t : Nat) (s : State) : Host.Outcome State Fault Refusal := done (preemptionRequestAct y t) s
/-- CONTEXT_SAVE (R300). -/
def execContextSave (t : Nat) (s : State) : Host.Outcome State Fault Refusal := done (contextSaveAct t) s
/-- CONTEXT_RESTORE (R401). -/
def execContextRestore (t : Nat) (s : State) : Host.Outcome State Fault Refusal := done (contextRestoreAct t) s
/-- FINWAIT_SUSPEND (R291). -/
def execFinwaitSuspend (t : Nat) (s : State) : Host.Outcome State Fault Refusal := done (finwaitSuspendAct t) s
/-- SCOPE_COMPLETE (R291). -/
def execScopeComplete (f : Nat) (s : State) : Host.Outcome State Fault Refusal := done (scopeCompleteAct f) s
/-- MAILBOX_ENTRY (R333). -/
def execMailboxEntry (k : Nat) (s : State) : Host.Outcome State Fault Refusal := done (mailboxEntryAct k) s

end Sys2Proof.Machine
end

