-- ==== Sys2Proof/Machine/Control.lean ====
section
/-! DEFINITION. The control slot (R34 to R36, R114, R147, R281 to R284, R346 to R348, R371): branches, loops, waits, system
registers, traps and returns; and what happens between bundles: results becoming visible, shadows ending, overruns and
traps taken. -/

namespace Sys2Proof.Machine

/-! ### The end of a bundle (R35, R115, R148, R281, R284) -/

/-- Bundle addresses in the present mode (R30, R363). -/
def Core.wrap (c : Core) (a : Nat) : Nat := a % (if c.sup then 1024 else 16384)

/-- Sequential advance past the bundle at pc: a level that ends there replays its body, or is left exhausted. -/
def Core.advance (c : Core) : Core :=
  match c.zl with
  | l :: r =>
    if l.last == c.pc then
      let l' := { l with left := l.left - 1 }
      if 1 < l.left then { c with
        pc := l.first
        zl := l' :: r }
      else { c with
        pc := c.wrap (c.pc + 1)
        zl := l' :: r }
    else { c with pc := c.wrap (c.pc + 1) }
  | [] => { c with pc := c.wrap (c.pc + 1) }

/-- The bundle at pc has issued: shadows count down, a branch whose delay is over redirects, and a taken branch ends the
levels whose bodies it leaves. -/
def Core.endBundle (c : Core) (t : Nat) : Core :=
  let c : Core := { c with
    fmtQ := c.fmtQ.map (fun q => ⟨q.left - 1, q.img⟩)
    mskQ := c.mskQ.map (fun q => ⟨q.left - 1, q.img, q.keep⟩)
    nextAt := max c.nextAt (t + 1) }
  if 2 ≤ c.dly then { c with
    dly := c.dly - 1
    pc := c.wrap (c.pc + 1) }
  else if c.dly == 1 && c.taken then
    let a := c.wrap c.tgt
    { c with
      dly := 0
      taken := false
      pc := a
      zl := c.zl.filter (fun l => l.first ≤ a && a ≤ l.last) }
  else { c.advance with
    dly := 0
    taken := false }

/-- The issued bundle of core n is over. -/
def endBundle (n : Nat) : Act := fun s => [.core n (fun c => c.endBundle s.cycle)]

/-- The bundle at an address of the present mode's store (R30, R363). -/
def bundleAt (s : State) (n pc : Nat) : BitVec 256 :=
  if (s.core n).sup then tget 0 s.sstore (1024 * n + pc % 1024) else tget 0 s.istore (16384 * n + pc)

/-- Slot i of a bundle. -/
def slotWord (b : BitVec 256) (i : Nat) : Nat := (b.extractLsb' (32 * i) 32).toNat

/-! ### Branches (R35) -/

/-- In a delay bundle this operation is illegal with reason 0xA. -/
def noDelay : State → Option Flt := fun s => reasonIf s [((s.core s.me).dly != 0, 0xA)]

/-- A branch whose delay bundles pass an active level's END is a loop fault (R284). -/
def passesEnd : State → Option Flt := fun s =>
  if (s.core s.me).zl.any (fun l => s.pcNow ≤ l.last && l.last < s.pcNow + 2) then some (faultNow s 0x12 0 []) else none

/-- A branch: its two delay bundles, then the target. -/
def branchTo (t : Nat) (take : Bool) : Act := fun s => [.core s.me (fun c => { c with
  dly := 3
  tgt := if take then t else c.wrap (c.pc + 3)
  taken := take })]

/-- The condition of BRC (R35); codes 6 and 7 are reserved. -/
def brcTakes (c : Nat) (v : Word) : Bool :=
  let i := v.toInt
  match c with
  | 0 => v == 0
  | 1 => v != 0
  | 2 => decide (i < 0)
  | 3 => decide (0 ≤ i)
  | 4 => decide (0 < i)
  | _ => decide (i ≤ 0)

/-! ### ZLOOP and CLOSE (R281, R284) -/

/-- ZLOOP's loop faults. -/
def zloopFault (e : Nat) : State → Option Flt := fun s =>
  let c := s.core s.me
  if 6 ≤ c.zl.length || e ≤ c.pc || 256 < e - c.pc || c.zl.any (fun l => l.last < e) then some (faultNow s 0x12 0 []) else none

/-- Open a level; a count of 0 goes on as after the last pass. -/
def zloopAct (x e : Nat) : Act := fun s =>
  let k := (s.x s.me x).toNat
  [.core s.me (fun c => { c with
    zl := ⟨c.pc + 1, e, k⟩ :: c.zl
    pc := if k == 0 then e else c.pc })]

/-- CLOSE's loop fault. -/
def closeFault : State → Option Flt := fun s =>
  if wbits (s.sr s.me srTRIPC) 32 1 == 0 || !(s.core s.me).zl.isEmpty then some (faultNow s 0x12 0 []) else none

/-- Can a member of a gang be pre-empted at a boundary: every FOLD, SCAN and ZIP completed, no timetable armed, no sibling
running (R199, R300, R320)? -/
def preemptClear (s : State) (t n : Nat) : Bool :=
  (s.core n).tt.isNone && siblingsIdle s t n &&
    !s.ops.any (fun e => e.2.task == t && (e.2.kind == .fold || e.2.kind == .scan || e.2.kind == .zip))

/-- What the boundary of index i brings the task now issuing under a pre-emption request (R300, R301): it holds there, or,
where it cannot be pre-empted yet, its whole gang is to stop at the next boundary instead, and members that held go on. -/
def preemptHere (s : State) (i : Nat) : Bool × List Upd :=
  match s.self with
  | some (t, k) => (match k.preempt with
      | some at_ =>
        if i < at_ || (s.core s.me).spawner.isSome then (false, [])
        else if preemptClear s t s.me then (true, []) else (false, requestU s t (some (i + 1)))
      | none => (false, []))
  | none => (false, [])

/-- CLOSE: the bases turn, an iteration ends, and the next one, the epilogue or the bundle after follows. -/
def closeAct : Act := fun s =>
  let n := s.me
  let c := s.core n
  let rb := s.sr n srROTB
  let left := wbits (s.sr n srTRIPC) 0 32 - 1
  let trips := (s.self.map (fun t => t.2.trips)).getD 0
  let rotb := BitVec.ofNat 64 ((wbits rb 0 6 + 47) % 48 + (wbits rb 8 3 + 7) % 8 * 2 ^ 8)
  let here := preemptHere s (trips - left)
  .sr n srROTB rotb ::
  (if 0 < left then
    here.2 ++ [.sr n srTRIPC (BitVec.ofNat 64 (left + 2 ^ 32)), .core n (fun x => { x with
      dly := 1
      taken := true
      tgt := x.lrec.kern
      iter := s.cycle + 1
      bound := x.lrec.budget
      hold := if here.1 then .save else x.hold })]
   else
    [.sr n srTRIPC 0, .core n (fun x => { x with
      dly := if c.lrec.he then 1 else x.dly
      taken := c.lrec.he
      tgt := if c.lrec.he then x.lrec.epi else x.tgt
      part := 2
      iter := s.cycle + 1
      bound := 2 ^ 20 })])

/-! ### WAITC and WAITT (R283) -/

def waitcAct (x n : Nat) : Act := fun s =>
  [.core s.me (fun c => { c with hold := .until (s.cycle + 1 + (s.x s.me x).toNat % 2 ^ 32 + n) })]

def waittAct (x : Nat) : Act := fun s => [.core s.me (fun c => { c with hold := .ctime (s.x s.me x).toNat })]

/-! ### SETFMT and SETMSK (R114, R147) -/

/-- An FMT image that is refused (R114). -/
def fmtBad (w : Nat) : Bool :=
  w / 2 ^ 29 != 0 || bitsOf w 22 2 != 0 || bitsOf w 13 3 != 0 || 12 ≤ bitsOf w 0 4 || 12 ≤ bitsOf w 4 4 || 5 ≤ bitsOf w 8 3

/-- The image SETFMT writes. -/
def fmtImage (s : State) (x t : Nat) : Nat :=
  let w := (s.x s.me x).toNat
  if t == 15 then w else w / 16 * 16 + t

def setfmtLegal (x t : Nat) : State → Option Flt := fun s => reasonIf s [(fmtBad (fmtImage s x t), 2)]

def setfmtAct (x t : Nat) : Act := fun s =>
  [.core s.me (fun c => { c with fmtQ := c.fmtQ ++ [⟨4, BitVec.ofNat 64 (fmtImage s x t)⟩] })]

def setmskAct (img keep : Nat) : Act := fun s => [.core s.me (fun c => { c with mskQ := c.mskQ ++ [⟨2, img, keep⟩] })]

/-- MSKSEL with the selectors that are not kept replaced (R147). -/
def mskMerge (old img keep : Nat) : Nat :=
  (List.range 3).foldl (fun a k => a + (if keep.testBit k then bitsOf old (5 * k) 5 else bitsOf img (5 * k) 5) * 2 ^ (5 * k)) 0

/-! ### System registers (R344 to R346) -/

/-- Who may use a register: reads and writes in task mode, writes in supervisor mode; none where it is unassigned. -/
def srView (r : Nat) : Option (Bool × Bool × Bool) :=
  if r == 0 then some (true, false, true)
  else if 1 ≤ r && r ≤ 3 then some (true, true, true)
  else if r == 4 || r == 5 then some (true, false, false)
  else if 6 ≤ r && r ≤ 9 then some (true, false, true)
  else if r == 0xA || r == 0xB then some (true, true, true)
  else if r == 0xC then some (true, false, true)
  else if 0xD ≤ r && r ≤ 0x14 then some (true, true, true)
  else if r == 0x15 then some (true, false, true)
  else if 0x18 ≤ r && r ≤ 0x1F then some (true, true, true)
  else if 0x100 ≤ r && r ≤ 0x10B then some (false, false, false)
  else if r == 0x10C || r == 0x10D then some (false, false, true)
  else if r == 0x10E || r == 0x10F then some (false, false, false)
  else if r == 0x110 || r == 0x112 then some (false, false, true)
  else if r == 0x111 || r == 0x113 || r == 0x118 then some (false, false, false)
  else if 0x114 ≤ r && r ≤ 0x119 then some (false, false, true)
  else if 0x120 ≤ r && r ≤ 0x14F then some (false, false, true)
  else if r == 0x150 || r == 0x152 then some (false, false, true)
  else if r == 0x151 then some (false, false, false)
  else if 0x160 ≤ r && r ≤ 0x16F then some (false, false, false)
  else if 0x170 ≤ r && r ≤ 0x173 then some (false, false, true)
  else none

/-- Bits of a register that can be written as 1: the others read 0 or are reserved (R344 to R346 and the registers' own
layouts). -/
def srMask (r : Nat) : Nat :=
  if r == 2 then 2 ^ 15 - 1
  else if r == 3 then 0x73F
  else if r == 6 then 2 ^ 43 - 1 - 2 ^ 32
  else if r == 7 then 2 ^ 33 - 1
  else if r == 9 then 2 ^ 48 - 1
  else if r == 0xB then 2 ^ 33 - 1
  else if r == 0xC then 0x1FF01F
  else if r == 0x15 then 0xFFFF
  else if 0x18 ≤ r && r ≤ 0x1F then 0xFFFF003FFFFF
  else if r == 0x10D then 3
  else if r == 0x110 then 2 ^ 63 + 0xFFFF00003FFF
  else if r == 0x112 then 0x3FFF
  else if r == 0x114 then 15
  else if r == 0x115 then 2 ^ 48 - 2 ^ 11
  else if r == 0x116 then 2 ^ 48 - 2 ^ 12 + 1
  else if r == 0x117 then 0xF01
  else if r == 0x119 then 0xFFFF7FFF
  else if 0x120 ≤ r && r ≤ 0x12F then 2 ^ 64 - 1 - 0xFC
  else if 0x130 ≤ r && r ≤ 0x137 then 2 ^ 40 - 1
  else if r == 0x13E then 0xFFFF01
  else if r == 0x13F then 0
  else if 0x140 ≤ r && r ≤ 0x14F then (if r % 4 == 0 then 2 ^ 63 + 0xFFF else if r % 4 == 3 then 0 else 2 ^ 64 - 1)
  else if r == 0x170 then 0xFFF
  else if r == 0x171 then 0xFFFF
  else if r == 0x172 then 0x3FF
  else if r == 0x173 then 2 ^ 63 + 0xFFFFF
  else 2 ^ 64 - 1

/-- A platform image that is refused (R270). -/
def platBadImage (w : Nat) : Bool :=
  let m := bitsOf w 16 4
  let k := bitsOf w 12 4
  w.testBit 21 && (m < 6 || 22 < k + m || 2 ^ 22 < bitsOf w 0 12 * 1024 + 2 ^ (k + m))

/-- Is a timetable armed anywhere, or a pod-level SYNCD outstanding (R309)? -/
def timeHeld (s : State) : Bool := s.cores.any (fun e => e.2.tt.isSome || (match e.2.held with
  | .syncd l => 3 ≤ l
  | _ => false))

/-- A value an MTS of register r is refused with (reason 0x2). -/
def mtsRefused (s : State) (r w : Nat) : Bool :=
  w &&& (2 ^ 64 - 1 - srMask r) != 0 || (r == 1 && fmtBad w) || (r == 0 && timeHeld s) ||
    (0x18 ≤ r && r ≤ 0x1F && platBadImage w) || (r == 0x119 && 32768 < bitsOf w 0 15 + bitsOf w 16 16) ||
    (0x120 ≤ r && r ≤ 0x12F && w.testBit 0 && !(s.ctx (r - 0x120)).accepted)

/-- MTS's legality (R346). -/
def mtsLegal (x r : Nat) : State → Option Flt := fun s =>
  match srView r with
  | none => reasonIf s [(true, 2)]
  | some (_, _, sw) => reasonIf s [(r == 4 || r == 5 || ((s.core s.me).sup && !sw) ||
      (sw && mtsRefused s r (s.x s.me x).toNat), 2)]

/-- The privilege fault of the slot now issuing (R57). -/
def privNow (s : State) : Flt := faultNow s 2 0 []

def mtsPriv (r : Nat) : State → Option Flt := fun s =>
  match srView r with
  | some (_, tw, _) => if !(s.core s.me).sup && !tw then some (privNow s) else none
  | none => none

def mfsLegal (r : Nat) : State → Option Flt := fun s => reasonIf s [((srView r).isNone, 2)]

def mfsPriv (r : Nat) : State → Option Flt := fun s =>
  match srView r with
  | some (tr, _, _) => if !(s.core s.me).sup && !tr then some (privNow s) else none
  | none => none

/-- CORE_ID (R11); die and core index of a control core's are free, among those that occur (log 13). -/
def coreId (s : State) (n : Nat) : Nat :=
  s.dev.pod % 1024 * 2 ^ 18 + s.dev.member % 1024 * 2 ^ 8 +
    (if n < 160 then n / 40 * 2 ^ 6 + n % 40 else Config.freeNat n % 4 * 2 ^ 6 + Config.freeNat n / 4 % 40)

/-- A system register as it stands now (R344 to R346). -/
def readSr (s : State) (n r : Nat) : Word :=
  let slot := wbits (s.dsr 0x114) 0 4
  let k := s.ctx slot
  if r == 0 then BitVec.ofNat 64 s.ctime
  else if r == 4 then BitVec.ofNat 64 (coreId s n)
  else if r == 0xC then
    let c := s.core n
    BitVec.ofNat 64 (c.rbq.length + c.rbHead * 2 ^ 12 + c.rbPend * 2 ^ 16)
  else if r == 0x15 then s.dsr 0x15
  else if r == 0x113 then BitVec.ofNat 64 (s.core n).ctx
  else if r == 0x114 then s.dsr 0x114
  else if r == 0x115 then BitVec.ofNat 64 k.rtab
  else if r == 0x116 then BitVec.ofNat 64 k.ptroot
  else if r == 0x117 then (if s.dev.xinv.isEmpty then s.dsr 0x117 else s.dsr 0x117 ||| 1#64)
  else if r == 0x118 then BitVec.ofNat 64 ((if k.keyed then 1 else 0) + k.session % 256 * 2 ^ 8)
  else if r == 0x119 then BitVec.ofNat 64 k.varena
  else if 0x160 ≤ r && r ≤ 0x16F then
    let p := s.port (r - 0x160)
    BitVec.ofNat 64 (p.mode + p.lat * 4)
  else if r == 0x171 then (s.tag n (wbits (s.sr n srTAGSEL) 0 12)).setWidth 64
  else if r == 0x173 then tget 0 s.dev.routes (wbits (s.dsr 0x172) 0 10)
  else if r < 0x114 || r == 0x170 then s.sr n r
  else s.dsr r

/-- The event an MTS of a register comes to at c + 2, where it is not FMT or MSKSEL. -/
def mtsEvent (n r : Nat) (v : Word) : Instr :=
  if r == 0 then .ctimeWrite n v
  else if r == 0xB then .crcstWrite n v
  else if 0x18 ≤ r && r ≤ 0x1F then .platformRegisterWrite n (r - 0x18) v
  else if r == 0x117 && v.getLsbD 0 then .xinvRemoval (wbits v 8 4)
  else if 0x120 ≤ r && r ≤ 0x12F then .yctlWrite (r - 0x120) v
  else if 0x130 ≤ r && r ≤ 0x137 then .fenceBitWrite (r - 0x130) v
  else if 0x140 ≤ r && r ≤ 0x14F && r % 4 == 0 then .injectorArm ((r - 0x140) / 4) v
  else if r == 0x150 then .ctrimWrite v
  else if r == 0x171 then .tagvalWrite n v
  else .systemRegisterWrite n r v

/-- MTS: FMT and MSKSEL as SETFMT and SETMSK; any other register at c + 2 (R115, R146, R346). -/
def mtsAct (x r : Nat) : Act := fun s =>
  let v := s.x s.me x
  if r == 1 then [.core s.me (fun c => { c with fmtQ := c.fmtQ ++ [⟨4, v⟩] })]
  else if r == 2 then setmskAct v.toNat 0 s
  else [pushPend s.me (mkPend s 2 [.ev (mtsEvent s.me r v)] none 0 none .value false)]

/-! ### SVC, TRAP, ERET, HALT (R36, R347, R348, R368 to R371) -/

/-- Where issue goes on and the levels that stay when a level with this END is exhausted: one around it with the same END goes
on with its own count (R284). -/
def leaveLevel (last : Nat) : Nat → List ZLev → Nat × List ZLev
  | pc, [] => (pc, [])
  | pc, m :: q =>
    if m.last != last then (pc, m :: q)
    else if 1 < m.left then (m.first, { m with left := m.left - 1 } :: q)
    else leaveLevel last pc q

/-- Exhausted levels end (R284). -/
def Core.leaveLevels (c : Core) : Core :=
  match c.zl with
  | l :: r => if l.left != 0 then c else
      let e := leaveLevel l.last c.pc r
      { c with pc := e.1, zl := e.2 }
  | [] => c

/-- SVC: the bundle ends, and supervisor mode is entered with the address that would have issued next in EPC (R347). Alone in
its bundle it commits no other slot (R365). -/
def svcAct (k : Nat) : Act := fun s =>
  let n := s.me
  let pc := s.pcNow
  let w := bundleAt s n pc
  let cmask := ((List.range 7).filter (fun i => slotWord w (i + 1) != 0)).foldl (fun a i => a + 2 ^ (i + 1)) 0
  let f : Flt := ⟨0x1E, 0, 0, if cmask == 0 then slotCauses 0 0x0F else (List.range 8).map (fun i => if i == 0 then 0x0F else 0),
    pc, 0, [k], 0⟩
  seqA [endBundle n, pureA [.core n Core.leaveLevels],
    fun s => takeTrap n f none pc (s.core n).pc cmask s,
    pureA [.sr n srSVCN (BitVec.ofNat 64 k)]] s

def svcLegal : State → Option Flt := fun s =>
  reasonIf s [((s.core s.me).dly != 0, 0xA), ((s.core s.me).sup, 0xD)]

def supOnly : State → Option Flt := fun s => if (s.core s.me).sup then none else some (privNow s)

/-- One replay slot at its completion under ACT (R369). -/
def replayOne (s : State) (act enb : Nat) (repl : Word) (p : Pend) : Replayed :=
  match p.again with
  | .value => replayValue act enb repl p
  | .perm => if act == 0 then ⟨p, true⟩ else ⟨{ p with flt := none }, false⟩
  | .vldz b k d w =>
    if act == 0 then
      let q := vldzResult s p b k d w
      ⟨q, q.flt.isSome⟩
    else ⟨{ p with
      flt := none
      wr := []
      lat := none
      flags := 0 }, false⟩
  | .rmw => ⟨{ p with flt := none }, false⟩
  | .far => ⟨{ p with flt := none }, false⟩
  | .recvop _ _ _ _ _ _ _ =>
    let q := recvopSecond s p (if act == 0 then enb else 0) p.vis
    if q.flt.isNone then ⟨q, false⟩
    else if act == 0 then ⟨q, true⟩
    else ⟨{ q with
      flt := none
      wr := []
      again := .value }, false⟩

/-- A routine fault of an engine operation resumes with the supervisor's choice (R203, R369). -/
def routineResume (n opc oslot act : Nat) (repl : Word) : Act := fun s =>
  match s.ops.find? (fun e => e.2.core == n && e.2.pc == opc && e.2.slot == oslot && e.2.st == .running &&
      (e.2.flt.map (·.cause)) == some 8) with
  | none => []
  | some (o, p) =>
    let enb := fmtEnb (s.sr n srFMT)
    let u := s.cycle + 3
    let comps := if p.rtn.isEmpty then 1 else rtComps p.rtn
    let val := if comps == 1 then [repl.toNat % 2 ^ 32] else [repl.toNat % 2 ^ 32, repl.toNat / 2 ^ 32]
    let q : Op := { p with
      flt := none
      bad := none
      redo := true
      enb := enb
      skip := if 2 ^ 32 ≤ p.skip then 0 else p.skip
      repl := if act % 2 == 1 then p.repl ++ [(p.skip, val)] else p.repl
      start := match p.kind with
        | .cpy => u + 1
        | .scac => u + 1
        | _ => u
      fin := 0 }
    let s := p.view s
    let far := q.farHome s || (p.kind == .cpy && (p.src.remote s || p.dst.remote s))
    seqA [
      pureA [.op o (fun _ => q)],
      match p.kind with
      | .coll => pureA [.op o (fun q => { q with phase := 1 }), postU (u + Config.freeNat s.fresh) 2 (.collDelivery o), .fresh]
      | .cpy => seqA [
          cpyEnds o q (u + 1) (cpyBytes q q.next),
          -- the copies behind it start at its completion
          fun s => [.core n (fun c => { c with xferFree := max c.xferFree (((tfind s.ops o).map (·.fin)).getD 0) })]]
      | _ => if far then pureA []
        else pureA [.op o (fun q => { q with fin := q.start + opTime s q }), postU (q.start + opTime s q) 2 (opDone q o)],
      pureA (if far then [postU (u + 1) 2 (.engineOpStart o)] else [])] s

/-- The task resumes: image put back, replay slots completed, task mode at EPC three cycles later (R348, R368). -/
def resume (n : Nat) : Act := fun s =>
  let c := s.core n
  let u := s.cycle + 3
  let cause := wbits (s.sr n srTREC0) 16 16
  let act := wbits (s.sr n (srTREC0 + 13)) 0 2
  let repl := s.sr n (srTREC0 + 12)
  let enb := fmtEnb (s.sr n srFMT)
  let img := c.img.getD ⟨[], [], 0, 0, false, [], [], [], .none, s.cycle⟩
  let reps := img.replay.map (fun p => (p, replayOne s act enb repl p))
  let good := (reps.filter (fun r => !r.2.again)).map (fun r => { r.2.p with
    vis := u + r.1.vis
    lat := none })
  let again := (reps.filter (fun r => r.2.again)).filterMap (fun r => r.2.p.flt.map (fun f =>
    (⟨u, f, some { r.2.p with vis := u + r.1.vis }, r.2.p.sup⟩ : Due)))
  let fsum := s.sr n srFSUM
  reps.flatMap (fun r => retakeBits n r.1) ++
  (if cause == 0x1E then [] else [.sr n srFSUM (BitVec.ofNat 64 (cause + (wbits fsum 16 32 + 1) % 2 ^ 32 * 2 ^ 16))]) ++
  [.unlatch n, .core n (fun c => { c with
    sup := false
    img := none
    pc := wbits (s.sr n srEPC) 0 14
    nextAt := u
    pend := c.pend ++ imageBack u img.pend ++ good
    due := c.due ++ again
    dly := img.dly
    tgt := img.tgt
    taken := img.taken
    fmtQ := img.fmtQ
    mskQ := img.mskQ
    zl := img.zl
    hold := img.hold })]

/-- ERET: the task fails with FAIL set or after an overrun, and resumes otherwise (R282, R348, R368, R370, R374). -/
def eretAct : Act := fun s =>
  let n := s.me
  let epc := s.sr n srEPC
  let cause := wbits (s.sr n srTREC0) 16 16
  if epc.getLsbD 63 || cause == 0x13 then
    [.core n (fun c => { c with
      sup := false
      img := none
      hold := .failed })] ++
    (if cause == 0x1E then [] else
      [.sr n srFSUM (BitVec.ofNat 64 (cause + (wbits (s.sr n srFSUM) 16 32 + 1) % 2 ^ 32 * 2 ^ 16))]) ++
    (match (s.core n).task with
      | some t => [postU s.cycle 3 (.taskFailure t (if epc.getLsbD 63 then wbits epc 32 16 else 0x13))]
      | none => [.core n (fun c => { c with
          run := .idle
          hold := .none })])
  else seqA [
    fun s => if cause == 8 then
        let w := s.sr n (srTREC0 + 3)
        routineResume n (wbits w 0 14) (wbits w 16 3) (wbits (s.sr n (srTREC0 + 13)) 0 2) (s.sr n (srTREC0 + 12)) s
      else [],
    resume n] s

/-- TRAP n (R371). -/
def trapNow (k : Nat) : State → Option Flt := fun s => some (faultNow s 0x1F 0 [k])

/-! ### Results becoming visible (R49, R51, R121, R122) -/

/-- One write of a result of core n; a read-modify-write's takes its place in the order it was read in (R218). -/
def performWr (rmw : Bool) (n : Nat) (w : Wr) : Act := fun s =>
  match w with
  | .x r v => [.x n r v]
  | .v p m v => [.v n p m v]
  | .p p m v => [.p n p m v]
  | .b r bx => [.b n r bx]
  | .sr r v => [.sr n r v]
  | .mem sp a bs => if rmw then keepU (s.core n).task sp a bs s else storeU (s.core n).task sp a bs s
  | .ev i => [postU s.cycle 0 i]

/-- One result: its writes, latch and flags, or the fault that withholds it. -/
def performPend (n : Nat) (p : Pend) : Act := fun s =>
  match p.flt with
  | some f => orFlg n p.flags s ++ (if f.cause == 8 then [areaU (s.core n).ctx (f.detail.getD 0 0) (routineRecord f [])] else []) ++
    [.core n (fun c => { c with due := c.due ++ [⟨s.cycle, f, some p, p.sup⟩] })]
  | none => match p.again with
    | .recvop _ _ _ _ _ _ _ => pushPend n (recvopSecond s p p.flags (s.cycle + 3)) :: meetRecvop p.again s
    | _ => seqA [forA p.wr (performWr (p.again == .rmw) n),
        pureA (match p.lat with
          | some v => if p.slot == 0 then [] else [.lat n p.slot v]
          | none => []),
        orFlg n p.flags] s

/-- Results of core n due now, earlier bundles first, so that a latch keeps the later bundle's (R49), and so does
a register two results reach in one cycle (DESIGN CHOICE, log 95). -/
def dueNow (s : State) (n : Nat) : List Pend :=
  ((s.core n).pend.filter (fun p => p.vis ≤ s.cycle)).foldl (fun l p =>
    l.filter (fun q => q.ord ≤ p.ord) ++ [p] ++ l.filter (fun q => p.ord < q.ord)) []

/-- RESULT_WRITEBACK. -/
def resultWritebackAct (n : Nat) : Act := fun s =>
  let l := dueNow s n
  seqA [pureA (if l.isEmpty then [] else [.core n (fun c => { c with
      pend := c.pend.filter (fun p => s.cycle < p.vis)
      latAt := (l.filter (fun p => p.lat.isSome && p.flt.isNone)).foldl (fun a p => tput a p.slot (s.cycle, p.ord)) c.latAt })]),
    forA l (performPend n)] s

/-! ### Between bundles -/

/-- FMT_SHADOW_END: the pending image replaces FMT; flags of results visible in this cycle stay (R115, R121). -/
def fmtShadowEndAct (n : Nat) : Act := fun s =>
  match (s.core n).fmtQ with
  | q :: r =>
    if q.left != 0 then []
    else
      let c := s.core n
      let fl := if c.flagCyc == s.cycle then c.flagBits else 0
      [.sr n srFMT (q.img ||| BitVec.ofNat 64 (fl * 2 ^ 16)), .core n (fun c => { c with fmtQ := r })]
  | [] => []

/-- MASK_SELECTOR_UPDATE (R148). -/
def maskSelectorUpdateAct (n : Nat) : Act := fun s =>
  match (s.core n).mskQ with
  | q :: r =>
    if q.left != 0 then []
    else [.sr n srMSKSEL (BitVec.ofNat 64 (mskMerge (s.sr n srMSKSEL).toNat q.img q.keep)), .core n (fun c => { c with mskQ := r })]
  | [] => []

/-- ZLOOP_LEVEL_EXIT: an exhausted level ends; a level around it with the same END goes on with its own count (R284). -/
def zloopLevelExitAct (n : Nat) : Act := fun s =>
  match (s.core n).zl with
  | l :: r =>
    if l.left != 0 then []
    else [.core n (fun c => match r with
      | m :: q =>
        if m.last != l.last then { c with zl := r }
        else if 1 < m.left then { c with
          pc := m.first
          zl := { m with left := m.left - 1 } :: q }
        else { c with zl := { m with left := 0 } :: q }
      | [] => { c with zl := [] })]
  | [] => []

/-- WAITC_EXPIRY. -/
def waitcExpiryAct (n : Nat) : Act := fun s =>
  match (s.core n).hold with
  | .until c => if s.cycle < c then [] else [.core n (fun x => { x with hold := .none })]
  | _ => []

/-- WAITT_EXPIRY. -/
def waittExpiryAct (n : Nat) : Act := fun s =>
  match (s.core n).hold with
  | .ctime v => if s.ctime < v then [] else [.core n (fun x => { x with hold := .none })]
  | _ => []

/-- Do the cycles of this hold end a bound (R53, R282, R289)? Those of a FINWAIT that waits for its save do not; those of
one that waits in place do (DEDUCED, log 47: R53 counts a FINWAIT held in place, R291 leaves out the cycles before the
save, and R282 those of the suspension). A sibling's bound ends at its TRET; its SYNCD counts from its issue (R289). -/
def Core.bounded (c : Core) : Bool :=
  c.run == .issuing && !c.sup && c.bound != 0 && (match c.hold with
    | .tret => c.spawner.isNone
    | .failed => false
    | .save => false
    | .finwait _ _ inPlace => inPlace
    | _ => true)

/-- Is a core's iteration, prologue or epilogue past its bound? -/
def overran (s : State) (n : Nat) : Bool := (s.core n).bounded && (s.core n).iter + (s.core n).bound ≤ s.cycle

/-- OVERRUN_FAULT (R282). -/
def overrunFaultAct (n : Nat) : Act := fun s =>
  if overran s n then takeTrap n (deferredFlt 0x13 0 0 (s.core n).pc []) none (s.core n).pc (s.core n).pc 0 s else []

/-- The deferred fault taken first: the lowest cause, then the earliest (R361). Faults of the task wait while the
sequencer is in supervisor mode. -/
def firstDue (s : State) (n : Nat) : Option Due :=
  let c := s.core n
  let l := c.due.filter (fun d => d.since ≤ s.cycle && (d.sup || !c.sup))
  l.find? (fun d => l.all (fun e => d.flt.cause ≤ e.flt.cause))

/-- TRAP_ENTRY: a due fault is taken at a bundle; one that a supervisor bundle caused fences the core (R361, R363). -/
def trapEntryAct (n : Nat) : Act := fun s =>
  let c := s.core n
  if c.run != .issuing then []
  else match firstDue s n with
    | none => []
    | some d => seqA [
        pureA [.core n (fun c => { c with due := c.due.erase d })],
        if d.sup then doubleTrap n d.flt c.pc else takeTrap n d.flt d.rep c.pc c.pc 0] s

/-! ### Instructions -/

/-- NOP (R36). -/
def execNop (s : State) : Host.Outcome State Fault Refusal := done (pureA []) s
/-- HDR (R38): its extension bits are read with the slots that receive them. -/
def execHdr (_sla _exa _slb _exb _slc _exc : Nat) (s : State) : Host.Outcome State Fault Refusal := done (fun _ => []) s
/-- BR (R35). -/
def execBr (t : Nat) (s : State) : Host.Outcome State Fault Refusal := done (checked noDelay passesEnd (branchTo t true)) s
/-- BRC (R35). -/
def execBrc (x c t : Nat) (s : State) : Host.Outcome State Fault Refusal :=
  done (checked (andThen (fun s => reasonIf s [(6 ≤ c, 3)]) noDelay) passesEnd
    (fun s => branchTo t (brcTakes c (s.x s.me x)) s)) s
/-- BRL (R35): the link is visible one cycle later. -/
def execBrl (d t : Nat) (s : State) : Host.Outcome State Fault Refusal :=
  done (checked noDelay passesEnd (seqA [
    fun s => [pushPend s.me (mkPend s 1 [.x d (BitVec.ofNat 64 (s.pcNow + 3))] none 0 none .value false)],
    branchTo t true])) s
/-- BRX (R35). -/
def execBrx (x : Nat) (s : State) : Host.Outcome State Fault Refusal :=
  done (checked noDelay passesEnd (fun s => branchTo (wbits (s.x s.me x) 0 14) true s)) s
/-- ZLOOP (R284). -/
def execZloop (x e : Nat) (s : State) : Host.Outcome State Fault Refusal := done (checked noDelay (zloopFault e) (zloopAct x e)) s
/-- CLOSE (R281). -/
def execClose (s : State) : Host.Outcome State Fault Refusal := done (checked noDelay closeFault closeAct) s
/-- WAITC (R283). -/
def execWaitc (x n : Nat) (s : State) : Host.Outcome State Fault Refusal := done (waitcAct x n) s
/-- WAITT (R283). -/
def execWaitt (x : Nat) (s : State) : Host.Outcome State Fault Refusal := done (waittAct x) s
/-- SETFMT (R114). -/
def execSetfmt (x t : Nat) (s : State) : Host.Outcome State Fault Refusal := done (guarded (setfmtLegal x t) (setfmtAct x t)) s
/-- SETMSK (R147). -/
def execSetmsk (m3 z3 m4 z4 m5 z5 keep : Nat) (s : State) : Host.Outcome State Fault Refusal :=
  done (setmskAct (m3 + z3 * 2 ^ 4 + m4 * 2 ^ 5 + z4 * 2 ^ 9 + m5 * 2 ^ 10 + z5 * 2 ^ 14) keep) s
/-- TRAP (R371). -/
def execTrap (n : Nat) (s : State) : Host.Outcome State Fault Refusal := done (guarded (trapNow n) (pureA [])) s
/-- SVC (R347). -/
def execSvc (n : Nat) (s : State) : Host.Outcome State Fault Refusal := done (guarded svcLegal (svcAct n)) s
/-- ERET (R348). -/
def execEret (s : State) : Host.Outcome State Fault Refusal := done (guarded supOnly eretAct) s
/-- MFS (R346). -/
def execMfs (d r : Nat) (s : State) : Host.Outcome State Fault Refusal :=
  done (checked (mfsLegal r) (mfsPriv r) (fun s => [pushPend s.me
    (mkPend s 2 [.x d (readSr s s.me r)] none 0 none .value false)])) s
/-- MTS (R346). -/
def execMts (x r : Nat) (s : State) : Host.Outcome State Fault Refusal := done (checked (mtsLegal x r) (mtsPriv r) (mtsAct x r)) s
/-- HALT: the sequencer is idle, in supervisor mode until the next dispatch replaces what stands on it (R36). -/
def execHalt (s : State) : Host.Outcome State Fault Refusal :=
  done (guarded supOnly (fun s => [.core s.me (fun c => { c with run := .idle })])) s

/-! ### Events -/

/-- RESULT_WRITEBACK (R51). -/
def execResultWriteback (n : Nat) (s : State) : Host.Outcome State Fault Refusal := done (resultWritebackAct n) s
/-- FMT_SHADOW_END (R115). -/
def execFmtShadowEnd (n : Nat) (s : State) : Host.Outcome State Fault Refusal := done (fmtShadowEndAct n) s
/-- MASK_SELECTOR_UPDATE (R148). -/
def execMaskSelectorUpdate (n : Nat) (s : State) : Host.Outcome State Fault Refusal := done (maskSelectorUpdateAct n) s
/-- ZLOOP_LEVEL_EXIT (R284). -/
def execZloopLevelExit (n : Nat) (s : State) : Host.Outcome State Fault Refusal := done (zloopLevelExitAct n) s
/-- WAITC_EXPIRY (R283). -/
def execWaitcExpiry (n : Nat) (s : State) : Host.Outcome State Fault Refusal := done (waitcExpiryAct n) s
/-- WAITT_EXPIRY (R283). -/
def execWaittExpiry (n : Nat) (s : State) : Host.Outcome State Fault Refusal := done (waittExpiryAct n) s
/-- OVERRUN_FAULT (R282). -/
def execOverrunFault (n : Nat) (s : State) : Host.Outcome State Fault Refusal := done (overrunFaultAct n) s
/-- TRAP_ENTRY (R363). -/
def execTrapEntry (n : Nat) (s : State) : Host.Outcome State Fault Refusal := done (trapEntryAct n) s

end Sys2Proof.Machine
end

