-- ==== Sys2Proof/Machine/System.lean ====
section
/-! DEFINITION. What register writes do when they come to govern (R345, R346, R351), the host's windows (R354, R355), keys,
images and attestation (R335, R336, R352, R353, R357, R358), and firmware (R392). -/

namespace Sys2Proof.Machine

/-! ### Writes of registers (R344 to R346) -/

/-- CTIME steps, unless a timetable is armed or a pod-level SYNCD is outstanding (R309). -/
def ctimeWriteAct (v : Word) : Act := fun s =>
  if timeHeld s then []
  else seqA [pureA [.dev (fun d => { d with toff := (v.toNat + 2 ^ 64 - s.cycle % 2 ^ 64) % 2 ^ 64 })], cpyRedue] s

/-- CRCST and the held running value (R242, R408). -/
def crcstWriteAct (n : Nat) (v : Word) : Act := fun s => [.sr n srCRCST v, .core n (fun c => { c with
  crc := wbits v 0 32
  crcSet := s.cycle })]

/-- CTRIM is clamped to ±200 ppm in units of 2^−40 (R307). -/
def ctrimWriteAct (v : Word) : Act := fun _ =>
  [.dev (fun d => { d with sr := tput d.sr 0x150 (BitVec.ofInt 64 (max (-219902325) (min 219902325 v.toInt))) })]

/-- YCTLj, whose PL is refused for an image Sirlen has not accepted (R304). -/
def yctlWriteAct (j : Nat) (v : Word) : Act := fun s =>
  if v.getLsbD 0 && !(s.ctx j).accepted then [] else [devSr (0x120 + j) v]

/-- RBQ takes HEAD, PEND and COUNT; a word it adds is free (R124, R344; log 8). -/
def rbqWrite (n : Nat) (v : Word) : Act := fun s =>
  let cnt := min 16 (wbits v 0 5)
  let have_ := (s.core n).rbq.length
  List.replicate (cnt - have_) .fresh ++ [.core n (fun c => { c with
    rbq := c.rbq.take cnt ++ (List.range (cnt - have_)).map (fun i => (Config.freeBits 2048 (s.fresh + i)).toNat)
    rbHead := wbits v 12 4
    rbPend := wbits v 16 5 })]

/-- A register with no behaviour of its own (R345, R346). -/
def systemRegisterWriteAct (n r : Nat) (v : Word) : Act := fun s =>
  let slot := wbits (s.dsr 0x114) 0 4
  if r == srROTB then [.sr n r (BitVec.ofNat 64 (wbits v 0 6 % 48 + wbits v 8 3 * 2 ^ 8))]
  else if r == 0xC then rbqWrite n v s
  else if r == 0x115 then [.ctx slot (fun c => { c with rtab := v.toNat })]
  else if r == 0x116 then [.ctx slot (fun c => { c with ptroot := v.toNat })]
  else if r == 0x119 then [.ctx slot (fun c => { c with varena := v.toNat })]
  else if r == 0x117 then []
  else if r == 0x173 then [.dev (fun d => { d with routes := tput d.routes (wbits (tget 0 d.sr 0x172) 0 10) v })]
  else if r == 0x13F || (0x140 ≤ r && r ≤ 0x14F && r % 4 == 3) then []
  else if (6 ≤ r && r < 0x15) || r == 0x10C || r == 0x10D || r == 0x110 || r == 0x112 || r == 0x170 then [.sr n r v]
  else [devSr r v]

/-- TAGVAL sets the tag of the granule TAGSEL selects (R344). -/
def tagvalWriteAct (n : Nat) (v : Word) : Act := fun s => [.tag n (wbits (s.sr n srTAGSEL) 0 12) (v.setWidth 16)]

/-! ### Removing cached translations (R351) -/

/-- A removal starts, or begins when those under way are done; its time is free (log 10). -/
def xinvRemovalAct (slot : Nat) : Act := fun s =>
  [devSr 0x117 (BitVec.ofNat 64 (slot % 16 * 2 ^ 8)), .dev (fun d => { d with xinv := d.xinv ++ [slot % 16] })] ++
  (if s.dev.xinv.isEmpty then [.fresh, postU (s.cycle + 1 + Config.freeNat s.fresh) 3 .xinvDone] else [])

/-- The windows that a range table maps (R354): one already set up keeps its version and halves; the version counter's
host address and E of a new one are the supervisor's choice, free (log 14). -/
def windowsOf (s : State) (k : Nat) : Tab Win :=
  (List.range 64).foldl (fun (m : Tab Win) i =>
    let w3 := rangeWord s k i 3
    if w3 % 2 == 1 && bitsOf w3 3 3 == 4 && bitsOf w3 6 2 == 0 then
      let w := bitsOf w3 13 6
      let base := rangeWord s k i 2 % 2 ^ 48
      let half := (rangeWord s k i 1 % 2 ^ 48 + 1) / 2
      tput m w (match tfind (s.ctx k).wins w with
        | some x => { x with base := base, half := half }
        | none => ⟨base, half, false, 0, Config.freeNat (s.fresh + 2 * w), Config.freeNat (s.fresh + 2 * w + 1) % 2 == 1, false⟩)
    else m) []

/-- XINV_DONE: the slot's new RTAB and PTROOT govern translations, and the next removal begins (R345, R351). -/
def xinvDoneAct : Act := fun s =>
  match s.dev.xinv with
  | [] => []
  | k :: r => seqA [
      pureA [.ctx k (fun c => { c with rtabNow := c.rtab, ptrootNow := c.ptroot }), .dev (fun d => { d with xinv := r })],
      fun s => List.replicate 128 .fresh ++ [.ctx k (fun c => { c with wins := windowsOf s k })],
      fun s => if r.isEmpty then [] else [.fresh, postU (s.cycle + 1 + Config.freeNat s.fresh) 3 .xinvDone]] s

/-! ### Windows (R224, R354, R355) -/

/-- The front half as the host sees it: plaintext, or sealed in chunks with the tags after the half (R354). -/
def windowBytes (s : State) (k w : Nat) (x : Win) (off n : Nat) : List Byte :=
  let front := x.base + if x.front then x.half else 0
  let byte (o : Nat) : Byte := memGet s.dram (t3key (front + o))
  let chunk (j : Nat) : List Byte := (List.range 4096).map (fun i => byte (4096 * j + i))
  let key := Config.hkdf (s.ctx k).key [0x70, 0x75, 0x62]
  let sealed (j : Nat) : List Byte := Config.gcmEnc key [w, x.version, j] (chunk j)
  (List.range n).map (fun i =>
    let o := off + i
    if !x.sealed then byte o
    else if o < x.half then (sealed (o / 4096)).getD (o % 4096) 0
    else (Config.gcmTag key [w, x.version, (o - x.half) / 16] (sealed ((o - x.half) / 16))).getD ((o - x.half) % 16) 0)

/-- HOST_WINDOW_ACCESS: a read of a front half is served, after a publication under way; any other access reads all ones
or is dropped, and the supervisor receives an event (R355). -/
def hostWindowAccessAct (k w write off : Nat) : Act := fun s =>
  let other : List Upd := supEvent evHost off ::
    (if write == 0 then [.dev (fun d => { d with outbox := d.outbox ++ [.hostRead k w off (List.replicate 64 0xFF#8)] })] else [])
  match tfind (s.ctx k).wins w with
  | none => other
  | some x =>
    let top := x.half + if x.sealed then x.half / 256 else 0
    if write != 0 || top < off + 64 then other
    else if x.busy then [postU (s.cycle + 1) 3 (.hostWindowAccess k w write off)]
    else [.dev (fun d => { d with outbox := d.outbox ++ [.hostRead k w off (windowBytes s k w x off 64)] })]

/-! ### Keys and images (R335, R336, R352, R353, R357) -/

/-- Is a context slot in use by a task? -/
def slotBusy (s : State) (k : Nat) : Bool := s.tasks.any (fun e => e.2.ctx == k)

/-- A slot's image is another one: no instruction store holds it (R352). -/
def unload (s : State) (k : Nat) : List Upd :=
  (s.cores.filter (fun e => e.2.image == some k)).map (fun e => .core e.1 (fun c => { c with image := none }))

/-- The two keys of AES-XTS-256 at the vault stations (R336). What they encipher leaves no trace on this side of the stations
(log 16). -/
def xtsKeys (k : Ctx) : List Nat × List Nat :=
  let o := Config.hkdfN 64 k.key [0x78, 0x74, 0x73]
  (o.take 32, o.drop 32)

/-- K as a tenant's session brings it: a message free here, opened under HKDF(secret, "wrap") (R357; log 9). -/
def unwrapped (session f : Nat) : List Nat :=
  let key := Config.hkdf (Config.sessionSecret session) [0x77, 0x72, 0x61, 0x70]
  let nonce := (bytesOf 12 (Config.freeBits 96 f).toNat).map BitVec.toNat
  (Config.gcmDec key nonce (bytesOf 32 (Config.freeBits 256 f).toNat)).map BitVec.toNat

/-- KEY_INSTALL: the slot is used anew, with the key of a session; a session number past 8 bits stands for a slot that is
freed, K and what was derived from it erased (R336, R357; log 102). -/
def keyInstallAct (k session : Nat) : Act := fun s =>
  if 16 ≤ k || slotBusy s k then []
  else unload s k ++ [.fresh, .ctx k (fun c => { Ctx.start with
    keyed := session < 256
    key := if session < 256 then unwrapped session s.fresh else []
    session := if session < 256 then session else 0
    rtab := c.rtab
    ptroot := c.ptroot
    varena := c.varena
    rtabNow := c.rtabNow
    ptrootNow := c.ptrootNow
    saves := c.saves })]

/-- A root-box entry (R353): its box, with the context address in `key`; none fails the image. -/
def rootEntry (b : List Byte) : Option Box :=
  let w (o n : Nat) : Nat := natOf ((b.drop o).take n)
  let rank := w 2 1
  let acc := w 3 1
  let addr := w 8 8
  let tier := w 0 1
  if !(tier == 1 || tier == 3 || tier == 4 || tier == 5) || 12 ≤ w 1 1 || rank == 0 || 6 < rank || acc / 16 != 0 ||
      bitsOf acc 2 2 == 3 || 4095 < w 6 2 || (tier != 1 && w 6 2 != 0) ||
      (List.range rank).any (fun i => w (16 + 4 * i) 4 == 0 || 2 ^ 24 < w (16 + 4 * i) 4) then none
  else some
    { tier := tier
      fmt := w 1 1
      ext := (List.range rank).map (fun i => w (16 + 4 * i) 4)
      str := (List.range rank).map (fun i => sextOf 32 (w (40 + 4 * i) 4))
      home := if tier == 5 then addr % 2 ^ 20 else 0
      org := if tier == 1 then 1024 * w 6 2 else if tier == 5 then addr / 2 ^ 20 else 0
      idx := 0
      rd := acc % 2 == 1
      wr := bitsOf acc 1 1 == 1
      merge := 0
      oob := bitsOf acc 2 2
      tb := w 4 2
      key := addr
      fop := 0
      rt := 0
      peer := false }

/-- Segments of a decrypted image in words of n bytes, from byte o, `cnt` of them. -/
def segWords (p : List Byte) (o n cnt : Nat) : List Nat := (List.range cnt).map (fun i => natOf ((p.drop (o + n * i)).take n))

/-- A word of n bytes in its 32-bit words. -/
def words32 (w n : Nat) : List Nat := (List.range (n / 4)).map (fun i => bitsOf w (32 * i) 32)

/-- The manifest's counts: bundles, records, routines, vault commands, timetable entries, data bytes, root boxes. -/
def manifestCounts (m : Nat → Nat → Nat) : List Nat := [m 16 4, m 20 4, m 24 4, m 28 4, m 32 4, m 36 4, m 40 2]

/-- Is a manifest in range (R352)? -/
def manifestOk (m : Nat → Nat → Nat) : Bool :=
  m 0 4 == 1 && 1 ≤ m 16 4 && m 16 4 ≤ 16384 && m 20 4 ≤ 1024 && m 24 4 ≤ 64 && m 28 4 ≤ 4096 && m 32 4 ≤ 4096 &&
    1 ≤ m 40 2 && m 40 2 ≤ 255 && m 42 6 == 0

/-- The decoded image of manifest m, root boxes and plaintext segments (R352). -/
def decodeImage (m : Nat → Nat → Nat) (roots : List Box) (p : List Byte) : Code :=
  let o1 := 32 * m 16 4
  let o2 := o1 + 32 * m 20 4
  let o3 := o2 + 172 * m 24 4
  let o4 := o3 + 4 * m 28 4
  { bundles := (segWords p 0 32 (m 16 4)).map (BitVec.ofNat 256)
    records := (segWords p o1 32 (m 20 4)).map (fun w => words32 w 32)
    routines := (segWords p o2 172 (m 24 4)).map (fun w => words32 w 172)
    vault := segWords p o3 4 (m 28 4)
    timetable := (segWords p o4 16 (m 32 4)).map (fun w => words32 w 16)
    roots := roots }

/-- Bytes written at context addresses from one on, where they are mapped to HBM. -/
def mapSegment (s : State) (k at_ : Nat) (bs : List Byte) : List Upd :=
  ((List.range bs.length).zip bs).filterMap (fun e =>
    let x := translate s k ((at_ + e.1) % 2 ^ 48) false false
    if x.cause == 0 && !x.host then some (.mem .dram (t3key x.phys) [e.2]) else none)

/-- IMAGE_AUTHENTICATION of the image at a host address: Sirlen checks the tag, and the loader maps the segments into ranges of
the context: the data segment where its root box names it, the others from a free address on (R352, R353; log 14). -/
def imageAuthenticationAct (k a : Nat) : Act := fun s =>
  if 16 ≤ k || slotBusy s k || !(s.ctx k).keyed then []
  else
    let m (o n : Nat) : Nat := natOf (memGets s.hostm (a + o) n)
    let len := 32 * m 16 4 + 32 * m 20 4 + 172 * m 24 4 + 4 * m 28 4 + 16 * m 32 4 + m 36 4
    let hd := 48 + 64 * m 40 2
    let key := Config.hkdf (s.ctx k).key [0x69, 0x6D, 0x67]
    let nonce := (memGets s.hostm (a + 4) 12).map BitVec.toNat
    let cipher := memGets s.hostm (a + hd) len
    let entries := (List.range (m 40 2)).map (fun i => rootEntry (memGets s.hostm (a + 48 + 64 * i) 64))
    let roots := entries.filterMap id
    let first := match roots with
      | b :: _ => b.tier == 3 && b.fmt == 11 && b.rank == 1 && b.rd && !b.wr
      | [] => false
    let good := manifestOk m && entries.all (·.isSome) && first &&
      Config.gcmTag key nonce (memGets s.hostm a (hd + len)) == memGets s.hostm (a + hd + len) 16
    unload s k ++ if !good then
      [.ctx k (fun c => { c with code := none, accepted := false }), supEvent evIntegrity k]
    else
      let p := Config.gcmDec key nonce cipher
      let data := (p.drop (len - m 36 4)).take (m 36 4)
      let at_ := (roots.map (·.key)).headD 0
      [.fresh, .ctx k (fun c => { c with
        code := some (decodeImage m roots p)
        accepted := true
        meas := Config.sha384 (c.meas ++ Config.sha384 cipher) })] ++
      mapSegment s k (Config.freeNat s.fresh % 2 ^ 48) (p.take (len - m 36 4)) ++ mapSegment s k at_ data

/-- ATTESTATION_REPORT: measurements, device identity and an ephemeral key, signed; the requester's nonce, the part
number and the ephemeral key are free (R357; log 9). -/
def attestationReportAct (k session : Nat) : Act := fun s =>
  let body := bytesOf 32 (Config.freeBits 256 s.fresh).toNat ++ bytesOf 4 s.dev.ident ++
    bytesOf 8 (Config.freeBits 64 0).toNat ++ s.dev.measFw ++ s.dev.measSup ++ (s.ctx k).meas ++ bytesOf 1 k ++
    bytesOf 96 (Config.freeBits 768 (s.fresh + 1)).toNat ++ bytesOf 1 session
  [.fresh, .fresh, .dev (fun d => { d with outbox := d.outbox ++ [.report (body ++ Config.sign body)] })]

/-! ### Links (R311, R358) -/

/-- A change of one port. -/
def portU (p : Nat) (f : Port → Port) : Upd := .dev (fun d => { d with ports := tput d.ports p (f (tget Port.start d.ports p)) })

/-- LINK_ATTESTATION: both reports verified, the port comes up in the mode given, 1 or 2, with a latency the link
publishes, free (log 10); otherwise it stays down. -/
def linkAttestationAct (port peer peerPort mode : Nat) : Act := fun s =>
  if 16 ≤ port then []
  else if mode == 1 || mode == 2 then [.fresh, portU port (fun p => { p with
    mode := mode
    lat := Config.freeNat s.fresh % 65536
    peer := peer
    peerPort := peerPort
    attested := true
    frames := 0
    keys := p.keys + 1 })]
  else [portU port (fun p => { p with mode := 0, attested := false })]

/-- LINK_REKEY: the frame counter starts again under the new key. -/
def linkRekeyAct (port : Nat) : Act := fun _ => if 16 ≤ port then [] else [portU port (fun p => { p with frames := 0, keys := p.keys + 1 })]

/-! ### Events -/

/-- CTIME_WRITE (R309). -/
def execCtimeWrite (_n : Nat) (v : Word) (s : State) : Host.Outcome State Fault Refusal := done (ctimeWriteAct v) s
/-- CRCST_WRITE (R408). -/
def execCrcstWrite (n : Nat) (v : Word) (s : State) : Host.Outcome State Fault Refusal := done (crcstWriteAct n v) s
/-- CTRIM_WRITE (R307). -/
def execCtrimWrite (v : Word) (s : State) : Host.Outcome State Fault Refusal := done (ctrimWriteAct v) s
/-- PLATFORM_REGISTER_WRITE (R270). -/
def execPlatformRegisterWrite (n j : Nat) (v : Word) (s : State) : Host.Outcome State Fault Refusal :=
  done (fun _ => if platBadImage v.toNat then [] else [.sr n (srPLAT0 + j) v]) s
/-- YCTL_WRITE (R304). -/
def execYctlWrite (j : Nat) (v : Word) (s : State) : Host.Outcome State Fault Refusal := done (yctlWriteAct j v) s
/-- TAGVAL_WRITE (R344). -/
def execTagvalWrite (n : Nat) (v : Word) (s : State) : Host.Outcome State Fault Refusal := done (tagvalWriteAct n v) s
/-- SYSTEM_REGISTER_WRITE (R346). -/
def execSystemRegisterWrite (n r : Nat) (v : Word) (s : State) : Host.Outcome State Fault Refusal :=
  done (systemRegisterWriteAct n r v) s
/-- XINV_REMOVAL (R351). -/
def execXinvRemoval (slots : Nat) (s : State) : Host.Outcome State Fault Refusal := done (xinvRemovalAct slots) s
/-- XINV_DONE (R351). -/
def execXinvDone (s : State) : Host.Outcome State Fault Refusal := done xinvDoneAct s
/-- HOST_WINDOW_ACCESS (R355). -/
def execHostWindowAccess (ctx win write off : Nat) (s : State) : Host.Outcome State Fault Refusal :=
  done (hostWindowAccessAct ctx win write off) s
/-- KEY_INSTALL (R357). -/
def execKeyInstall (slot session : Nat) (s : State) : Host.Outcome State Fault Refusal := done (keyInstallAct slot session) s
/-- IMAGE_AUTHENTICATION (R352). -/
def execImageAuthentication (slot image : Nat) (s : State) : Host.Outcome State Fault Refusal :=
  done (imageAuthenticationAct slot image) s
/-- ATTESTATION_REPORT (R357). -/
def execAttestationReport (slot session : Nat) (s : State) : Host.Outcome State Fault Refusal :=
  done (attestationReportAct slot session) s
/-- LINK_ATTESTATION (R358): `ok` is 0 for a failed verification, otherwise the mode the port comes up in. -/
def execLinkAttestation (port peer peerPort ok : Nat) (s : State) : Host.Outcome State Fault Refusal :=
  done (linkAttestationAct port peer peerPort ok) s
/-- LINK_REKEY (R358). -/
def execLinkRekey (port : Nat) (s : State) : Host.Outcome State Fault Refusal := done (linkRekeyAct port) s
/-- FIRMWARE_UPDATE (R392): a package whose signature verifies runs from the next bring-up. -/
def execFirmwareUpdate (digest sig : Nat) (s : State) : Host.Outcome State Fault Refusal :=
  done (fun _ => if !Config.verifies digest sig then [] else [.dev (fun d => { d with fwNext := digest })]) s

end Sys2Proof.Machine
end

