-- ==== Sys2Proof/Machine/Package.lean ====
section
/-! DEFINITION. Stretch, power, thermal limits, sensors and bring-up (R386 to R395). -/

namespace Sys2Proof.Machine

/-! ### Stretch (R387 to R389) -/

/-- Cycles in 1 ms. -/
def msCycles : Nat := 800000

/-- Sixteenths of a tick lost over cycles lo to hi − 1, from the changes of level, latest first. -/
def deficitOver (lo : Nat) : Nat → List (Nat × Nat) → Nat
  | _, [] => 0
  | hi, (c, k) :: r => (if max lo c < hi then k * (hi - max lo c) else 0) + (if lo < c then deficitOver lo (min hi c) r else 0)

/-- The deficit of the 1 ms that ends with cycle c. -/
def deficitAt (d : Dev) (c : Nat) : Nat := deficitOver (c + 1 - msCycles) (c + 1) d.deficits

/-- Does the deficit pass 12 ticks in cycle c (R389)? -/
def limitPassed (d : Dev) (c : Nat) : Bool := 192 < deficitAt d c && (c == 0 || deficitAt d (c - 1) ≤ 192)

/-- The changes of level that the last 2 ms reach: those within them, and the one in force as they began. -/
def recentLevels (c : Nat) (l : List (Nat × Nat)) : List (Nat × Nat) :=
  l.takeWhile (fun e => c < e.1 + 2 * msCycles) ++ (l.dropWhile (fun e => c < e.1 + 2 * msCycles)).take 1

/-- The largest deficit of a 1 ms that ends after cycle lo and no later than hi: the deficit turns only where the level
changes or a change leaves the 1 ms. -/
def peakOver (d : Dev) (lo hi : Nat) : Nat :=
  let turns := hi :: d.deficits.flatMap (fun e => [e.1 - 1, e.1 + msCycles - 1, e.1 + msCycles])
  ((turns.filter (fun c => lo < c && c ≤ hi)).map (deficitAt d)).foldl max 0

/-- Take the deficits up to this cycle into the peak (R393). -/
def takePeak : Act := fun s => [.dev (fun d => { d with
  peak := max d.peak (peakOver d d.peakTo s.cycle)
  peakTo := s.cycle })]

/-- An event sent to the supervisor and raised on the management interface. -/
def bothEvents (code arg : Nat) : List Upd :=
  [supEvent code arg, .dev (fun d => { d with outbox := d.outbox ++ [.event code arg] })]

/-- The level changes in this cycle: real CK go on from here, what was reckoned under the old level is reckoned anew. -/
def setLevel (k : Nat) : Act := seqA [
  takePeak,
  fun s => [.dev (fun d => { d with
    level := k
    levelAt := s.cycle
    realAt := ckReal s (2 * s.cycle)
    frac := (d.frac + (s.cycle - d.levelAt) * d.level) % 8
    deficits := (s.cycle, k) :: recentLevels s.cycle d.deficits })],
  fun s =>
    let later (i : Item) : Bool := (match i.ev with
      | .refreshAccrual _ _ => s.cycle < i.due
      | _ => false)
    (if s.agenda.any later then [.unagenda (fun i => !later i),
      postU (max s.cycle (cycleOfReal s ((s.vault 0).chan 0).accrue)) 2 (.refreshAccrual 0 0)] else []),
  fun s => forA (s.vaults.map (·.1)) (fun v => seqA [reserve v, reclose v]) s]

/-- Is an item not a look of the device at its stretch limit? -/
def notLook (i : Item) : Bool :=
  match i.ev with
  | .droopStretch k => k != 16
  | _ => true

/-- The next look at the limit, in the cycle `i` or later in which this stretch would pass it: one at a time. -/
def limitLook (i : Nat) : Act := fun s =>
  .unagenda notLook :: (if s.dev.level == 0 then []
    else [postU (((List.range 200).find? (fun j => limitPassed s.dev (s.cycle + i + j))).getD 199 + s.cycle + i) 4 (.droopStretch 16)])

/-- Report a limit passed in this cycle (R389). -/
def limitCheck : Act := fun s => if limitPassed s.dev s.cycle then bothEvents evStretch 0 else []

/-- DROOP_STRETCH: level k, 1 to 4, governs from this cycle (R387); 16 looks whether the limit is passed (R389). -/
def droopStretchAct (k : Nat) : Act :=
  if 1 ≤ k && k ≤ 4 then seqA [setLevel k, limitLook 0]
  else if k == 16 then whenA (fun s => s.dev.level != 0) (seqA [limitCheck, limitLook 1]) else pureA []

/-- STRETCH_END. -/
def stretchEndAct : Act := whenA (fun s => s.dev.level != 0) (setLevel 0)

/-! ### Power cap and thermal limits (R390, R391) -/

/-- Sensor i now reads v. -/
def sensorU (i v : Nat) : Upd := .dev (fun d => { d with sensors := tput d.sensors i v })

/-- POWER_CAP_EXCEEDED: the 10 ms average is above the cap. -/
def powerCapExceededAct (w : Nat) : Act := fun s => if w ≤ s.dev.cap then [] else [.dev (fun d => { d with capHold := true })]

/-- POWER_CAP_CLEAR: it is below 95 % of the cap. -/
def powerCapClearAct (w : Nat) : Act := fun s =>
  if 95 * s.dev.cap ≤ 100 * w then [] else [.dev (fun d => { d with capHold := false })]

/-- POWER_CAP_SET: 800 W to 2,000 W in steps of 50 W; sensor 11 follows. -/
def powerCapSetAct (w : Nat) : Act := fun _ =>
  if w < 800 || 2000 < w || w % 50 != 0 then [] else [.dev (fun d => { d with cap := w }), sensorU 11 w]

/-- Events that only the outside posts: they outlive a trip and a power-up. -/
def outside (i : Item) : Bool :=
  match i.ev with
  | .frameRetry _ _ => true
  | .ptpMessage _ _ _ _ _ => true
  | .lockLoss => true
  | .mailboxEntry _ => true
  | .sensorRead _ => true
  | .stretchEnd => true
  | .powerCapExceeded _ => true
  | .powerCapClear _ => true
  | .powerCapSet _ => true
  | .thermalWarning _ => true
  | .thermalHold _ => true
  | .thermalTrip _ => true
  | .sensorUpdate _ _ => true
  | .firmwareUpdate _ _ => true
  | .attestationReport _ _ => true
  | .keyInstall _ _ => true
  | .linkAttestation _ _ _ _ => true
  | .linkRekey _ => true
  | .imageAuthentication _ _ => true
  | .bringUp => true
  | _ => false

/-- THERMAL_TRIP: every clock stops, every core and vault is fenced, CXL and the ports go down, and reset is held (R391). -/
def thermalTripAct (temp : Nat) : Act := fun _ =>
  if temp < 110 then []
  else
    let all : Word := BitVec.ofNat 64 (2 ^ 40 - 1)
    (List.range 8).map (fun r => devSr (0x130 + r) all) ++
    (List.range 164).map (fun n => Upd.core n (fun c => { c with
      run := .fenced
      hold := .none
      pend := []
      due := []
      mops := []
      board := []
      fences := []
      heldReq := []
      after := []
      tt := none })) ++
    (List.range 160).map (fun v => Upd.vault v (fun t => { t with
      queue := []
      prog := none
      waiting := []
      window := none
      serve := none
      gens := [] })) ++
    [.dev (fun d => { d with
      tripped := true
      ports := d.ports.map (fun e => (e.1, { e.2 with mode := 0 })) }), .unagenda outside]

/-! ### Sensors (R393) -/

/-- Fenced cores and vaults. -/
def fencedCount (s : State) : Nat := ((List.range 8).map (fun r => popcN 64 (s.dsr (0x130 + r)).toNat)).foldl (· + ·) 0

/-- SENSOR_UPDATE: peaks are kept since the last read; deficits, error and fence counts and the cap are the device's own. -/
def sensorUpdateAct (i v : Nat) : Act := fun s =>
  let old := tget 0 s.dev.sensors i
  if i == 0 || 11 < i then []
  else if i == 8 then seqA [takePeak, fun s => [sensorU 8 (max old s.dev.peak), .dev (fun d => { d with peak := 0 })]] s
  else [sensorU i (
    if i == 2 then max old v
    else if i == 9 then wbits (s.dsr 0x13D) 0 32 + wbits (s.dsr 0x13D) 32 32
    else if i == 10 then fencedCount s
    else if i == 11 then s.dev.cap
    else v)]

/-- SENSOR_READ: the value goes out, and a peak starts again. -/
def sensorReadAct (i : Nat) : Act := fun s =>
  .dev (fun d => { d with outbox := d.outbox ++ [.event (256 + i) (tget 0 s.dev.sensors i)] }) ::
  (if i == 2 || i == 8 then [sensorU i 0] else [])

/-! ### Bring-up (R394, R395) -/

/-- The control cores start the firmware they have loaded; its first bundle is the first of the supervisor store (R394; log
13). -/
def firmwareU (c : Nat) : List Upd := (List.range 4).map (fun i => Upd.core (160 + i) (fun _ => { Core.start with
  run := .issuing
  sup := true
  nextAt := c + 1 }))

/-- CORE_CAP of a core with so many scratchpad banks and tile pairs retired and register rows remapped, and whether it may
run: one with more than a class allows stays fenced (R278, R373). -/
def capOf (banks pairs row : Nat) : Nat × Bool :=
  let cls := min (if banks == 0 then 3 else if banks ≤ 8 then 2 else if banks ≤ 16 then 1 else 0)
    (min (if pairs == 0 then 3 else if pairs == 1 then 1 else 0) (if row == 1 then 2 else 3))
  (cls + banks * 2 ^ 4 + pairs * 2 ^ 10 + row * 2 ^ 12, banks ≤ 24 && pairs ≤ 2)

/-- What self-test repaired or retired on a core, a free finding (log 3). -/
def repaired (f : Nat) : Nat × Bool := capOf (f % 26) (f / 26 % 4) (f / 104 % 2)

/-- Self-test and repair of a core (R394, step 4). -/
def selfTestU (s : State) (n f : Nat) : List Upd :=
  .sr n srCORECAP (BitVec.ofNat 64 (repaired f).1) ::
  (if (repaired f).2 then []
   else [devSr (0x130 + n / 40) (setBit (s.dsr (0x130 + n / 40)) (n % 40) true), .core n (fun _ => { Core.start with run := .fenced })])

/-- Training of the HBM stacks (R394, step 5): the vaults that stay fenced and the channels that spares replace, free findings
(log 3). -/
def trainU (d f : Nat) : List Upd :=
  let w := Config.freeNat f
  let r := Config.freeNat (f + 1)
  let byte (k : Nat) : Nat := if r / 256 ^ k % 161 == 0 then 255 else r / 256 ^ k % 161 - 1
  [devSr (0x134 + d) (BitVec.ofNat 64 (w % 2 ^ 40)),
    devSr (0x138 + d) (BitVec.ofNat 64 (((List.range 8).map (fun k => byte k * 256 ^ k)).foldl (· + ·) 0))]

/-- A step of bring-up that fails stops it: reset stays held, and the failure goes out over SMBus (R394). -/
def bringUpFails (step : Nat) : Act := fun s => [
  .bring s.dev.fwNext outside,
  .dev (fun d => { d with
    tripped := true
    outbox := d.outbox ++ [.event evBringUp step] })]

/-- Every step of bring-up after one another; the firmware and the supervisor stores it loads are measured (R357). -/
def bringUpWhole : Act := seqA [
  fun s => [
  .bring s.dev.fwNext outside, .fresh,
  .dev (fun d => { d with
    measFw := Config.sha384 (List.replicate 48 0#8 ++ Config.sha384 (bytesOf 48 d.fwNext))
    measSup := Config.sha384 (List.replicate 48 0#8 ++ Config.sha384 ((List.range 1024).flatMap (fun a =>
      bytesOf 32 (Config.firmware d.fwNext a).toNat)))
    mailbox := 65536 * Config.freeNat s.fresh })],
  forA (List.range 160) (fun n => fun s => selfTestU s n (Config.freeNat (2 ^ 64 * (s.fresh + 1) + n))),
  forA (List.range 4) (fun d => fun s => .fresh :: .fresh :: trainU d s.fresh),
  fun s => .fresh :: firmwareU s.cycle]

/-- BRING_UP, whole: seal key drawn, firmware measured, loaded and started, arrays tested, memories trained, ports and
mailbox registered. Which of steps 1 to 7 fails, if any, and what self-test and training find are free, and the mailbox's
place is the supervisor's choice (logs 2, 3, 14). -/
def bringUpAct : Act := fun s =>
  let step := Config.freeNat s.fresh % 8
  seqA [pureA [.fresh], if step == 0 then bringUpWhole else bringUpFails step] s

/-! ### Events -/

/-- DROOP_STRETCH (R387). -/
def execDroopStretch (level : Nat) (s : State) : Host.Outcome State Fault Refusal := done (droopStretchAct level) s
/-- STRETCH_END (R387). -/
def execStretchEnd (s : State) : Host.Outcome State Fault Refusal := done stretchEndAct s
/-- POWER_CAP_EXCEEDED (R390). -/
def execPowerCapExceeded (watts : Nat) (s : State) : Host.Outcome State Fault Refusal := done (powerCapExceededAct watts) s
/-- POWER_CAP_CLEAR (R390). -/
def execPowerCapClear (watts : Nat) (s : State) : Host.Outcome State Fault Refusal := done (powerCapClearAct watts) s
/-- POWER_CAP_SET (R390). -/
def execPowerCapSet (watts : Nat) (s : State) : Host.Outcome State Fault Refusal := done (powerCapSetAct watts) s
/-- THERMAL_WARNING (R391): 95 °C or more. -/
def execThermalWarning (temp : Nat) (s : State) : Host.Outcome State Fault Refusal :=
  done (fun _ => if temp < 95 then [] else bothEvents evThermal temp) s
/-- THERMAL_HOLD (R391): 105 °C or more. -/
def execThermalHold (temp : Nat) (s : State) : Host.Outcome State Fault Refusal :=
  done (fun _ => if temp < 105 then [] else [.dev (fun d => { d with thermHold := true })]) s
/-- THERMAL_HOLD_RELEASE (R391): 100 °C or less. -/
def execThermalHoldRelease (temp : Nat) (s : State) : Host.Outcome State Fault Refusal :=
  done (fun _ => if 100 < temp then [] else [.dev (fun d => { d with thermHold := false })]) s
/-- THERMAL_TRIP (R391). -/
def execThermalTrip (temp : Nat) (s : State) : Host.Outcome State Fault Refusal := done (thermalTripAct temp) s
/-- SENSOR_UPDATE (R393). -/
def execSensorUpdate (sensor value : Nat) (s : State) : Host.Outcome State Fault Refusal := done (sensorUpdateAct sensor value) s
/-- SENSOR_READ (R393). -/
def execSensorRead (sensor : Nat) (s : State) : Host.Outcome State Fault Refusal := done (sensorReadAct sensor) s
/-- BRING_UP (R394). -/
def execBringUp (s : State) : Host.Outcome State Fault Refusal := done bringUpAct s

end Sys2Proof.Machine
end

