-- ==== Sys2Proof/Machine/Recovery.lean ====
section
/-! DEFINITION. Soft errors, scrubbing, fencing by the supervisor and injectors (R380 to R385, R409). -/

namespace Sys2Proof.Machine

/-! ### Corrected errors and scrubbing (R380, R383) -/

/-- Counted in FCTL13: SRAM in bits 31–0, DRAM in bits 63–32; place 0 is a scratchpad, 1 HBM, others another SRAM array. -/
def countError (place : Nat) : Act := fun s =>
  let w := s.dsr 0x13D
  let lo := wbits w 0 32
  let hi := wbits w 32 32
  [devSr 0x13D (BitVec.ofNat 64 (if place == 1 then lo + (hi + 1) % 2 ^ 32 * 2 ^ 32 else (lo + 1) % 2 ^ 32 + hi * 2 ^ 32))]

/-- They are gone. -/
def healed (s : State) (place key : Nat) : Upd :=
  .upset (s.upsets.filter (fun u => !(upsetsAt s place key).contains u))

/-- CORRECTED_ERROR: the read that finds it writes the corrected value back. Bit number 512 stands for a flip the state holds,
which another read may have found before. -/
def correctedErrorAct (place key bit : Nat) : Act := fun s =>
  if bit == 512 && (upsetsAt s place key).isEmpty then [] else countError place s ++ [healed s place key]

/-- The banks after a scrub read of the column at byte offset a, its ACT and its column command at the earliest legal CK:
none where the box has other work, or where the window leaves no room (R22, R383). -/
def scrubPlan (s : State) (v a : Nat) : Option Vault :=
  let t := s.vault v
  let k := reqBank a
  let r := (List.range 4).foldl (fun m pc => max m (t.chan pc).colCk) (ckReal s (2 * s.cycle))
  let x := earliest r (actCons t k)
  let t1 := t.onAct k (a / 65536) x
  let t2 := t1.onCol k false true (earliest (x + 24) (colCons t1 k false))
  let idle := !channelOff s v (k / 16) && t.serve.isNone && t.waiting.isEmpty && !(t.chan (k / 16)).forced && (t.bank k).row.isNone
  let room := match t.prog, t.window with
    | none, _ => t.queue.isEmpty && t.gens.isEmpty
    | some _, some w => w.1 ≤ 2 * s.cycle && (t2.bank k).pre - 1 + 24 < ckReal s w.2
    | some _, none => false
  if idle && room then some t2 else none

/-- SCRUB_READ of one column: one flipped bit is corrected, more are an uncorrectable error. It waits for idle CK, a free
time; the next column of the pseudo-channel follows, as long as scrubbing is enabled (R383; log 26). -/
def scrubReadAct (v pc bank row col : Nat) : Act := fun s =>
  let a := row * 65536 + bank % 4 * 4096 + bank / 4 % 4 * 16384 + pc * 1024 + col * 64
  let k := ((s.vault v).chan pc).scrub
  let mine := Instr.scrubRead v pc bank row col == scrubItem v pc k
  if mine && !(s.dsr 0x13E).getLsbD 0 then []
  else match scrubPlan s v a with
  | none =>
    if channelOff s v pc then []
    else [.fresh, postU (s.cycle + 1 + Config.freeNat s.fresh % scrubGap s) 4 (.scrubRead v pc bank row col)]
  | some t =>
    .vault v (fun _ => if mine then t.setChan pc (fun c => { c with scrub := k + 1 }) else t) ::
    findUpsets (upsetsAt s 1 (vkey v a)) s ++
    (if mine then [postU (s.cycle + scrubGap s) 4 (scrubItem v pc (k + 1))] else [])

/-! ### Fencing (R381, R382, R384) -/

/-- Does a task hold a box over vault v, in a box register, an argument or an image? -/
def holdsVault (s : State) (v t : Nat) (k : Task) : Bool :=
  let regs := (coresOf s t).flatMap (fun n => (List.range 16).filterMap (fun i => s.b n i))
  let saved := (match k.saved with
    | some x => x.bs.map (·.2)
    | none => [])
  (regs ++ saved ++ k.boxes.filterMap id ++ k.imgs.map (·.child)).any (fun b => (boxVaults s b).contains v)

/-- Fence a vault: its program stops, its requests end with the operations that wait for them, whose engines go on, and the
tasks over it fail with cause 0x21 (R382). -/
def fenceVault (v : Nat) : Act := fun s =>
  let gone := s.reqs.filter (fun e => e.2.vault == v && e.2.st != 3)
  let waits := gone.filterMap (fun e => e.2.op)
  let ops := s.ops.filter (fun e => waits.contains e.1 ||
    (e.2.kind == .vrun && (e.2.boxes.map (·.home)).contains v && e.2.st != .done))
  let hit := s.tasks.filter (fun e => !(e.2.st == .done || e.2.st == .failed || e.2.st == .stopped) &&
    (holdsVault s v e.1 e.2 || gone.any (fun r => r.2.task == e.1)))
  seqA [
    pureA ([devSr (0x134 + v / 40) (setBit (s.dsr (0x134 + v / 40)) (v % 10 + 10 * (v % 40 / 10)) true),
      .vault v (fun t => { (t.closeAll (ckReal s (2 * s.cycle))).1 with
        queue := []
        prog := none
        waiting := []
        window := none
        serve := none
        gens := [] })] ++
      gone.map (fun e => Upd.delReq e.1)),
    forA ops (fun e => seqA [pureA (if e.2.kind == .coll then collEnd e.1 e.2 else [.delOp e.1]), engineNext e.2,
      cpyFree e.2.core]),
    forA (gone.map (fun e => e.2.core)) unfence,
    pureA (hit.map (fun e => postU s.cycle 3 (.taskFailure e.1 0x21)))] s

/-- The columns of a vault as a copy reads them: what the check cannot correct stays as it is read, what it can is corrected
and counted (R380, R382). -/
def asRead (v : Nat) : Act := fun s =>
  let mine := s.upsets.filter (fun u => u.1 == 1 && u.2.1 / 2 ^ 31 == v)
  let bad := mine.filter (fun u => 1 < ((upsetsAt s 1 u.2.1).map (fun q => popcN 64 q.2.2)).foldl (· + ·) 0)
  seqA [
    forA bad (fun u => fun s => [.mem .dram u.2.1 (bytesOf 8 (Nat.xor (natOf (memGets s.dram u.2.1 8)) u.2.2))]),
    pureA [.upset (s.upsets.filter (fun u => !bad.contains u))],
    findUpsets (mine.filter (fun u => !bad.contains u))] s

/-- UNCORRECTABLE_DRAM_ERROR: the vault is fenced, its columns are copied as read, the supervisor learns the column, and the roots of a context whose range
covers it fail for good (R382). -/
def uncorrectableDramErrorAct (v a : Nat) : Act := fun s =>
  let phys := layoutAddr v a
  let ctxs := (List.range 16).filter (fun k => (List.range 64).any (fun i =>
    let w3 := rangeWord s k i 3
    let off := rangeWord s k i 2 % 2 ^ 48
    w3 % 2 == 1 && bitsOf w3 6 2 == 0 && off ≤ phys && phys ≤ off + rangeWord s k i 1 % 2 ^ 48))
  let roots := s.tasks.filter (fun e => e.2.seq.isSome && ctxs.contains e.2.ctx)
  seqA [
    asRead v,
    pureA ([supEvent evColumn phys] ++
      roots.map (fun e => Upd.task e.1 (fun k => { k with escaped := true })) ++
      roots.map (fun e => postU s.cycle 3 (.taskFailure e.1 0x20))),
    fenceVault v] s

/-- UNCORRECTABLE_SRAM_ERROR, in the cycle after its detection: the core is fenced (R381). -/
def uncorrectableSramErrorAct (n a : Nat) : Act := seqA [fun s => [healed s 0 (skey n a)], fenceCore n]

/-- Repairs of a core while it was fenced, a free finding that only adds to the earlier ones (R373; log 3): its CORE_CAP
now, and whether the fence may be lifted. -/
def repairMore (old : Word) (f : Nat) : Nat × Bool :=
  capOf (max (wbits old 4 6) (f % 26)) (max (wbits old 10 2) (f / 26 % 4)) (max (wbits old 12 1) (f / 104 % 2))

/-- A fence lifted: the core is idle and holds nothing of what ran on it, repaired before; one with more repairs than a class
allows stays fenced (R373, R384). -/
def liftCore (n : Nat) : Act := fun s =>
  let r := repairMore (s.sr n srCORECAP) (Config.freeNat s.fresh)
  [.fresh, .sr n srCORECAP (BitVec.ofNat 64 r.1)] ++
  (if r.2 then [devSr (0x130 + n / 40) (setBit (s.dsr (0x130 + n / 40)) (n % 40) false), .core n (fun _ => Core.start)] else [])

/-- A fence lifted: the vault serves again. -/
def liftVault (v : Nat) : Act := seqA [
  fun s => [devSr (0x134 + v / 40) (setBit (s.dsr (0x134 + v / 40)) (v % 10 + 10 * (v % 40 / 10)) false)],
  vaultKick v]

/-- FENCE_BIT_WRITE of FCTLr: bits set fence, bits cleared lift. -/
def fenceBitWriteAct (r : Nat) (v : Word) : Act := fun s =>
  let old := s.dsr (0x130 + r)
  forA ((List.range 40).filter (fun i => v.getLsbD i != old.getLsbD i)) (fun i =>
    let on := v.getLsbD i
    if r < 4 then (if on then fenceCore (40 * r + i) else liftCore (40 * r + i))
    else
      let vt := 40 * (r - 4) + i
      if on then fenceVault vt else liftVault vt) s

/-! ### Injectors (R385, R409) -/

/-- Stored bits flipped beneath the check: the read that meets them finds them (R380, R383). -/
def inject (place key : Nat) (mask : Nat) : Act := fun s => [.upset (s.upsets ++ [(place, key, mask)])]

/-- The parts of a mask of eight bytes at byte offset `wh` that lie in each word of `sz` bytes. -/
def injParts (sz wh mask : Nat) : List (Nat × Nat) :=
  let n := min 8 (sz - wh % sz)
  [(wh, mask % 2 ^ (8 * n)), (wh + n, mask / 2 ^ (8 * n) % 2 ^ (64 - 8 * n))].filter (fun e => e.2 != 0)

/-- INJECTOR_ARM: kinds 1 and 2 fire at once and clear ARM; kinds 3 and 4 wait for a flit or a copy. -/
def injectorArmAct (j : Nat) (v : Word) : Act := fun s =>
  let kind := wbits v 0 4
  let unit := wbits v 4 8
  let wh := (s.dsr (0x141 + 4 * j)).toNat
  let mask := (s.dsr (0x142 + 4 * j)).toNat
  if v.getLsbD 63 && (kind == 1 || kind == 2) then
    devSr (0x140 + 4 * j) (setBit v 63 false) ::
    (if mask == 0 || 160 ≤ unit || (if kind == 1 then 2 ^ 22 else 2 ^ 31) < wh + 8 then []
     else forA (injParts (if kind == 1 then 8 else 64) wh mask) (fun e =>
       if kind == 1 then inject 0 (skey unit e.1) e.2 else inject 1 (vkey unit e.1) e.2) s)
  else [devSr (0x140 + 4 * j) v]

/-! ### Events -/

/-- SCRUB_READ (R383). -/
def execScrubRead (v pc bank row col : Nat) (s : State) : Host.Outcome State Fault Refusal := done (scrubReadAct v pc bank row col) s
/-- CORRECTED_ERROR (R380). -/
def execCorrectedError (place addr bit : Nat) (s : State) : Host.Outcome State Fault Refusal := done (correctedErrorAct place addr bit) s
/-- UNCORRECTABLE_SRAM_ERROR (R381). -/
def execUncorrectableSramError (n addr : Nat) (s : State) : Host.Outcome State Fault Refusal := done (uncorrectableSramErrorAct n addr) s
/-- UNCORRECTABLE_DRAM_ERROR (R382). -/
def execUncorrectableDramError (v addr : Nat) (s : State) : Host.Outcome State Fault Refusal := done (uncorrectableDramErrorAct v addr) s
/-- FENCE_BIT_WRITE (R384). -/
def execFenceBitWrite (r : Nat) (v : Word) (s : State) : Host.Outcome State Fault Refusal := done (fenceBitWriteAct r v) s
/-- INJECTOR_ARM (R385). -/
def execInjectorArm (j : Nat) (v : Word) (s : State) : Host.Outcome State Fault Refusal := done (injectorArmAct j v) s

end Sys2Proof.Machine
end

