-- ==== Sys2Proof/Machine/Dispatch.lean ====
section
/-! DEFINITION. The meaning of every instruction: one arm for each row of the opcode table. -/

namespace Sys2Proof.Machine

/-- Run one instruction in a state. -/
def exec (i : Instr) (s : State) : Host.Outcome State Fault Refusal :=
  match i with
  | .nop => Sys2Proof.Machine.execNop s
  | .br t => Sys2Proof.Machine.execBr t s
  | .brc s0 c t => Sys2Proof.Machine.execBrc s0 c t s
  | .brl d t => Sys2Proof.Machine.execBrl d t s
  | .brx s0 => Sys2Proof.Machine.execBrx s0 s
  | .zloop s0 e => Sys2Proof.Machine.execZloop s0 e s
  | .close => Sys2Proof.Machine.execClose s
  | .waitc s0 n => Sys2Proof.Machine.execWaitc s0 n s
  | .waitt s0 => Sys2Proof.Machine.execWaitt s0 s
  | .syncd l => Sys2Proof.Machine.execSyncd l s
  | .setfmt s0 t => Sys2Proof.Machine.execSetfmt s0 t s
  | .setmsk m3 z3 m4 z4 m5 z5 keep => Sys2Proof.Machine.execSetmsk m3 z3 m4 z4 m5 z5 keep s
  | .spawn q e => Sys2Proof.Machine.execSpawn q e s
  | .tcall rec xf tier nb nx => Sys2Proof.Machine.execTcall rec xf tier nb nx s
  | .tret => Sys2Proof.Machine.execTret s
  | .finopen d => Sys2Proof.Machine.execFinopen d s
  | .finwait f => Sys2Proof.Machine.execFinwait f s
  | .trap n => Sys2Proof.Machine.execTrap n s
  | .svc n => Sys2Proof.Machine.execSvc n s
  | .eret => Sys2Proof.Machine.execEret s
  | .mfs d r => Sys2Proof.Machine.execMfs d r s
  | .mts s0 r => Sys2Proof.Machine.execMts s0 r s
  | .halt => Sys2Proof.Machine.execHalt s
  | .hdr sla exa slb exb slc exc => Sys2Proof.Machine.execHdr sla exa slb exb slc exc s
  | .mov d nb a => Sys2Proof.Machine.execMov d nb a s
  | .movi d imm => Sys2Proof.Machine.execMovi d imm s
  | .movhi d imm => Sys2Proof.Machine.execMovhi d imm s
  | .add d nb a b => Sys2Proof.Machine.execAdd d nb a b s
  | .addi d a imm => Sys2Proof.Machine.execAddi d a imm s
  | .sub d nb a b => Sys2Proof.Machine.execSub d nb a b s
  | .mul d nb a b => Sys2Proof.Machine.execMul d nb a b s
  | .mulh d nb a b m => Sys2Proof.Machine.execMulh d nb a b m s
  | .div d nb a b m => Sys2Proof.Machine.execDiv d nb a b m s
  | .rem d nb a b m => Sys2Proof.Machine.execRem d nb a b m s
  | .and d nb a b => Sys2Proof.Machine.execAnd d nb a b s
  | .or d nb a b => Sys2Proof.Machine.execOr d nb a b s
  | .xor d nb a b => Sys2Proof.Machine.execXor d nb a b s
  | .andn d nb a b => Sys2Proof.Machine.execAndn d nb a b s
  | .shl d nb a b => Sys2Proof.Machine.execShl d nb a b s
  | .shr d nb a b => Sys2Proof.Machine.execShr d nb a b s
  | .sar d nb a b => Sys2Proof.Machine.execSar d nb a b s
  | .clz d nb a => Sys2Proof.Machine.execClz d nb a s
  | .popc d nb a => Sys2Proof.Machine.execPopc d nb a s
  | .bfx d nb a b m => Sys2Proof.Machine.execBfx d nb a b m s
  | .bfi d nb a b => Sys2Proof.Machine.execBfi d nb a b s
  | .min d nb a b m => Sys2Proof.Machine.execMin d nb a b m s
  | .max d nb a b m => Sys2Proof.Machine.execMax d nb a b m s
  | .cmp d nb a b m => Sys2Proof.Machine.execCmp d nb a b m s
  | .sel d nb a b => Sys2Proof.Machine.execSel d nb a b s
  | .fadd d nb a b m => Sys2Proof.Machine.execFadd d nb a b m s
  | .fmul d nb a b m => Sys2Proof.Machine.execFmul d nb a b m s
  | .ffma d nb a b m => Sys2Proof.Machine.execFfma d nb a b m s
  | .fcmp d nb a b => Sys2Proof.Machine.execFcmp d nb a b s
  | .fcvt d nb a s0 m => Sys2Proof.Machine.execFcvt d nb a s0 m s
  | .fexp2 d nb a => Sys2Proof.Machine.execFexp2 d nb a s
  | .flog2 d nb a => Sys2Proof.Machine.execFlog2 d nb a s
  | .frcp d nb a => Sys2Proof.Machine.execFrcp d nb a s
  | .frsq d nb a => Sys2Proof.Machine.execFrsq d nb a s
  | .fsqrt d nb a => Sys2Proof.Machine.execFsqrt d nb a s
  | .fsin d nb a => Sys2Proof.Machine.execFsin d nb a s
  | .fcos d nb a => Sys2Proof.Machine.execFcos d nb a s
  | .ftanh d nb a => Sys2Proof.Machine.execFtanh d nb a s
  | .fsigm d nb a => Sys2Proof.Machine.execFsigm d nb a s
  | .fdiv d nb a b => Sys2Proof.Machine.execFdiv d nb a b s
  | .vadd d nb a b w => Sys2Proof.Machine.execVadd d nb a b w s
  | .vsub d nb a b w => Sys2Proof.Machine.execVsub d nb a b w s
  | .vmul d nb a b w => Sys2Proof.Machine.execVmul d nb a b w s
  | .vfma d nb a b w => Sys2Proof.Machine.execVfma d nb a b w s
  | .vfnma d nb a b w => Sys2Proof.Machine.execVfnma d nb a b w s
  | .vmin d nb a b w => Sys2Proof.Machine.execVmin d nb a b w s
  | .vmax d nb a b w => Sys2Proof.Machine.execVmax d nb a b w s
  | .vabs d nb a w => Sys2Proof.Machine.execVabs d nb a w s
  | .vneg d nb a w => Sys2Proof.Machine.execVneg d nb a w s
  | .vand d nb a b w => Sys2Proof.Machine.execVand d nb a b w s
  | .vor d nb a b w => Sys2Proof.Machine.execVor d nb a b w s
  | .vxor d nb a b w => Sys2Proof.Machine.execVxor d nb a b w s
  | .vandn d nb a b w => Sys2Proof.Machine.execVandn d nb a b w s
  | .vshl d nb a b w => Sys2Proof.Machine.execVshl d nb a b w s
  | .vshr d nb a b w => Sys2Proof.Machine.execVshr d nb a b w s
  | .vsar d nb a b w => Sys2Proof.Machine.execVsar d nb a b w s
  | .vcmp c p nb a b w => Sys2Proof.Machine.execVcmp c p nb a b w s
  | .vsel d nb a b w => Sys2Proof.Machine.execVsel d nb a b w s
  | .vmov d nb a w => Sys2Proof.Machine.execVmov d nb a w s
  | .vbcast d nb a w => Sys2Proof.Machine.execVbcast d nb a w s
  | .vextr d nb a b w => Sys2Proof.Machine.execVextr d nb a b w s
  | .vins d nb a b w => Sys2Proof.Machine.execVins d nb a b w s
  | .vpermz d nb a b w => Sys2Proof.Machine.execVpermz d nb a b w s
  | .vrot d nb a b w => Sys2Proof.Machine.execVrot d nb a b w s
  | .viota d nb a w => Sys2Proof.Machine.execViota d nb a w s
  | .vredadd d nb a w => Sys2Proof.Machine.execVredadd d nb a w s
  | .vredmax d nb a w => Sys2Proof.Machine.execVredmax d nb a w s
  | .vredmin d nb a w => Sys2Proof.Machine.execVredmin d nb a w s
  | .vmaxi d nb a w => Sys2Proof.Machine.execVmaxi d nb a w s
  | .vmini d nb a w => Sys2Proof.Machine.execVmini d nb a w s
  | .vcvt d nb a w => Sys2Proof.Machine.execVcvt d nb a w s
  | .vqnt d nb a b w => Sys2Proof.Machine.execVqnt d nb a b w s
  | .vperm d nb a b w => Sys2Proof.Machine.execVperm d nb a b w s
  | .vdqnt d nb a b w => Sys2Proof.Machine.execVdqnt d nb a b w s
  | .vpack d nb a b w => Sys2Proof.Machine.execVpack d nb a b w s
  | .vunpk d nb a b w => Sys2Proof.Machine.execVunpk d nb a b w s
  | .vscale d nb a b w => Sys2Proof.Machine.execVscale d nb a b w s
  | .vclamp d nb a b w => Sys2Proof.Machine.execVclamp d nb a b w s
  | .pand d nb a b => Sys2Proof.Machine.execPand d nb a b s
  | .por d nb a b => Sys2Proof.Machine.execPor d nb a b s
  | .pxor d nb a b => Sys2Proof.Machine.execPxor d nb a b s
  | .pnot d nb a => Sys2Proof.Machine.execPnot d nb a s
  | .pcnt d nb a => Sys2Proof.Machine.execPcnt d nb a s
  | .pset d nb c => Sys2Proof.Machine.execPset d nb c s
  | .ldw bw xc wt => Sys2Proof.Machine.execLdw bw xc wt s
  | .ldws bw br xc wt => Sys2Proof.Machine.execLdws bw br xc wt s
  | .swpw => Sys2Proof.Machine.execSwpw s
  | .mma t b xc xr ty => Sys2Proof.Machine.execMma t b xc xr ty s
  | .mmaz t b xc xr ty => Sys2Proof.Machine.execMmaz t b xc xr ty s
  | .trd t xs v => Sys2Proof.Machine.execTrd t xs v s
  | .twr t xs v => Sys2Proof.Machine.execTwr t xs v s
  | .tst t b xc xr ty => Sys2Proof.Machine.execTst t b xc xr ty s
  | .tzero t => Sys2Proof.Machine.execTzero t s
  | .outer t ba bb rt ty => Sys2Proof.Machine.execOuter t ba bb rt ty s
  | .ld d nb k c => Sys2Proof.Machine.execLd d nb k c s
  | .st v k c => Sys2Proof.Machine.execSt v k c s
  | .vld d nb k c w => Sys2Proof.Machine.execVld d nb k c w s
  | .vst v k c w => Sys2Proof.Machine.execVst v k c w s
  | .vldx d nb k ix w => Sys2Proof.Machine.execVldx d nb k ix w s
  | .vstx v k ix w => Sys2Proof.Machine.execVstx v k ix w s
  | .ldt d nb k c => Sys2Proof.Machine.execLdt d nb k c s
  | .vldt d nb k c w => Sys2Proof.Machine.execVldt d nb k c w s
  | .vldz d nb k c w => Sys2Proof.Machine.execVldz d nb k c w s
  | .boxsub mm d p s0 c => Sys2Proof.Machine.execBoxsub mm d p s0 c s
  | .boxinf d nb k sel => Sys2Proof.Machine.execBoxinf d nb k sel s
  | .boxmov d s0 => Sys2Proof.Machine.execBoxmov d s0 s
  | .fence scope m => Sys2Proof.Machine.execFence scope m s
  | .pub a => Sys2Proof.Machine.execPub a s
  | .cpy bd bs xt tr ch cmp asap rm => Sys2Proof.Machine.execCpy bd bs xt tr ch cmp asap rm s
  | .gath bd bs bi => Sys2Proof.Machine.execGath bd bs bi s
  | .scac bh bi bv r op bin => Sys2Proof.Machine.execScac bh bi bv r op bin s
  | .fold bd bs dim rt v bin => Sys2Proof.Machine.execFold bd bs dim rt v bin s
  | .scan bd bs dim rt v ex bc carry => Sys2Proof.Machine.execScan bd bs dim rt v ex bc carry s
  | .zip bd ba bb rt v => Sys2Proof.Machine.execZip bd ba bb rt v s
  | .vrun bv xp prog => Sys2Proof.Machine.execVrun bv xp prog s
  | .vstop bv => Sys2Proof.Machine.execVstop bv s
  | .rbfill n => Sys2Proof.Machine.execRbfill n s
  | .dlvset bc xe xp xn => Sys2Proof.Machine.execDlvset bc xe xp xn s
  | .dlvwait bc xd => Sys2Proof.Machine.execDlvwait bc xd s
  | .send ms peer b xc => Sys2Proof.Machine.execSend ms peer b xc s
  | .recv ms peer b xc => Sys2Proof.Machine.execRecv ms peer b xc s
  | .recvop ms peer b xc op rt => Sys2Proof.Machine.execRecvop ms peer b xc op rt s
  | .coll bd bs bq sc bin rm => Sys2Proof.Machine.execColl bd bs bq sc bin rm s
  | .ttarm xb tt => Sys2Proof.Machine.execTtarm xb tt s
  | .lsend bd bs bc => Sys2Proof.Machine.execLsend bd bs bc s
  | .xstat d sel port => Sys2Proof.Machine.execXstat d sel port s
  | .vaultHalt g => Sys2Proof.Machine.execVaultHalt g s
  | .act g pc bg bk row => Sys2Proof.Machine.execAct g pc bg bk row s
  | .rd g pc bg bk col pl u => Sys2Proof.Machine.execRd g pc bg bk col pl u s
  | .rda g pc bg bk col pl u => Sys2Proof.Machine.execRda g pc bg bk col pl u s
  | .wr g pc bg bk col pl u => Sys2Proof.Machine.execWr g pc bg bk col pl u s
  | .wra g pc bg bk col pl u => Sys2Proof.Machine.execWra g pc bg bk col pl u s
  | .pre g pc bg bk => Sys2Proof.Machine.execPre g pc bg bk s
  | .prea g pc => Sys2Proof.Machine.execPrea g pc s
  | .refpb g pc bg bk => Sys2Proof.Machine.execRefpb g pc bg bk s
  | .refab g pc => Sys2Proof.Machine.execRefab g pc s
  | .wait g n => Sys2Proof.Machine.execWait g n s
  | .loop g dist cnt => Sys2Proof.Machine.execLoop g dist cnt s
  | .jump g tgt => Sys2Proof.Machine.execJump g tgt s
  | .start g dt => Sys2Proof.Machine.execStart g dt s
  | .vopen g n => Sys2Proof.Machine.execVopen g n s
  | .tagw g pl u => Sys2Proof.Machine.execTagw g pl u s
  | .resultWriteback n => Sys2Proof.Machine.execResultWriteback n s
  | .tileBusyClear n => Sys2Proof.Machine.execTileBusyClear n s
  | .weightFillComplete n => Sys2Proof.Machine.execWeightFillComplete n s
  | .fmtShadowEnd n => Sys2Proof.Machine.execFmtShadowEnd n s
  | .maskSelectorUpdate n => Sys2Proof.Machine.execMaskSelectorUpdate n s
  | .zloopLevelExit n => Sys2Proof.Machine.execZloopLevelExit n s
  | .waitcExpiry n => Sys2Proof.Machine.execWaitcExpiry n s
  | .waittExpiry n => Sys2Proof.Machine.execWaittExpiry n s
  | .overrunFault n => Sys2Proof.Machine.execOverrunFault n s
  | .trapEntry n => Sys2Proof.Machine.execTrapEntry n s
  | .farRequestArrival r => Sys2Proof.Machine.execFarRequestArrival r s
  | .foreignRequestService v => Sys2Proof.Machine.execForeignRequestService v s
  | .farLdReply r => Sys2Proof.Machine.execFarLdReply r s
  | .engineOpStart o => Sys2Proof.Machine.execEngineOpStart o s
  | .cpyDeparture o => Sys2Proof.Machine.execCpyDeparture o s
  | .cpyTransferEnd o => Sys2Proof.Machine.execCpyTransferEnd o s
  | .cpyCompletion o => Sys2Proof.Machine.execCpyCompletion o s
  | .gathCompletion o => Sys2Proof.Machine.execGathCompletion o s
  | .scacCompletion o => Sys2Proof.Machine.execScacCompletion o s
  | .routineOpCompletion o => Sys2Proof.Machine.execRoutineOpCompletion o s
  | .rbfillWordWrite n => Sys2Proof.Machine.execRbfillWordWrite n s
  | .vrunArrival o => Sys2Proof.Machine.execVrunArrival o s
  | .vaultProgramStart v => Sys2Proof.Machine.execVaultProgramStart v s
  | .vstopArrival v n => Sys2Proof.Machine.execVstopArrival v n s
  | .vaultProgramEnd v => Sys2Proof.Machine.execVaultProgramEnd v s
  | .wrUnitRead v => Sys2Proof.Machine.execWrUnitRead v s
  | .platformDelivery o => Sys2Proof.Machine.execPlatformDelivery o s
  | .refreshAccrual v pc => Sys2Proof.Machine.execRefreshAccrual v pc s
  | .forcedRefresh v pc => Sys2Proof.Machine.execForcedRefresh v pc s
  | .insertedRefresh v pc => Sys2Proof.Machine.execInsertedRefresh v pc s
  | .scrubRead v pc bank row col => Sys2Proof.Machine.execScrubRead v pc bank row col s
  | .barrierResume n level => Sys2Proof.Machine.execBarrierResume n level s
  | .exchangeArrival k => Sys2Proof.Machine.execExchangeArrival k s
  | .ttOutEntry n e => Sys2Proof.Machine.execTtOutEntry n e s
  | .ttFlitArrival k => Sys2Proof.Machine.execTtFlitArrival k s
  | .ttEntryLate n e => Sys2Proof.Machine.execTtEntryLate n e s
  | .ttEntryMissing n e => Sys2Proof.Machine.execTtEntryMissing n e s
  | .ttEnd n => Sys2Proof.Machine.execTtEnd n s
  | .lsendFlitDelivery k => Sys2Proof.Machine.execLsendFlitDelivery k s
  | .lsendRetire o => Sys2Proof.Machine.execLsendRetire o s
  | .dlvwaitRelease n => Sys2Proof.Machine.execDlvwaitRelease n s
  | .dlvwaitDeadline n => Sys2Proof.Machine.execDlvwaitDeadline n s
  | .collDelivery o => Sys2Proof.Machine.execCollDelivery o s
  | .linkFlitResend port k => Sys2Proof.Machine.execLinkFlitResend port k s
  | .yardDispatch y => Sys2Proof.Machine.execYardDispatch y s
  | .taskStart t => Sys2Proof.Machine.execTaskStart t s
  | .reservation y t => Sys2Proof.Machine.execReservation y t s
  | .preemptionRequest y t => Sys2Proof.Machine.execPreemptionRequest y t s
  | .contextSave t => Sys2Proof.Machine.execContextSave t s
  | .contextRestore t => Sys2Proof.Machine.execContextRestore t s
  | .finwaitSuspend t => Sys2Proof.Machine.execFinwaitSuspend t s
  | .tretComplete t => Sys2Proof.Machine.execTretComplete t s
  | .outwardMerge t => Sys2Proof.Machine.execOutwardMerge t s
  | .scopeComplete f => Sys2Proof.Machine.execScopeComplete f s
  | .taskFailure t cause => Sys2Proof.Machine.execTaskFailure t cause s
  | .reExecution t => Sys2Proof.Machine.execReExecution t s
  | .pubVersionWrite o => Sys2Proof.Machine.execPubVersionWrite o s
  | .hostWindowAccess ctx win write off => Sys2Proof.Machine.execHostWindowAccess ctx win write off s
  | .correctedError place addr bit => Sys2Proof.Machine.execCorrectedError place addr bit s
  | .uncorrectableSramError n addr => Sys2Proof.Machine.execUncorrectableSramError n addr s
  | .uncorrectableDramError v addr => Sys2Proof.Machine.execUncorrectableDramError v addr s
  | .xinvRemoval slots => Sys2Proof.Machine.execXinvRemoval slots s
  | .xinvDone => Sys2Proof.Machine.execXinvDone s
  | .tagvalWrite n v => Sys2Proof.Machine.execTagvalWrite n v s
  | .fenceBitWrite r v => Sys2Proof.Machine.execFenceBitWrite r v s
  | .injectorArm j v => Sys2Proof.Machine.execInjectorArm j v s
  | .crcstWrite n v => Sys2Proof.Machine.execCrcstWrite n v s
  | .ctimeWrite n v => Sys2Proof.Machine.execCtimeWrite n v s
  | .ctrimWrite v => Sys2Proof.Machine.execCtrimWrite v s
  | .platformRegisterWrite n j v => Sys2Proof.Machine.execPlatformRegisterWrite n j v s
  | .yctlWrite j v => Sys2Proof.Machine.execYctlWrite j v s
  | .systemRegisterWrite n r v => Sys2Proof.Machine.execSystemRegisterWrite n r v s
  | .illegalCommand v => Sys2Proof.Machine.execIllegalCommand v s
  | .linkEvent port => Sys2Proof.Machine.execLinkEvent port s
  | .farEndAcknowledgement port k => Sys2Proof.Machine.execFarEndAcknowledgement port k s
  | .lsendReadCompletion o => Sys2Proof.Machine.execLsendReadCompletion o s
  | .thermalHoldRelease temp => Sys2Proof.Machine.execThermalHoldRelease temp s
  | .droopStretch level => Sys2Proof.Machine.execDroopStretch level s
  | .frameRetry port k => Sys2Proof.Machine.execFrameRetry port k s
  | .ptpMessage port t1 t2 t3 t4 => Sys2Proof.Machine.execPtpMessage port t1 t2 t3 t4 s
  | .lockLoss => Sys2Proof.Machine.execLockLoss s
  | .mailboxEntry k => Sys2Proof.Machine.execMailboxEntry k s
  | .sensorRead sensor => Sys2Proof.Machine.execSensorRead sensor s
  | .stretchEnd => Sys2Proof.Machine.execStretchEnd s
  | .powerCapExceeded watts => Sys2Proof.Machine.execPowerCapExceeded watts s
  | .powerCapClear watts => Sys2Proof.Machine.execPowerCapClear watts s
  | .powerCapSet watts => Sys2Proof.Machine.execPowerCapSet watts s
  | .thermalWarning temp => Sys2Proof.Machine.execThermalWarning temp s
  | .thermalHold temp => Sys2Proof.Machine.execThermalHold temp s
  | .thermalTrip temp => Sys2Proof.Machine.execThermalTrip temp s
  | .sensorUpdate sensor value => Sys2Proof.Machine.execSensorUpdate sensor value s
  | .firmwareUpdate digest sig => Sys2Proof.Machine.execFirmwareUpdate digest sig s
  | .attestationReport slot session => Sys2Proof.Machine.execAttestationReport slot session s
  | .keyInstall slot session => Sys2Proof.Machine.execKeyInstall slot session s
  | .linkAttestation port peer peerPort ok => Sys2Proof.Machine.execLinkAttestation port peer peerPort ok s
  | .linkRekey port => Sys2Proof.Machine.execLinkRekey port s
  | .imageAuthentication slot image => Sys2Proof.Machine.execImageAuthentication slot image s
  | .bringUp => Sys2Proof.Machine.execBringUp s

end Sys2Proof.Machine
end

