-- ==== Sys2Proof/Machine/Issue.lean ====
section
/-! DEFINITION. The issue of a bundle: its slots decoded, legality with the reasons of R69, the matrix stall, precise,
privilege and deferred faults in their order (R54, R361), and its slots run. -/

namespace Sys2Proof.Machine

/-! ### Slots (R30, R38 to R40) -/

/-- Does slot 0 hold a header? -/
def isHdr (b : BitVec 256) : Bool := bitsOf (slotWord b 0) 26 6 == 63

/-- A header's selectors with their extension bits. -/
def hdrSels (b : BitVec 256) : List (Nat × Nat) :=
  let w := slotWord b 0
  [(bitsOf w 21 3, bitsOf w 16 5), (bitsOf w 13 3, bitsOf w 8 5), (bitsOf w 5 3, bitsOf w 0 5)]

/-- The slots a header names. -/
def hdrNames (b : BitVec 256) : List Nat := (((hdrSels b).map (·.1)).filter (· != 0))

/-- The extension slot i receives. -/
def extAt (b : BitVec 256) (i : Nat) : Option Nat :=
  if isHdr b && takesExt (slotWord b i) then ((hdrSels b).find? (fun e => e.1 == i)).map (·.2) else none

/-- Does the header break R39? -/
def hdrBad (b : BitVec 256) : Bool :=
  let l := hdrNames b
  isHdr b && (bitsOf (slotWord b 0) 24 2 != 0 || (hdrSels b).any (fun e => e.1 == 0 && e.2 != 0) ||
    l.any (fun k => !takesExt (slotWord b k)) || l.any (fun k => 1 < (l.filter (· == k)).length))

/-- The operation in slot i, none where it is empty. -/
def slotAt (b : BitVec 256) (i : Nat) : Option (Except Bad Instr) :=
  if i == 0 then some (decodeControl (slotWord b 0))
  else if slotWord b i == 0 then none
  else some (decodeSlot (slotWord b i) (extAt b i))

/-- The operations of a bundle in the order they act: slots 1 to 7, then the control slot (log 7). A slot whose word fails to
decode is none of them: it counts neither for the bundle's lane groups nor for its ports (DESIGN CHOICE, log 19). -/
def bundleOps (b : BitVec 256) : List (Nat × Instr) :=
  [1, 2, 3, 4, 5, 6, 7, 0].filterMap (fun i => match slotAt b i with
    | some (.ok x) => some (i, x)
    | _ => none)

/-- The state in which slot i of core n issues. -/
def atSlot (s : State) (n i w : Nat) : State := { s with iss := ⟨n, i, s.iss.vault, w⟩ }

/-! ### Register ports (R43, R50, R52) -/

/-- A register named: its file (0 x, 1 v, 2 p, 3 b) and its number. -/
abbrev Reg := Nat × Nat

/-- A register written and the latency of the write. -/
abbrev RegW := Nat × Nat × Nat

/-- What one operation reads and writes. -/
structure Ports where
  reads : List Reg
  writes : List RegW

def rX (n : Nat) : List Reg := [(0, n)]
def rV (n : Nat) : List Reg := [(1, n)]
def rB (n : Nat) : List Reg := [(3, n)]
/-- A source field of a file. -/
def rS (file : Nat) : Src → List Reg
  | .reg n => [(file, n)]
  | .lat _ => []
def wX (d : Nat) (nb : Bool) (lat : Nat) : List RegW := if nb || d == 0 then [] else [(0, d, lat)]
def wV (d : Nat) (nb : Bool) (lat : Nat) : List RegW := if nb then [] else [(1, d, lat)]
def wP (d : Nat) (nb : Bool) (lat : Nat) : List RegW := if nb || d == 0 then [] else [(2, d, lat)]
def wB (d lat : Nat) : List RegW := [(3, d, lat)]

/-- The coordinate registers from c on of the box in register k; one where it holds no box. -/
def rC (s : State) (k c : Nat) : List Reg :=
  (List.range (match s.b s.me k with
    | some b => b.rank
    | none => 1)).map (fun j => (0, c + j))

/-- Two scalar sources. -/
def pS (d : Nat) (nb : Bool) (a b : Src) (lat : Nat) : Ports := ⟨rS 0 a ++ rS 0 b, wX d nb lat⟩
/-- Two scalar sources and the destination read (R43). -/
def pS3 (d : Nat) (nb : Bool) (a b : Src) (lat : Nat) : Ports := ⟨rX d ++ rS 0 a ++ rS 0 b, wX d nb lat⟩
def pS1 (d : Nat) (nb : Bool) (a : Src) (lat : Nat) : Ports := ⟨rS 0 a, wX d nb lat⟩
/-- Two vector sources. -/
def pV (d : Nat) (nb : Bool) (a b : Src) (lat : Nat) : Ports := ⟨rS 1 a ++ rS 1 b, wV d nb lat⟩
def pV3 (d : Nat) (nb : Bool) (a b : Src) (lat : Nat) : Ports := ⟨rV d ++ rS 1 a ++ rS 1 b, wV d nb lat⟩
def pV1 (d : Nat) (nb : Bool) (a : Src) (lat : Nat) : Ports := ⟨rS 1 a, wV d nb lat⟩
/-- A vector and a scalar source. -/
def pVX (d : Nat) (nb : Bool) (a b : Src) (lat : Nat) : Ports := ⟨rS 1 a ++ rS 0 b, wV d nb lat⟩
/-- Two predicate sources. -/
def pP (d : Nat) (nb : Bool) (a b : Src) : Ports := ⟨rS 2 a ++ rS 2 b, wP d nb 1⟩
/-- Only reads. -/
def pR (l : List Reg) : Ports := ⟨l, []⟩

/-- Does box register k hold a box of tier 1? -/
def holdsT1 (s : State) (k : Nat) : Bool := (s.b s.me k).any (fun b => b.tier == 1)

/-- The register ports of an operation. Vault commands and events stand in no bundle. -/
def portsOf (i : Instr) (s : State) : Ports :=
  match i with
  | .brc x _ _ => pR (rX x)
  | .brl d _ => ⟨[], wX d false 1⟩
  | .brx x => pR (rX x)
  | .zloop x _ => pR (rX x)
  | .waitc x _ => pR (rX x)
  | .waitt x => pR (rX x)
  | .setfmt x _ => pR (rX x)
  | .tcall _ xf _ _ _ => pR (rX xf)
  | .finopen d => ⟨[], wX d false 2⟩
  | .finwait f => pR (rX f)
  | .mfs d _ => ⟨[], wX d false 2⟩
  | .mts x _ => pR (rX x)
  | .mov d nb a => pS1 d nb a 1
  | .movi d _ => ⟨[], wX d false 1⟩
  | .movhi d _ => ⟨rX d, wX d false 1⟩
  | .add d nb a b => pS d nb a b 1
  | .addi d a _ => pS1 d false a 1
  | .sub d nb a b => pS d nb a b 1
  | .mul d nb a b => pS d nb a b 3
  | .mulh d nb a b _ => pS d nb a b 3
  | .div d nb a b _ => pS d nb a b 18
  | .rem d nb a b _ => pS d nb a b 18
  | .and d nb a b => pS d nb a b 1
  | .or d nb a b => pS d nb a b 1
  | .xor d nb a b => pS d nb a b 1
  | .andn d nb a b => pS d nb a b 1
  | .shl d nb a b => pS d nb a b 1
  | .shr d nb a b => pS d nb a b 1
  | .sar d nb a b => pS d nb a b 1
  | .clz d nb a => pS1 d nb a 1
  | .popc d nb a => pS1 d nb a 1
  | .bfx d nb a b _ => pS d nb a b 1
  | .bfi d nb a b => pS3 d nb a b 1
  | .min d nb a b _ => pS d nb a b 1
  | .max d nb a b _ => pS d nb a b 1
  | .cmp d nb a b _ => pS d nb a b 1
  | .sel d nb a b => pS3 d nb a b 1
  | .fadd d nb a b _ => pS d nb a b 4
  | .fmul d nb a b _ => pS d nb a b 4
  | .ffma d nb a b _ => pS3 d nb a b 4
  | .fcmp d nb a b => pS d nb a b 2
  | .fcvt d nb a _ _ => pS1 d nb a 3
  | .fexp2 d nb a => pS1 d nb a 6
  | .flog2 d nb a => pS1 d nb a 6
  | .frcp d nb a => pS1 d nb a 6
  | .frsq d nb a => pS1 d nb a 6
  | .fsqrt d nb a => pS1 d nb a 10
  | .fsin d nb a => pS1 d nb a 8
  | .fcos d nb a => pS1 d nb a 8
  | .ftanh d nb a => pS1 d nb a 8
  | .fsigm d nb a => pS1 d nb a 8
  | .fdiv d nb a b => pS d nb a b 10
  | .vadd d nb a b _ => pV d nb a b s.latIF
  | .vsub d nb a b _ => pV d nb a b s.latIF
  | .vmul d nb a b _ => pV d nb a b 4
  | .vfma d nb a b _ => pV3 d nb a b 4
  | .vfnma d nb a b _ => pV3 d nb a b 4
  | .vmin d nb a b _ => pV d nb a b s.latIF
  | .vmax d nb a b _ => pV d nb a b s.latIF
  | .vabs d nb a _ => pV1 d nb a s.latIF
  | .vneg d nb a _ => pV1 d nb a s.latIF
  | .vand d nb a b _ => pV d nb a b 1
  | .vor d nb a b _ => pV d nb a b 1
  | .vxor d nb a b _ => pV d nb a b 1
  | .vandn d nb a b _ => pV d nb a b 1
  | .vshl d nb a b _ => pV d nb a b 1
  | .vshr d nb a b _ => pV d nb a b 1
  | .vsar d nb a b _ => pV d nb a b 1
  | .vcmp _ p nb a b _ => ⟨rS 1 a ++ rS 1 b, wP p nb s.latIF⟩
  | .vsel d nb a b _ => pV d nb a b 1
  | .vmov d nb a _ => pV1 d nb a 1
  | .vbcast d nb a _ => ⟨rS 0 a, wV d nb 2⟩
  | .vextr d nb a b _ => ⟨rS 1 a ++ rS 0 b, wX d nb 2⟩
  | .vins d nb a b _ => ⟨rS 0 a ++ rS 0 b, wV d nb 2⟩
  | .vpermz d nb a b _ => pV d nb a b 2
  | .vrot d nb a b _ => pVX d nb a b 2
  | .viota d nb a _ => ⟨rS 0 a, wV d nb 2⟩
  | .vredadd d nb a _ => pV1 d nb a 6
  | .vredmax d nb a _ => pV1 d nb a 6
  | .vredmin d nb a _ => pV1 d nb a 6
  | .vmaxi d nb a _ => pV1 d nb a 6
  | .vmini d nb a _ => pV1 d nb a 6
  | .vcvt d nb a _ => pV1 d nb a 4
  | .vqnt d nb a b _ => pVX d nb a b 4
  | .vperm d nb a b _ => pV d nb a b 2
  | .vdqnt d nb a b _ => pVX d nb a b 4
  | .vpack d nb a b _ => pV d nb a b 4
  | .vunpk d nb a b _ => pVX d nb a b 4
  | .vscale d nb a b _ => pV d nb a b 4
  | .vclamp d nb a b _ => pV3 d nb a b 4
  | .pand d nb a b => pP d nb a b
  | .por d nb a b => pP d nb a b
  | .pxor d nb a b => pP d nb a b
  | .pnot d nb a => ⟨rS 2 a, wP d nb 1⟩
  | .pcnt d nb a => ⟨rS 2 a, wX d nb 1⟩
  | .pset d nb _ => ⟨[], wP d nb 1⟩
  | .ldw bw xc _ => pR (rB bw ++ rC s bw xc)
  | .ldws bw br xc _ => pR (rB bw ++ rB br ++ rC s bw xc)
  | .mma _ b xc xr _ => pR (rB b ++ rC s b xc ++ rX xr)
  | .mmaz _ b xc xr _ => pR (rB b ++ rC s b xc ++ rX xr)
  | .trd _ xs v => ⟨rX xs, wV v false 3⟩
  | .twr _ xs v => pR (rX xs ++ rV v)
  | .tst _ b xc xr _ => pR (rB b ++ rC s b xc ++ rX xr)
  | .outer _ ba bb xr _ => pR (rB ba ++ rB bb ++ rX xr)
  | .ld d nb k c => ⟨rB k ++ rC s k c, if holdsT1 s k then wX d nb 4 else []⟩
  | .st v k c => pR (rX v ++ rB k ++ rC s k c)
  | .vld d nb k c _ => ⟨rB k ++ rC s k c, wV d nb 4⟩
  | .vst v k c _ => pR (rV v ++ rB k ++ rC s k c)
  | .vldx d nb k i _ => ⟨rB k ++ rS 1 i, wV d nb 6⟩
  | .vstx v k i _ => pR (rV v ++ rB k ++ rS 1 i)
  | .ldt d nb k c => ⟨rB k ++ rC s k c, if holdsT1 s k then wX d nb 4 else []⟩
  | .vldt d nb k c _ => ⟨rB k ++ rC s k c, wV d nb 4⟩
  | .vldz d nb k c _ => ⟨rB k ++ rC s k c, wV d nb 5⟩
  | .boxsub _ d _ k _ => ⟨rB k, wB d 2⟩
  | .boxinf d nb k _ => ⟨rB k, wX d nb 2⟩
  | .boxmov d k => ⟨if k == 16 then [] else rB k, wB d 2⟩
  | .pub a => pR (rS 0 a)
  | .cpy bd bs xt tr _ cmp _ _ => pR (rB bd ++ rB bs ++ rX xt ++ (if (cmp == 1 || tr == 8) && xt < 63 then rX (xt + 1) else []))
  | .gath bd bs bi => pR (rB bd ++ rB bs ++ rB bi)
  | .scac bh bi bv r op _ => pR (rB bh ++ rB bi ++ rB bv ++ (if op == 3 || op == 4 then rB (r / 4) else []))
  | .fold bd bs _ _ _ _ => pR (rB bd ++ rB bs)
  | .scan bd bs _ _ _ _ bc carry => pR (rB bd ++ rB bs ++ (if carry == 1 then rB bc else []))
  | .zip bd ba bb rt _ =>
    pR (rB bd ++ rB ba ++ (if rtArity (routineOf s (s.core s.me).ctx rt) == 2 then rB bb else []))
  | .vrun bv xp _ => pR (rB bv ++ (if xp == 0 then [] else rX xp ++ rX (xp + 1)))
  | .vstop bv => pR (rB bv)
  | .dlvset bc xe xp xn => pR (rB bc ++ rX xe ++ rX xp ++ rX xn)
  | .dlvwait bc xd => pR (rB bc ++ rX xd)
  | .send ms peer b xc => pR ((if ms == 1 then rX peer else []) ++ rB b ++ rC s b xc)
  | .recv ms peer b xc => pR ((if ms == 1 then rX peer else []) ++ rB b ++ rC s b xc)
  | .recvop ms peer b xc _ _ => pR ((if ms == 1 then rX peer else []) ++ rB b ++ rC s b xc)
  | .coll bd bs bq _ _ _ => pR (rB bd ++ rB bs ++ rB bq)
  | .ttarm xb _ => pR (rX xb)
  | .lsend bd bs bc => pR (rB bd ++ rB bs ++ rB bc)
  | .xstat d _ _ => ⟨[], wX d false 2⟩
  | _ => pR []

/-- The lane groups a vector operation takes (R33, R61), and whether a mask governs it (R145). -/
def vectorUse : Instr → Option (Nat × Bool)
  | .vadd _ _ _ _ w => some (w, true)
  | .vsub _ _ _ _ w => some (w, true)
  | .vmul _ _ _ _ w => some (w, true)
  | .vfma _ _ _ _ w => some (w, true)
  | .vfnma _ _ _ _ w => some (w, true)
  | .vmin _ _ _ _ w => some (w, true)
  | .vmax _ _ _ _ w => some (w, true)
  | .vabs _ _ _ w => some (w, true)
  | .vneg _ _ _ w => some (w, true)
  | .vand _ _ _ _ w => some (w, true)
  | .vor _ _ _ _ w => some (w, true)
  | .vxor _ _ _ _ w => some (w, true)
  | .vandn _ _ _ _ w => some (w, true)
  | .vshl _ _ _ _ w => some (w, true)
  | .vshr _ _ _ _ w => some (w, true)
  | .vsar _ _ _ _ w => some (w, true)
  | .vcmp _ _ _ _ _ w => some (w, true)
  | .vsel _ _ _ _ w => some (w, true)
  | .vmov _ _ _ w => some (w, true)
  | .vbcast _ _ _ w => some (w, true)
  | .vextr _ _ _ _ w => some (w, false)
  | .vins _ _ _ _ w => some (w, false)
  | .vpermz _ _ _ _ w => some (w, true)
  | .vrot _ _ _ _ w => some (w, true)
  | .viota _ _ _ w => some (w, true)
  | .vredadd _ _ _ w => some (w, true)
  | .vredmax _ _ _ w => some (w, true)
  | .vredmin _ _ _ w => some (w, true)
  | .vmaxi _ _ _ w => some (w, true)
  | .vmini _ _ _ w => some (w, true)
  | .vcvt _ _ _ w => some (w, true)
  | .vqnt _ _ _ _ w => some (w, true)
  | .vperm _ _ _ _ w => some (w, true)
  | .vdqnt _ _ _ _ w => some (w, true)
  | .vpack _ _ _ _ w => some (w, false)
  | .vunpk _ _ _ _ w => some (w, false)
  | .vscale _ _ _ _ w => some (w, true)
  | .vclamp _ _ _ _ w => some (w, true)
  | .pand _ _ _ _ => some (0, false)
  | .por _ _ _ _ => some (0, false)
  | .pxor _ _ _ _ => some (0, false)
  | .pnot _ _ _ => some (0, false)
  | .pcnt _ _ _ => some (0, false)
  | .pset _ _ _ => some (0, false)
  | _ => none

/-- A port of a file: its bank (R50). -/
def bankOf (r : Reg) : Nat :=
  match r.1 with
  | 0 => r.2 % 4
  | 1 => r.2 % 8
  | _ => 0

/-- Read and write ports of a bank (R50). The predicate bank takes the two write-backs of its table in one cycle, but never
two to one register (DESIGN CHOICE, log 78: the third rule of illegality, read alone, allows it one). -/
def readPorts (file : Nat) : Nat := if file == 2 then 6 else if file == 3 then 4 else 2
def writePorts (file : Nat) : Nat := if file == 2 then 2 else 1

/-- What an operation reads through ports: x0 and p0 use none, its mask's predicate one. -/
def slotReads (s : State) (n : Nat) (o : Nat × Instr) (w : Nat) : List Reg :=
  let k := atSlot s n o.1 w
  (portsOf o.2 k).reads.filter (fun r => !(r.2 == 0 && (r.1 == 0 || r.1 == 2)) && r.2 < 64) ++
  (match vectorUse o.2 with
    | some (_, true) => if k.selector.1 == 0 then [] else [(2, k.selector.1)]
    | _ => [])

def slotWrites (s : State) (n : Nat) (o : Nat × Instr) (w : Nat) : List RegW := (portsOf o.2 (atSlot s n o.1 w)).writes

/-- A register written by an earlier bundle: file, bank, cycle, and its physical number (R50). -/
def pendPorts (p : Pend) : List (Nat × Nat × Nat × Nat) :=
  match p.again with
  | .vldz _ _ d _ => if d == 64 then [] else [(1, p.vbank, p.vis, d)]
  | .far => []
  | _ => p.wr.filterMap (fun w => match w with
    | .x n _ => if n == 0 then none else some (0, n % 4, p.vis, n)
    | .v n _ _ => some (1, p.vbank, p.vis, n)
    | .p n _ _ => if n == 0 then none else some (2, 0, p.vis, n)
    | .b n _ => some (3, 0, p.vis, n)
    | _ => none)

/-! ### Legality (R31 to R50, R54, R69) -/

/-- Classes allowed on core n in a slot position (R26, R31): reason 4. -/
def placeBad (n i cls : Nat) : Bool := (cls == 2 && !(3 ≤ i && i ≤ 5)) || ((cls == 2 || cls == 4) && 160 ≤ n)

/-- Most operations of a class in a bundle (R32). -/
def classMax (cls : Nat) : Nat := if cls == 2 then 3 else if cls == 1 || cls == 5 then 2 else 1

/-- The check each operation makes before it acts: its legality and its precise faults. -/
def checkOf (i : Instr) : State → Option Flt :=
  match i with
  | .br _ => andThen noDelay passesEnd
  | .brc _ c _ => andThen (andThen (fun s => reasonIf s [(6 ≤ c, 3)]) noDelay) passesEnd
  | .brl _ _ => andThen noDelay passesEnd
  | .brx _ => andThen noDelay passesEnd
  | .zloop _ e => andThen noDelay (zloopFault e)
  | .close => andThen noDelay closeFault
  | .syncd l => fun s => if domLvl s s.me < scopeLevel l then some (faultNow s 0x1A 0 []) else none
  | .setfmt x t => setfmtLegal x t
  | .spawn q _ => spawnFault q
  | .tcall rc xf tier nb nx => andThen (tcallLegal nb nx) (tcallFault rc xf tier nb)
  | .finopen _ => finopenFault
  | .finwait f => finwaitFault f
  | .trap n => trapNow n
  | .svc _ => svcLegal
  | .eret => supOnly
  | .mfs _ r => andThen (mfsLegal r) (mfsPriv r)
  | .mts x r => andThen (mtsLegal x r) (mtsPriv r)
  | .halt => supOnly
  | .vadd _ _ _ _ _ => typeCheck (fun s => tyArith s.ety)
  | .vsub _ _ _ _ _ => typeCheck (fun s => tyArith s.ety)
  | .vmul _ _ _ _ _ => typeCheck (fun s => tyArith s.ety)
  | .vfma _ _ _ _ _ => typeCheck (fun s => tyArith s.ety)
  | .vfnma _ _ _ _ _ => typeCheck (fun s => tyArith s.ety)
  | .vmin _ _ _ _ _ => typeCheck (fun s => tyArith s.ety)
  | .vmax _ _ _ _ _ => typeCheck (fun s => tyArith s.ety)
  | .vabs _ _ _ _ => typeCheck (fun s => tyArith s.ety)
  | .vneg _ _ _ _ => typeCheck (fun s => tyArith s.ety)
  | .vcmp _ _ _ _ _ _ => typeCheck (fun s => tyArith s.ety)
  | .vredadd _ _ _ _ => typeCheck (fun s => tyArith s.ety)
  | .vredmax _ _ _ _ => typeCheck (fun s => tyArith s.ety)
  | .vredmin _ _ _ _ => typeCheck (fun s => tyArith s.ety)
  | .vmaxi _ _ _ _ => typeCheck (fun s => tyArith s.ety)
  | .vmini _ _ _ _ => typeCheck (fun s => tyArith s.ety)
  | .vclamp _ _ _ _ _ => typeCheck (fun s => tyArith s.ety)
  | .vshl _ _ _ _ _ => typeCheck (fun s => tyInt s.ety)
  | .vshr _ _ _ _ _ => typeCheck (fun s => tyInt s.ety)
  | .vsar _ _ _ _ _ => typeCheck (fun s => tyInt s.ety)
  | .vand _ _ _ _ _ => typeCheck (fun s => tyPlain s.ety)
  | .vor _ _ _ _ _ => typeCheck (fun s => tyPlain s.ety)
  | .vxor _ _ _ _ _ => typeCheck (fun s => tyPlain s.ety)
  | .vandn _ _ _ _ _ => typeCheck (fun s => tyPlain s.ety)
  | .vsel _ _ _ _ _ => typeCheck (fun s => tyPlain s.ety)
  | .vmov _ _ _ _ => typeCheck (fun s => tyPlain s.ety)
  | .vbcast _ _ _ _ => typeCheck (fun s => tyPlain s.ety)
  | .vextr _ _ _ _ _ => typeCheck (fun s => tyPlain s.ety)
  | .vins _ _ _ _ _ => typeCheck (fun s => tyPlain s.ety)
  | .vpermz _ _ _ _ _ => typeCheck (fun s => tyPlain s.ety)
  | .vrot _ _ _ _ _ => typeCheck (fun s => tyPlain s.ety)
  | .viota _ _ _ _ => typeCheck (fun s => tyPlain s.ety)
  | .vperm _ _ _ _ _ => typeCheck (fun s => tyPlain s.ety)
  | .vscale _ _ _ _ _ => typeCheck (fun s => tyPlain s.ety)
  | .vcvt _ _ _ w => vcvtCheck w
  | .vqnt _ _ _ b w => vqntCheck b w
  | .vdqnt _ _ _ b w => quantCheck b w
  | .vpack _ _ _ _ _ => typeCheck (fun s => packOk s.ety s.cty)
  | .vunpk _ _ _ _ _ => typeCheck (fun s => packOk s.ety s.cty)
  | .ldw bw xc wt => andThen (ldwLegal bw none xc wt) (ldwFault bw none xc wt)
  | .ldws bw br xc wt => andThen (ldwLegal bw (some br) xc wt) (ldwFault bw (some br) xc wt)
  | .swpw => swpwFault
  | .mma t b xc xr ty => andThen (mmaLegal t b xc xr ty) (mmaFault b xc xr)
  | .mmaz t b xc xr ty => andThen (mmaLegal t b xc xr ty) (mmaFault b xc xr)
  | .trd t _ _ => tileLegal t
  | .twr t _ _ => tileLegal t
  | .tst t b xc xr ty => andThen (tstLegal t b xc xr ty) (tstFault b xc xr)
  | .tzero t => tileLegal t
  | .outer t ba bb xr ty => andThen (outerLegal t ba bb xr ty) (outerFault ba bb xr)
  | .ld _ _ k c => andThen (accLegal k c false) (hitsCheck k false (oneHit c))
  | .st _ k c => andThen (accLegal k c false) (hitsCheck k true (oneHit c))
  | .vld _ _ k c w => andThen (accLegal k c true) (hitsCheck k false (fun s b => laneHits s b c w))
  | .vst _ k c w => andThen (accLegal k c true) (hitsCheck k true (fun s b => laneHits s b c w))
  | .vldx _ _ k i w => andThen (idxLegal k w) (hitsCheck k false (fun s b => idxHits s b i w))
  | .vstx _ k i w => andThen (idxLegal k w) (hitsCheck k true (fun s b => idxHits s b i w))
  | .ldt _ _ k c => andThen (accLegal k c false) (andThen (hitsCheck k false (oneHit c)) (tagCheck k (oneHit c)))
  | .vldt _ _ k c w => andThen (accLegal k c true) (andThen (hitsCheck k false (fun s b => laneHits s b c w))
    (tagCheck k (fun s b => laneHits s b c w)))
  | .vldz _ _ k c _ => andThen (vldzLegal k c) (vldzFault k c)
  | .boxsub mm _ p k c => andThen (boxsubLegal mm p k c) (boxsubFault k c)
  | .boxinf _ _ _ sel => fun s => reasonIf s [(!boxinfSel sel, 2)]
  | .pub a => pubFault a
  | .cpy bd bs xt tr _ cmp asap _ => andThen (cpyLegal bd bs xt tr cmp) (cpyFault bd bs xt asap)
  | .gath bd bs bi => andThen (gathLegal bd bs bi)
    (andThen (rightsBar [(bs, true, false), (bi, true, false), (bd, false, true)]) (loanBar [bs, bi, bd]))
  | .scac bh bi bv r op bin => andThen (scacLegal bh bi bv r op bin)
    (andThen (rightsBar ([(bh, true, true), (bi, true, false), (bv, true, false)] ++
      (if op == 3 || op == 4 then [(r / 4, false, true)] else [])))
      (loanBar ([bh, bi, bv] ++ (if op == 3 || op == 4 then [r / 4] else []))))
  | .fold bd bs dim rt v bin => andThen (foldLegal bd bs dim rt v bin)
    (andThen (rightsBar [(bs, true, false), (bd, false, true)]) (loanBar [bs, bd]))
  | .scan bd bs dim rt v ex bc carry => andThen (scanLegal bd bs dim rt v ex bc carry)
    (andThen (rightsBar ([(bs, true, false), (bd, false, true)] ++ (if carry == 1 then [(bc, false, true)] else [])))
      (loanBar ([bs, bd] ++ (if carry == 1 then [bc] else []))))
  | .zip bd ba bb rt v => andThen (zipLegal bd ba bb rt v) (fun s =>
      let two := rtArity (routineOf s (s.core s.me).ctx rt) == 2
      andThen (rightsBar ([(ba, true, false), (bd, false, true)] ++ (if two then [(bb, true, false)] else [])))
        (loanBar ([ba, bd] ++ (if two then [bb] else []))) s)
  | .vrun bv xp prog => andThen (vrunLegal bv xp prog) (vrunFault bv)
  | .vstop bv => andThen (vstopLegal bv) (needBox bv (fun _ _ => none))
  | .dlvset bc xe _ xn => andThen (dlvsetLegal bc xe xn) (andThen (rightsBar [(bc, false, true)]) (loanBar [bc]))
  | .dlvwait bc _ => andThen (dlvwaitLegal bc) (andThen (rightsBar [(bc, true, false)]) (loanBar [bc]))
  | .send ms peer b xc => andThen (sendLegal ms peer b xc)
    (andThen (hitsCheck b false (fun s bx => xLanes s bx xc)) (peerFault ms peer))
  | .recv ms peer b xc => andThen (sendLegal ms peer b xc)
    (andThen (hitsCheck b true (fun s bx => xLanes s bx xc)) (andThen (peerFault ms peer) (recvMatch ms peer)))
  | .recvop ms peer b xc op rt => andThen (andThen (sendLegal ms peer b xc) (recvopRoutine b op rt))
    (andThen (rightsBar [(b, true, true)]) (andThen (hitsCheck b true (fun s bx => xLanes s bx xc))
      (andThen (peerFault ms peer) (recvMatch ms peer))))
  | .coll bd bs bq sc bin _ => andThen (collLegal bd bs bq sc bin) (collFault bd bs bq sc)
  | .ttarm xb tt => andThen (ttarmLegal tt) (ttarmFault xb tt)
  | .lsend bd bs bc => andThen (lsendLegal bd bs bc)
    (andThen (rightsBar [(bs, true, false), (bd, false, true), (bc, false, true)]) (loanBar [bs]))
  | .xstat _ sel port => fun s => reasonIf s [(sel != 3 && port != 0, 2), (3 < sel, 3)]
  | _ => noFault

/-- The check of one operation of a bundle. -/
def opCheck (s : State) (n : Nat) (b : BitVec 256) (o : Nat × Instr) : Option Flt :=
  checkOf o.2 (atSlot s n o.1 (slotWord b o.1))

/-- Does an M-class word name coordinate registers from x63 on, which is reason 0x2 whatever else is wrong with it (R69,
R169)? -/
def lastCoord (w : Nat) : Bool :=
  bitsOf w 29 3 == 4 && (match bitsOf w 23 6 with
    | 0 => bitsOf w 13 6 == 63
    | 1 => bitsOf w 9 6 == 63
    | 3 => bitsOf w 10 6 == 63
    | 4 => bitsOf w 10 6 == 63
    | 7 => bitsOf w 10 6 == 63
    | _ => false)

/-- Reasons by slot: what encodings and headers give. -/
def codeMarks (b : BitVec 256) : List (Nat × Nat) :=
  (List.range 8).flatMap (fun i => match slotAt b i with
    | some (.error e) => [(i, if lastCoord (slotWord b i) then min 2 e.code else e.code)]
    | _ => []) ++
  (if hdrBad b then (0, 9) :: (hdrNames b).map (fun k => (k, 9)) else [])

/-- Reasons by slot: positions, class counts and lane groups. -/
def classMarks (n : Nat) (b : BitVec 256) (l : List (Nat × Instr)) : List (Nat × Nat) :=
  let cls := (List.range 7).map (fun j => (j + 1, bitsOf (slotWord b (j + 1)) 29 3))
  let groups : List (Nat × Nat) := l.filterMap (fun o => (vectorUse o.2).map (fun v => (o.1, 2 ^ v.1)))
  (cls.filter (fun c => placeBad n c.1 c.2)).map (fun c => (c.1, 4)) ++
  (cls.filter (fun c => c.2 != 0 && classMax c.2 < (cls.filter (fun d => d.2 == c.2)).length)).map (fun c => (c.1, 5)) ++
  (if 8 < groups.foldl (fun (a : Nat) g => a + g.2) 0 then groups.map (fun g => (g.1, 6)) else [])

/-- Reasons by slot: read ports and write ports. Two vector results of different bundles under different names, whose banks
differ, pass even where a CLOSE between makes them one register (DESIGN CHOICE, log 95). -/
def portMarks (s : State) (n : Nat) (b : BitVec 256) (l : List (Nat × Instr)) : List (Nat × Nat) :=
  let rd := l.flatMap (fun o => (slotReads s n o (slotWord b o.1)).map (fun r => (o.1, r)))
  let regs := (rd.map (·.2)).eraseDups
  let full := regs.filter (fun r => readPorts r.1 < (regs.filter (fun q => q.1 == r.1 && bankOf q == bankOf r)).length)
  let wr := l.flatMap (fun o => (slotWrites s n o (slotWord b o.1)).map (fun w => (o.1, w)))
  let old := (s.core n).pend.flatMap pendPorts
  (rd.filter (fun r => full.any (fun q => q.1 == r.2.1 && bankOf q == bankOf r.2))).map (fun r => (r.1, 7)) ++
  (wr.filter (fun w =>
    wr.any (fun q => q.1 != w.1 && q.2.1 == w.2.1 && q.2.2.1 == w.2.2.1) ||
    writePorts w.2.1 <
      (wr.filter (fun q => q.2.1 == w.2.1 && bankOf (q.2.1, q.2.2.1) == bankOf (w.2.1, w.2.2.1) && q.2.2.2 == w.2.2.2)).length +
      (old.filter (fun q => q.1 == w.2.1 && q.2.1 == bankOf (w.2.1, w.2.2.1) && q.2.2.1 == s.cycle + w.2.2.2)).length ||
    -- no two write-backs to one predicate become visible in one cycle (R51)
    (w.2.1 == 2 && old.any (fun q => q.1 == 2 && q.2.2.2 == pphys (s.sr n srROTB) w.2.2.1 && q.2.2.1 == s.cycle + w.2.2.2)))).map
    (fun w => (w.1, 8))

/-- Reasons by slot: what only operand values decide (R67, R68, R72). -/
def valueMarks (s : State) (n : Nat) (b : BitVec 256) (l : List (Nat × Instr)) : List (Nat × Nat) :=
  l.filterMap (fun o => match opCheck s n b o with
    | some f => if f.cause == 1 then some (o.1, f.slots.getD o.1 0) else none
    | none => none)

/-- Every broken rule of a bundle, by slot. -/
def marksOf (s : State) (n : Nat) (b : BitVec 256) : List (Nat × Nat) :=
  let l := bundleOps b
  codeMarks b ++ classMarks n b l ++ portMarks s n b l ++ valueMarks s n b l

/-- The lowest reason of a slot. -/
def slotReason (m : List (Nat × Nat)) (i : Nat) : Option Nat :=
  ((m.filter (fun e => e.1 == i)).map (·.2)).foldl (fun a c => match a with
    | none => some c
    | some d => some (min c d)) none

/-- The illegal-instruction fault of a bundle, if it is illegal (R54, R69). -/
def illegalOf (s : State) (n : Nat) (b : BitVec 256) : Option Flt :=
  let m := marksOf s n b
  match (List.range 8).filter (fun i => (slotReason m i).isSome) with
  | [] => none
  | k :: r => some ⟨1, 0, (k :: r).foldl (fun a i => a + 2 ^ i) 0, (List.range 8).map (fun i => (slotReason m i).getD 0x0E),
      (s.core n).pc, k, [], 0⟩

/-! ### Stalls and holds (R53, R174, R326, R330, R406) -/

/-- The tiles an operation reads or writes, and the row period of one that can be chained. -/
def tilesUsed (s : State) (n : Nat) : Instr → List Nat × Nat
  | .mma t _ _ _ ty => (mmaTiles { s with iss := ⟨n, 0, 0, 0⟩ } t, rowPeriod ty)
  | .mmaz t _ _ _ ty => (mmaTiles { s with iss := ⟨n, 0, 0, 0⟩ } t, rowPeriod ty)
  | .trd t _ _ => ([t], 0)
  | .twr t _ _ => ([t], 0)
  | .tst t _ _ _ _ => ([t], 0)
  | .tzero t => ([t], 0)
  | .outer t _ _ _ _ => ([t], 0)
  | _ => ([], 0)

/-- Does an operation hold its bundle at issue? -/
def holdsIssue (s : State) (n : Nat) (i : Instr) : Bool :=
  let c := s.core n
  let u := tilesUsed s n i
  u.1.any (fun t => s.cycle < tget 0 c.busy t && !(u.2 != 0 && tget 0 c.chain t == u.2)) ||
  (match i with
    | .lsend _ _ _ => 16 ≤ c.lsOut
    | .coll _ _ _ _ _ _ => 4 ≤ c.collQ
    | .syncd _ => c.fences.any (·.rel)
    | _ => false)

/-! ### Faults of a bundle that is legal (R127, R361) -/

/-- Words a bundle's conversions would pop. -/
def popsOf (s : State) (n : Nat) (b : BitVec 256) (l : List (Nat × Instr)) : List (Nat × Nat) :=
  l.filterMap (fun o =>
    let k := atSlot s n o.1 (slotWord b o.1)
    match o.2 with
    | .vcvt _ _ _ w => some (o.1, k.popCount (vcvtLanes k w))
    | .vqnt _ _ _ _ w => some (o.1, k.popCount (widthOf w / tySize k.ety))
    | _ => none)

/-- The random-bit underrun of the whole bundle (R127). -/
def bundleUnderrun (s : State) (n : Nat) (b : BitVec 256) (l : List (Nat × Instr)) : Option Flt :=
  let p := (popsOf s n b l).filter (fun e => e.2 != 0)
  let need := p.foldl (fun a e => a + e.2) 0
  let have_ := (s.core n).rbq.length
  match p with
  | e :: _ => if have_ < need then some (preciseFlt 0x0B 0 e.1 (s.core n).pc [need, have_]) else none
  | [] => none

/-- The first fault of the bundle's operations, lowest slot first, of causes a condition picks (log 11). -/
def slotFault (s : State) (n : Nat) (b : BitVec 256) (pick : Nat → Bool) : Option Flt :=
  let l := bundleOps b
  firstFlt (fun i => match l.find? (fun o => o.1 == i) with
    | none => none
    | some o => match opCheck s n b o with
      | some f => if pick f.cause then some f else none
      | none => none) (List.range 8)

/-- The precise fault of a legal bundle: underrun first, then its slots, then privilege (R361). -/
def issueFault (s : State) (n : Nat) (b : BitVec 256) : Option Flt :=
  match bundleUnderrun s n b (bundleOps b) with
  | some f => some f
  | none => match slotFault s n b (fun c => c != 1 && c != 2 && c != 0x0B) with
    | some f => some f
    | none => slotFault s n b (fun c => c == 2)

/-! ### One attempt to issue -/

/-- The state a bundle is checked and issued in: KERN's bundle begins iteration 0 (R279). -/
def kernStart (s : State) (n : Nat) : State :=
  let c := s.core n
  let w := s.sr n srTRIPC
  if !c.sup && c.task.isSome && c.pc == c.lrec.kern && wbits w 32 1 == 0 && 0 < wbits w 0 32 then
    applyAll [.sr n srTRIPC (w ||| (1#64 <<< 32)), .core n (fun c => { c with
      part := 1
      iter := s.cycle
      bound := c.lrec.budget })] s
  else s

/-- A kernel of no iterations is passed over: issue goes on at EPI, or at KERN without activating it (R279). -/
def kernSkip (s : State) (n : Nat) : Option (List Upd) :=
  let c := s.core n
  if !c.sup && c.task.isSome && c.pc == c.lrec.kern && c.part == 0 && c.dly == 0 && wbits (s.sr n srTRIPC) 0 33 == 0 then
    some [.core n (fun c => { c with
      part := 2
      pc := if c.lrec.he then c.lrec.epi else c.pc
      iter := s.cycle
      bound := 2 ^ 20 })]
  else none

/-- The deferred fault due at a bundle, lowest code first; an overrun is one of them (R282, R361). -/
def takeDeferred (n : Nat) (s : State) : Option (Host.Outcome State Fault Refusal) :=
  match firstDue s n, overran s n with
  | some d, true => some (if d.flt.cause ≤ 0x13 then exec (.trapEntry n) s else exec (.overrunFault n) s)
  | some _, false => some (exec (.trapEntry n) s)
  | none, true => some (exec (.overrunFault n) s)
  | none, false => none

/-- Operations in order, each from the state the one before it leaves. -/
def runOps (n : Nat) (b : BitVec 256) : List (Nat × Instr) → State → Host.Outcome State Fault Refusal
  | [], s => .next s
  | o :: r, s =>
    match exec o.2 (atSlot s n o.1 (slotWord b o.1)) with
    | .next t => runOps n b r t
    | .fault f => .fault f
    | .refused f => .refused f

/-- The bundle's slots run, then issue moves on, unless an operation has moved it itself. -/
def commitBundle (n : Nat) (b : BitVec 256) (s : State) : Host.Outcome State Fault Refusal :=
  match runOps n b (bundleOps b) s with
  | .next t =>
    if (t.core n).run == .issuing && (t.core n).sup == (s.core n).sup then done (endBundle n) t else .next t
  | .fault f => .fault f
  | .refused f => .refused f

/-- The state with the FMT and MSKSEL images in effect whose shadows end at the bundle to issue (R114, R115, R148): it is
checked under them, and they are written as it issues, not while it is held. -/
def shadowed (n : Nat) (s : State) : State :=
  match exec (.fmtShadowEnd n) s with
  | .next t => (match exec (.maskSelectorUpdate n) t with
    | .next u => u
    | _ => t)
  | _ => s

/-- One attempt to issue the bundle at pc (R54, R361). -/
def issueBundle (n : Nat) (s0 : State) : Host.Outcome State Fault Refusal :=
  let s := kernStart (shadowed n s0) n
  let b := bundleAt s n (s.core n).pc
  match illegalOf s n b with
  | some f => done (faultAt n f) s0
  | none =>
    if (bundleOps b).any (fun o => holdsIssue s n o.2) then
      match takeDeferred n s0 with
      | some r => r
      | none => done (pureA [.core n (fun c => { c with nextAt := s0.cycle + 1 })]) s0
    else match issueFault s n b with
      | some f => done (faultAt n f) s0
      | none => match takeDeferred n s0 with
        | some r => r
        | none => commitBundle n b s

/-- What the sequencer of core n does now: the end of a hold, a level's exit, or a bundle. -/
def coreAct (n : Nat) (s : State) : Host.Outcome State Fault Refusal :=
  let c := s.core n
  match c.hold with
  | .none =>
    if (c.zl.head?.map (·.left)) == some 0 then exec (.zloopLevelExit n) s
    else match kernSkip s n with
      | some u => .next (applyAll u s)
      | none => issueBundle n s
  | .until k => if k ≤ s.cycle then exec (.waitcExpiry n) s else (takeDeferred n s).getD (.next s)
  | .ctime v => if v ≤ s.ctime then exec (.waittExpiry n) s else (takeDeferred n s).getD (.next s)
  | .failed => .next s
  | _ => (takeDeferred n s).getD (.next s)

/-- The cycle in which the sequencer of core n next acts, if it does. -/
def coreNext (s : State) (_n : Nat) (c : Core) : Option Nat :=
  if c.run != .issuing then none
  else
    let late := if c.bounded then some (c.iter + c.bound) else none
    let least (k : Nat) : Option Nat := some (match late with
      | some o => min o k
      | none => k)
    match c.hold with
    | .none => some c.nextAt
    | .until k => least k
    | .ctime v => least (s.cycle + (v - s.ctime))
    | .failed => none
    | .syncd _ => late
    | .dlv _ _ _ => late
    | _ => (c.due.filter (fun d => d.sup || !c.sup)).foldl (fun a d => some (match a with
        | some k => min k d.since
        | none => d.since)) late

end Sys2Proof.Machine
end

