-- ==== Sys2Proof/Machine/Tick.lean ====
section
/-! DEFINITION. What is due next on the device, and what time and every event bring with them (logs 7, 8): the order of
events within a cycle, reads of the matrix array, free progress of the engines, and the scans after an event. -/

namespace Sys2Proof.Machine

/-- What can happen next. -/
inductive Todo where
  /-- the head of the agenda -/
  | event
  /-- results of core n become visible -/
  | write (n : Nat)
  /-- core n issues, or its hold ends -/
  | act (n : Nat)
  /-- the next command of vault v's program -/
  | command (v : Nat)
  /-- the next read-ahead of vault v's program -/
  | ahead (v : Nat)
  deriving DecidableEq, Repr

/-- Something due: its cycle and its phase within the cycle. -/
structure Cand where
  due : Nat
  ph : Nat
  what : Todo
  deriving DecidableEq, Repr

/-- The earlier of two; the first where they fall together. -/
def Cand.first (a b : Cand) : Cand := if b.due < a.due || (b.due == a.due && b.ph < a.ph) then b else a

/-- The earliest visibility cycle of a core's results. -/
def firstVis (c : Core) : Option Nat :=
  c.pend.foldl (fun a p => some (match a with
    | some k => min k p.vis
    | none => p.vis)) none

/-- What one core has due. -/
def coreCands (s : State) (n : Nat) (c : Core) : List Cand :=
  (match firstVis c with
    | some k => [⟨max k s.cycle, 0, .write n⟩]
    | none => []) ++
  (match coreNext s n c with
    | some k => [⟨max k s.cycle, 5, .act n⟩]
    | none => [])

/-- What one vault has due. -/
def vaultCands (s : State) (v : Nat) : List Cand :=
  (match nextCmd s v with
    | some (ck, _) => [⟨max (ck / 2) s.cycle, 3, .command v⟩]
    | none => []) ++
  (match aheadCycle s v with
    | some k => [⟨max k s.cycle, 5, .ahead v⟩]
    | none => [])

/-- Everything due: the agenda first, then the cores by number, then the vaults. -/
def allDue (s : State) : List Cand :=
  (match s.agenda with
    | i :: _ => [⟨max i.due s.cycle, i.ph, .event⟩]
    | [] => []) ++
  s.cores.flatMap (fun e => coreCands s e.1 e.2) ++
  s.vaults.flatMap (fun e => vaultCands s e.1)

/-- The next thing to happen. -/
def nextUp (s : State) : Option Cand :=
  match allDue s with
  | [] => none
  | c :: r => some (r.foldl Cand.first c)

/-- Reads of the matrix arrays due by a cycle. -/
def matrixTo (t : Nat) : Act := fun s =>
  forA ((s.cores.filter (fun e => !e.2.mops.isEmpty)).map (·.1)) (fun n => readsDue n t) s

/-- Every engine operation that moves comes a free way further (log 8). -/
def progressAll : Act := fun s =>
  forA ((s.ops.filter (fun e => e.2.moving)).map (·.1)) (fun o =>
    seqA [fun s => progress o (Config.freeNat s.fresh) s, pureA [.fresh]]) s

/-- The stamps of every engine operation that are due in a cycle that begins (R229). -/
def stampAll : Act := fun s =>
  forA ((s.ops.filter (fun e => e.2.st == .running && !e.2.grans.isEmpty)).map (·.1)) (fun o => viewA o (stampEarly o)) s

/-- Time comes to cycle t, and within it to a phase: matrix reads of earlier cycles; the engines, whose writes stand over the
stores of the last cycle (R235), and their stamps; then the reads of this cycle before the bundles issue. -/
def tick (t ph : Nat) : Act := seqA [
  matrixTo (t - 1),
  whenA (fun s => s.cycle < t) (seqA [pureA [.cycle (t - 1)], progressAll, pureA [.cycle t], stampAll]),
  whenA (fun _ => 5 ≤ ph) (matrixTo t)]

/-- What every event can set off: released waits, completed barriers and collectives, merges by station, and what tasks,
scopes and yards notice. -/
def scans : Act := seqA [dlvScan, syncScan, collScan, mergeScan, taskScan]

/-- Run what is due. -/
def runTodo (c : Cand) (i : Option Item) (s : State) : Host.Outcome State Fault Refusal :=
  match c.what with
  | .event => (match i with
      | some i => exec i.ev s
      | none => .next s)
  | .write n => exec (.resultWriteback n) s
  | .act n => coreAct n s
  | .command v => (match (nextCmd s v).bind (·.2) with
      | some w => (match decodeVault w with
          | .ok x => exec x { s with iss := { s.iss with vault := v } }
          | .error _ => exec (.illegalCommand v) s)
      | none => exec (.illegalCommand v) s)
  | .ahead v => exec (.wrUnitRead v) s

/-- Is this event a power-up? -/
def isBringUp : Instr → Bool
  | .bringUp => true
  | _ => false

/-- The agenda's head is taken out of it when it is what runs. -/
def takeHead (c : Cand) (s : State) : Option Item × State :=
  match c.what, s.agenda with
  | .event, i :: r => (some i, { s with agenda := r })
  | _, _ => (none, s)

/-- One step of a device that has power: what is due next runs at its cycle, and the scans follow. Where nothing is due,
a cycle passes. -/
def stepOn (s : State) : Host.Outcome State Fault Refusal :=
  match nextUp s with
  | none => .next { s with cycle := s.cycle + 1 }
  | some c =>
    let h := takeHead c s
    match runTodo c h.1 (applyAll (tick c.due c.ph h.2) h.2) with
    | .next t => done scans t
    | .fault f => .fault f
    | .refused f => .refused f

/-- After a thermal trip only a power-up acts; anything else the outside sends is lost (R391, R394). -/
def stepOff (s : State) : Host.Outcome State Fault Refusal :=
  match s.agenda with
  | [] => .next { s with cycle := s.cycle + 1 }
  | i :: r =>
    let t : State := { s with
      agenda := r
      cycle := max s.cycle i.due }
    if isBringUp i.ev then exec i.ev t else .next t

/-! ### Placing a word to be fetched (log 5) -/

/-- A bundle of NOPs with one word in a slot. -/
def oneSlot (i w : Nat) : BitVec 256 := BitVec.ofNat 256 (w % 2 ^ 32 * 2 ^ (32 * i))

/-- Core 0 issues the bundle at address 0 of its instruction store next, or of its supervisor store. -/
def placeBundle (s : State) (sup : Bool) (b : BitVec 256) : State :=
  let t := applyAll [if sup then .sstore 0 b else .istore 0 b, .core 0 (fun c => { c with
    run := .issuing
    sup := sup
    pc := 0
    nextAt := 0
    hold := .none })] s
  { t with agenda := t.agenda.filter (fun i => s.cycle < i.due) }

/-- Does an instruction act only in supervisor mode (R57, R344)? -/
def supForm : Instr → Bool
  | .eret => true
  | .halt => true
  | .mfs _ r => (match srView r with
      | some (task, _, _) => !task
      | none => false)
  | .mts _ r => (match srView r with
      | some (_, task, sup) => !task && sup
      | none => false)
  | _ => false

/-- Vault 0 runs a program of context 0 that begins with the word. -/
def placeVault (s : State) (w : Nat) : State :=
  let q : VStart := ⟨0, 0, 0, 0, 0, 0, 0, 0, 0, 0, 0, 32768, true, true, 0, false, 0, 0, 0, []⟩
  let p : VProg := ⟨q, ⟨0, 2 * s.cycle, 0, 0⟩, ⟨0, 2 * s.cycle, 0, 0⟩, [], 0, [], 0, none, none, none, false⟩
  applyAll [.ctx 0 (fun k => { k with code := some ⟨[], [], [], [w], [], []⟩ }),
    .vault 0 (fun t => { t with prog := some p })] s

/-- The state with a word placed where the next step fetches it: the control slot, slot 3 (V) or slot 1 of the bundle at
address 0, or the head of a vault program; the reading is `decodeTableWord`'s. -/
def placeWord (s : State) (w : Nat) : State :=
  match readTableWord w with
  | some (0, i) => placeBundle s (supForm i) (oneSlot 0 w)
  | some (1, _) => placeBundle s false (oneSlot (if bitsOf w 29 3 == 2 then 3 else 1) w)
  | some (_, _) => placeVault s w
  | none => s

end Sys2Proof.Machine
end

