-- ==== Sys2Proof/Machine/Step.lean ====
section
/-! DEFINITION. One step of the device, and a word placed where the next step fetches it. -/

namespace Sys2Proof.Machine

/-- One step: the next thing that is due happens. -/
def step (s : State) : Host.Outcome State Fault Refusal := if s.dev.tripped then stepOff s else stepOn s

/-- The state with the word placed where `step` fetches its next instruction (log 5). -/
def State.withFetchWord (s : State) (_nbits w : Nat) : State := placeWord s w

end Sys2Proof.Machine
end

