-- ==== Sys2Proof/Laws/PerInstr.lean ====
section
/-! SUPPORT. The round trip of the encodings, one lemma for each instruction (R34 to R45, R56 to R66, R258). -/

namespace Sys2Proof.Laws.RoundTrip
open Sys2Proof

set_option linter.unusedSimpArgs false
set_option Elab.async false

/-- The encoded word of a well-formed instruction, with its header extension, decodes to the instruction. -/
def Statement (i : Instr) : Prop := i.wf = true → ∀ w e, encode i = some (w, e) → w < 2 ^ 32 ∧
  match i.kind with
  | .control => decodeControl w = .ok i ∧ e = none
  | .slot => decodeSlot w e = .ok i
  | .vault => decodeVault w = .ok i ∧ e = none
  | .event => False

theorem enc_lt {a : Src} (h : a.wf = true) : a.enc < 128 := by
  cases a <;> simp_all [Src.wf, Src.enc] <;> omega

theorem srcOf_enc {a : Src} (h : a.wf = true) : srcOf a.enc = some a := by
  cases a with
  | reg n => simp_all [Src.wf, Src.enc, srcOf]
  | lat k =>
    simp only [Src.wf, Bool.and_eq_true, decide_eq_true_eq] at h
    have : k = 1 ∨ k = 2 ∨ k = 3 ∨ k = 4 ∨ k = 5 ∨ k = 6 ∨ k = 7 := by omega
    rcases this with rfl | rfl | rfl | rfl | rfl | rfl | rfl <;> rfl

theorem predOf_enc {a : Src} (h : a.wfPred = true) : predOf a.enc = some a := by
  cases a with
  | reg n => simp_all [Src.wfPred, Src.enc, predOf]
  | lat k =>
    simp only [Src.wfPred, Bool.and_eq_true, decide_eq_true_eq] at h
    have : k = 1 ∨ k = 2 ∨ k = 3 ∨ k = 4 ∨ k = 5 ∨ k = 6 ∨ k = 7 := by omega
    rcases this with rfl | rfl | rfl | rfl | rfl | rfl | rfl <;> rfl

theorem wf_of_wfPred {a : Src} (h : a.wfPred = true) : a.wf = true := by
  cases a <;> simp_all [Src.wf, Src.wfPred] <;> omega

/-- The fields of a register-format word. -/
theorem encReg_fields {cls op d a b m : Nat} (nb : Bool) (hc : cls < 8) (ho : op < 64) (hd : d < 64) (ha : a < 128) (hb : b < 128)
    (hm : m < 4) : encReg cls op d nb a b m < 2 ^ 32 ∧ bitsOf (encReg cls op d nb a b m) 29 3 = cls ∧
    bitsOf (encReg cls op d nb a b m) 23 6 = op ∧ regF (encReg cls op d nb a b m) = ⟨d, nb, a, b, m⟩ ∧
    bitsOf (encReg cls op d nb a b m) 9 4 = a % 16 ∧ bitsOf (encReg cls op d nb a b m) 2 6 = b % 64 ∧
    bitsOf (encReg cls op d nb a b m) 21 2 = d / 16 ∧ bitsOf (encReg cls op d nb a b m) 17 4 = d % 16 ∧
    bitsOf (encReg cls op d nb a b m) 16 1 = (if nb then 1 else 0) := by
  cases nb <;> simp [encReg, bitsOf, regF] <;> omega

/-- A two-source operation. -/
theorem of_two {i : Instr} {cls op mods d m : Nat} {nb : Bool} {a b : Src} (k : RegF → Src → Src → Nat → Instr)
    (hk : i.kind = .slot) (he : encode i = some (encReg cls op d nb a.enc b.enc m, none)) (hc : cls < 8) (ho : op < 64)
    (hmods : mods ≤ 4)
    (hd : ∀ w e, bitsOf w 29 3 = cls → bitsOf w 23 6 = op → decodeSlot w e = two (regF w) mods (k (regF w)))
    (hi : i = k ⟨d, nb, a.enc, b.enc, m⟩ a b m) (hw : i.wf = true → wfReg d nb = true ∧ a.wf = true ∧ b.wf = true ∧ m < mods) :
    Statement i := by
  intro h w e hwe
  obtain ⟨hr, ha, hb, hm⟩ := hw h
  rw [he] at hwe
  obtain ⟨rfl, rfl⟩ := by simpa using hwe
  simp only [wfReg, Bool.and_eq_true, decide_eq_true_eq] at hr
  obtain ⟨f1, f2, f3, f4, -⟩ := encReg_fields nb hc ho hr.1 (enc_lt ha) (enc_lt hb) (m := m) (by omega)
  refine ⟨f1, ?_⟩
  rw [hk]
  show decodeSlot _ _ = _
  rw [hd _ _ f2 f3, f4]
  simp [two, srcOf_enc ha, srcOf_enc hb, guardWord, RegF.destOk, hr.2, hm, ← hi]

/-- A one-source operation. -/
theorem of_one {i : Instr} {cls op mods d m : Nat} {nb : Bool} {a : Src} (k : RegF → Src → Nat → Instr)
    (hk : i.kind = .slot) (he : encode i = some (encReg cls op d nb a.enc 0 m, none)) (hc : cls < 8) (ho : op < 64)
    (hmods : mods ≤ 4)
    (hd : ∀ w e, bitsOf w 29 3 = cls → bitsOf w 23 6 = op → decodeSlot w e = one (regF w) mods (k (regF w)))
    (hi : i = k ⟨d, nb, a.enc, 0, m⟩ a m) (hw : i.wf = true → wfReg d nb = true ∧ a.wf = true ∧ m < mods) :
    Statement i := by
  intro h w e hwe
  obtain ⟨hr, ha, hm⟩ := hw h
  rw [he] at hwe
  obtain ⟨rfl, rfl⟩ := by simpa using hwe
  simp only [wfReg, Bool.and_eq_true, decide_eq_true_eq] at hr
  obtain ⟨f1, f2, f3, f4, -⟩ := encReg_fields nb hc ho hr.1 (enc_lt ha) (b := 0) (m := m) (by omega) (by omega)
  refine ⟨f1, ?_⟩
  rw [hk]
  show decodeSlot _ _ = _
  rw [hd _ _ f2 f3, f4]
  simp [one, srcOf_enc ha, guardWord, RegF.destOk, hr.2, hm, ← hi]

/-- An event has no word. -/
theorem of_event {i : Instr} (he : encode i = none) : Statement i := by
  intro _ w e h
  simp [he] at h

theorem mov (d : Nat) (nb : Bool) (a : Src) : Statement (.mov d nb a) :=
  of_one (mods := 1) (m := 0) (fun f a m => .mov f.d f.nb a) rfl rfl (by omega) (by omega) (by omega)
    (by intro w e h1 h2; simp [decodeSlot, decodeS, h1, h2]) rfl (by simp_all [Instr.wf])
theorem add (d : Nat) (nb : Bool) (a : Src) (b : Src) : Statement (.add d nb a b) :=
  of_two (mods := 1) (m := 0) (fun f a b m => .add f.d f.nb a b) rfl rfl (by omega) (by omega) (by omega)
    (by intro w e h1 h2; simp [decodeSlot, decodeS, h1, h2]) rfl (by simp_all [Instr.wf])
theorem sub (d : Nat) (nb : Bool) (a : Src) (b : Src) : Statement (.sub d nb a b) :=
  of_two (mods := 1) (m := 0) (fun f a b m => .sub f.d f.nb a b) rfl rfl (by omega) (by omega) (by omega)
    (by intro w e h1 h2; simp [decodeSlot, decodeS, h1, h2]) rfl (by simp_all [Instr.wf])
theorem mul (d : Nat) (nb : Bool) (a : Src) (b : Src) : Statement (.mul d nb a b) :=
  of_two (mods := 1) (m := 0) (fun f a b m => .mul f.d f.nb a b) rfl rfl (by omega) (by omega) (by omega)
    (by intro w e h1 h2; simp [decodeSlot, decodeS, h1, h2]) rfl (by simp_all [Instr.wf])
theorem mulh (d : Nat) (nb : Bool) (a : Src) (b : Src) (m : Nat) : Statement (.mulh d nb a b m) :=
  of_two (mods := 2) (m := m) (fun f a b m => .mulh f.d f.nb a b m) rfl rfl (by omega) (by omega) (by omega)
    (by intro w e h1 h2; simp [decodeSlot, decodeS, h1, h2]) rfl (by simp_all [Instr.wf])
theorem div (d : Nat) (nb : Bool) (a : Src) (b : Src) (m : Nat) : Statement (.div d nb a b m) :=
  of_two (mods := 2) (m := m) (fun f a b m => .div f.d f.nb a b m) rfl rfl (by omega) (by omega) (by omega)
    (by intro w e h1 h2; simp [decodeSlot, decodeS, h1, h2]) rfl (by simp_all [Instr.wf])
theorem rem (d : Nat) (nb : Bool) (a : Src) (b : Src) (m : Nat) : Statement (.rem d nb a b m) :=
  of_two (mods := 2) (m := m) (fun f a b m => .rem f.d f.nb a b m) rfl rfl (by omega) (by omega) (by omega)
    (by intro w e h1 h2; simp [decodeSlot, decodeS, h1, h2]) rfl (by simp_all [Instr.wf])
theorem and (d : Nat) (nb : Bool) (a : Src) (b : Src) : Statement (.and d nb a b) :=
  of_two (mods := 1) (m := 0) (fun f a b m => .and f.d f.nb a b) rfl rfl (by omega) (by omega) (by omega)
    (by intro w e h1 h2; simp [decodeSlot, decodeS, h1, h2]) rfl (by simp_all [Instr.wf])
theorem or (d : Nat) (nb : Bool) (a : Src) (b : Src) : Statement (.or d nb a b) :=
  of_two (mods := 1) (m := 0) (fun f a b m => .or f.d f.nb a b) rfl rfl (by omega) (by omega) (by omega)
    (by intro w e h1 h2; simp [decodeSlot, decodeS, h1, h2]) rfl (by simp_all [Instr.wf])
theorem xor (d : Nat) (nb : Bool) (a : Src) (b : Src) : Statement (.xor d nb a b) :=
  of_two (mods := 1) (m := 0) (fun f a b m => .xor f.d f.nb a b) rfl rfl (by omega) (by omega) (by omega)
    (by intro w e h1 h2; simp [decodeSlot, decodeS, h1, h2]) rfl (by simp_all [Instr.wf])
theorem andn (d : Nat) (nb : Bool) (a : Src) (b : Src) : Statement (.andn d nb a b) :=
  of_two (mods := 1) (m := 0) (fun f a b m => .andn f.d f.nb a b) rfl rfl (by omega) (by omega) (by omega)
    (by intro w e h1 h2; simp [decodeSlot, decodeS, h1, h2]) rfl (by simp_all [Instr.wf])
theorem shl (d : Nat) (nb : Bool) (a : Src) (b : Src) : Statement (.shl d nb a b) :=
  of_two (mods := 1) (m := 0) (fun f a b m => .shl f.d f.nb a b) rfl rfl (by omega) (by omega) (by omega)
    (by intro w e h1 h2; simp [decodeSlot, decodeS, h1, h2]) rfl (by simp_all [Instr.wf])
theorem shr (d : Nat) (nb : Bool) (a : Src) (b : Src) : Statement (.shr d nb a b) :=
  of_two (mods := 1) (m := 0) (fun f a b m => .shr f.d f.nb a b) rfl rfl (by omega) (by omega) (by omega)
    (by intro w e h1 h2; simp [decodeSlot, decodeS, h1, h2]) rfl (by simp_all [Instr.wf])
theorem sar (d : Nat) (nb : Bool) (a : Src) (b : Src) : Statement (.sar d nb a b) :=
  of_two (mods := 1) (m := 0) (fun f a b m => .sar f.d f.nb a b) rfl rfl (by omega) (by omega) (by omega)
    (by intro w e h1 h2; simp [decodeSlot, decodeS, h1, h2]) rfl (by simp_all [Instr.wf])
theorem clz (d : Nat) (nb : Bool) (a : Src) : Statement (.clz d nb a) :=
  of_one (mods := 1) (m := 0) (fun f a m => .clz f.d f.nb a) rfl rfl (by omega) (by omega) (by omega)
    (by intro w e h1 h2; simp [decodeSlot, decodeS, h1, h2]) rfl (by simp_all [Instr.wf])
theorem popc (d : Nat) (nb : Bool) (a : Src) : Statement (.popc d nb a) :=
  of_one (mods := 1) (m := 0) (fun f a m => .popc f.d f.nb a) rfl rfl (by omega) (by omega) (by omega)
    (by intro w e h1 h2; simp [decodeSlot, decodeS, h1, h2]) rfl (by simp_all [Instr.wf])
theorem bfx (d : Nat) (nb : Bool) (a : Src) (b : Src) (m : Nat) : Statement (.bfx d nb a b m) :=
  of_two (mods := 2) (m := m) (fun f a b m => .bfx f.d f.nb a b m) rfl rfl (by omega) (by omega) (by omega)
    (by intro w e h1 h2; simp [decodeSlot, decodeS, h1, h2]) rfl (by simp_all [Instr.wf])
theorem bfi (d : Nat) (nb : Bool) (a : Src) (b : Src) : Statement (.bfi d nb a b) :=
  of_two (mods := 1) (m := 0) (fun f a b m => .bfi f.d f.nb a b) rfl rfl (by omega) (by omega) (by omega)
    (by intro w e h1 h2; simp [decodeSlot, decodeS, h1, h2]) rfl (by simp_all [Instr.wf])
theorem min (d : Nat) (nb : Bool) (a : Src) (b : Src) (m : Nat) : Statement (.min d nb a b m) :=
  of_two (mods := 2) (m := m) (fun f a b m => .min f.d f.nb a b m) rfl rfl (by omega) (by omega) (by omega)
    (by intro w e h1 h2; simp [decodeSlot, decodeS, h1, h2]) rfl (by simp_all [Instr.wf])
theorem max (d : Nat) (nb : Bool) (a : Src) (b : Src) (m : Nat) : Statement (.max d nb a b m) :=
  of_two (mods := 2) (m := m) (fun f a b m => .max f.d f.nb a b m) rfl rfl (by omega) (by omega) (by omega)
    (by intro w e h1 h2; simp [decodeSlot, decodeS, h1, h2]) rfl (by simp_all [Instr.wf])
theorem cmp (d : Nat) (nb : Bool) (a : Src) (b : Src) (m : Nat) : Statement (.cmp d nb a b m) :=
  of_two (mods := 2) (m := m) (fun f a b m => .cmp f.d f.nb a b m) rfl rfl (by omega) (by omega) (by omega)
    (by intro w e h1 h2; simp [decodeSlot, decodeS, h1, h2]) rfl (by simp_all [Instr.wf])
theorem sel (d : Nat) (nb : Bool) (a : Src) (b : Src) : Statement (.sel d nb a b) :=
  of_two (mods := 1) (m := 0) (fun f a b m => .sel f.d f.nb a b) rfl rfl (by omega) (by omega) (by omega)
    (by intro w e h1 h2; simp [decodeSlot, decodeS, h1, h2]) rfl (by simp_all [Instr.wf])
theorem fadd (d : Nat) (nb : Bool) (a : Src) (b : Src) (m : Nat) : Statement (.fadd d nb a b m) :=
  of_two (mods := 4) (m := m) (fun f a b m => .fadd f.d f.nb a b m) rfl rfl (by omega) (by omega) (by omega)
    (by intro w e h1 h2; simp [decodeSlot, decodeS, h1, h2]) rfl (by simp_all [Instr.wf])
theorem fmul (d : Nat) (nb : Bool) (a : Src) (b : Src) (m : Nat) : Statement (.fmul d nb a b m) :=
  of_two (mods := 4) (m := m) (fun f a b m => .fmul f.d f.nb a b m) rfl rfl (by omega) (by omega) (by omega)
    (by intro w e h1 h2; simp [decodeSlot, decodeS, h1, h2]) rfl (by simp_all [Instr.wf])
theorem ffma (d : Nat) (nb : Bool) (a : Src) (b : Src) (m : Nat) : Statement (.ffma d nb a b m) :=
  of_two (mods := 4) (m := m) (fun f a b m => .ffma f.d f.nb a b m) rfl rfl (by omega) (by omega) (by omega)
    (by intro w e h1 h2; simp [decodeSlot, decodeS, h1, h2]) rfl (by simp_all [Instr.wf])
theorem fcmp (d : Nat) (nb : Bool) (a : Src) (b : Src) : Statement (.fcmp d nb a b) :=
  of_two (mods := 1) (m := 0) (fun f a b m => .fcmp f.d f.nb a b) rfl rfl (by omega) (by omega) (by omega)
    (by intro w e h1 h2; simp [decodeSlot, decodeS, h1, h2]) rfl (by simp_all [Instr.wf])
theorem fexp2 (d : Nat) (nb : Bool) (a : Src) : Statement (.fexp2 d nb a) :=
  of_one (mods := 1) (m := 0) (fun f a m => .fexp2 f.d f.nb a) rfl rfl (by omega) (by omega) (by omega)
    (by intro w e h1 h2; simp [decodeSlot, decodeF, h1, h2]) rfl (by simp_all [Instr.wf])
theorem flog2 (d : Nat) (nb : Bool) (a : Src) : Statement (.flog2 d nb a) :=
  of_one (mods := 1) (m := 0) (fun f a m => .flog2 f.d f.nb a) rfl rfl (by omega) (by omega) (by omega)
    (by intro w e h1 h2; simp [decodeSlot, decodeF, h1, h2]) rfl (by simp_all [Instr.wf])
theorem frcp (d : Nat) (nb : Bool) (a : Src) : Statement (.frcp d nb a) :=
  of_one (mods := 1) (m := 0) (fun f a m => .frcp f.d f.nb a) rfl rfl (by omega) (by omega) (by omega)
    (by intro w e h1 h2; simp [decodeSlot, decodeF, h1, h2]) rfl (by simp_all [Instr.wf])
theorem frsq (d : Nat) (nb : Bool) (a : Src) : Statement (.frsq d nb a) :=
  of_one (mods := 1) (m := 0) (fun f a m => .frsq f.d f.nb a) rfl rfl (by omega) (by omega) (by omega)
    (by intro w e h1 h2; simp [decodeSlot, decodeF, h1, h2]) rfl (by simp_all [Instr.wf])
theorem fsqrt (d : Nat) (nb : Bool) (a : Src) : Statement (.fsqrt d nb a) :=
  of_one (mods := 1) (m := 0) (fun f a m => .fsqrt f.d f.nb a) rfl rfl (by omega) (by omega) (by omega)
    (by intro w e h1 h2; simp [decodeSlot, decodeF, h1, h2]) rfl (by simp_all [Instr.wf])
theorem fsin (d : Nat) (nb : Bool) (a : Src) : Statement (.fsin d nb a) :=
  of_one (mods := 1) (m := 0) (fun f a m => .fsin f.d f.nb a) rfl rfl (by omega) (by omega) (by omega)
    (by intro w e h1 h2; simp [decodeSlot, decodeF, h1, h2]) rfl (by simp_all [Instr.wf])
theorem fcos (d : Nat) (nb : Bool) (a : Src) : Statement (.fcos d nb a) :=
  of_one (mods := 1) (m := 0) (fun f a m => .fcos f.d f.nb a) rfl rfl (by omega) (by omega) (by omega)
    (by intro w e h1 h2; simp [decodeSlot, decodeF, h1, h2]) rfl (by simp_all [Instr.wf])
theorem ftanh (d : Nat) (nb : Bool) (a : Src) : Statement (.ftanh d nb a) :=
  of_one (mods := 1) (m := 0) (fun f a m => .ftanh f.d f.nb a) rfl rfl (by omega) (by omega) (by omega)
    (by intro w e h1 h2; simp [decodeSlot, decodeF, h1, h2]) rfl (by simp_all [Instr.wf])
theorem fsigm (d : Nat) (nb : Bool) (a : Src) : Statement (.fsigm d nb a) :=
  of_one (mods := 1) (m := 0) (fun f a m => .fsigm f.d f.nb a) rfl rfl (by omega) (by omega) (by omega)
    (by intro w e h1 h2; simp [decodeSlot, decodeF, h1, h2]) rfl (by simp_all [Instr.wf])
theorem fdiv (d : Nat) (nb : Bool) (a : Src) (b : Src) : Statement (.fdiv d nb a b) :=
  of_two (mods := 1) (m := 0) (fun f a b m => .fdiv f.d f.nb a b) rfl rfl (by omega) (by omega) (by omega)
    (by intro w e h1 h2; simp [decodeSlot, decodeF, h1, h2]) rfl (by simp_all [Instr.wf])
theorem vadd (d : Nat) (nb : Bool) (a : Src) (b : Src) (w : Nat) : Statement (.vadd d nb a b w) :=
  of_two (mods := 3) (m := w) (fun f a b m => .vadd f.d f.nb a b m) rfl rfl (by omega) (by omega) (by omega)
    (by intro w e h1 h2; simp [decodeSlot, decodeV, h1, h2]) rfl (by simp_all [Instr.wf])
theorem vsub (d : Nat) (nb : Bool) (a : Src) (b : Src) (w : Nat) : Statement (.vsub d nb a b w) :=
  of_two (mods := 3) (m := w) (fun f a b m => .vsub f.d f.nb a b m) rfl rfl (by omega) (by omega) (by omega)
    (by intro w e h1 h2; simp [decodeSlot, decodeV, h1, h2]) rfl (by simp_all [Instr.wf])
theorem vmul (d : Nat) (nb : Bool) (a : Src) (b : Src) (w : Nat) : Statement (.vmul d nb a b w) :=
  of_two (mods := 3) (m := w) (fun f a b m => .vmul f.d f.nb a b m) rfl rfl (by omega) (by omega) (by omega)
    (by intro w e h1 h2; simp [decodeSlot, decodeV, h1, h2]) rfl (by simp_all [Instr.wf])
theorem vfma (d : Nat) (nb : Bool) (a : Src) (b : Src) (w : Nat) : Statement (.vfma d nb a b w) :=
  of_two (mods := 3) (m := w) (fun f a b m => .vfma f.d f.nb a b m) rfl rfl (by omega) (by omega) (by omega)
    (by intro w e h1 h2; simp [decodeSlot, decodeV, h1, h2]) rfl (by simp_all [Instr.wf])
theorem vfnma (d : Nat) (nb : Bool) (a : Src) (b : Src) (w : Nat) : Statement (.vfnma d nb a b w) :=
  of_two (mods := 3) (m := w) (fun f a b m => .vfnma f.d f.nb a b m) rfl rfl (by omega) (by omega) (by omega)
    (by intro w e h1 h2; simp [decodeSlot, decodeV, h1, h2]) rfl (by simp_all [Instr.wf])
theorem vmin (d : Nat) (nb : Bool) (a : Src) (b : Src) (w : Nat) : Statement (.vmin d nb a b w) :=
  of_two (mods := 3) (m := w) (fun f a b m => .vmin f.d f.nb a b m) rfl rfl (by omega) (by omega) (by omega)
    (by intro w e h1 h2; simp [decodeSlot, decodeV, h1, h2]) rfl (by simp_all [Instr.wf])
theorem vmax (d : Nat) (nb : Bool) (a : Src) (b : Src) (w : Nat) : Statement (.vmax d nb a b w) :=
  of_two (mods := 3) (m := w) (fun f a b m => .vmax f.d f.nb a b m) rfl rfl (by omega) (by omega) (by omega)
    (by intro w e h1 h2; simp [decodeSlot, decodeV, h1, h2]) rfl (by simp_all [Instr.wf])
theorem vabs (d : Nat) (nb : Bool) (a : Src) (w : Nat) : Statement (.vabs d nb a w) :=
  of_one (mods := 3) (m := w) (fun f a m => .vabs f.d f.nb a m) rfl rfl (by omega) (by omega) (by omega)
    (by intro w e h1 h2; simp [decodeSlot, decodeV, h1, h2]) rfl (by simp_all [Instr.wf])
theorem vneg (d : Nat) (nb : Bool) (a : Src) (w : Nat) : Statement (.vneg d nb a w) :=
  of_one (mods := 3) (m := w) (fun f a m => .vneg f.d f.nb a m) rfl rfl (by omega) (by omega) (by omega)
    (by intro w e h1 h2; simp [decodeSlot, decodeV, h1, h2]) rfl (by simp_all [Instr.wf])
theorem vand (d : Nat) (nb : Bool) (a : Src) (b : Src) (w : Nat) : Statement (.vand d nb a b w) :=
  of_two (mods := 3) (m := w) (fun f a b m => .vand f.d f.nb a b m) rfl rfl (by omega) (by omega) (by omega)
    (by intro w e h1 h2; simp [decodeSlot, decodeV, h1, h2]) rfl (by simp_all [Instr.wf])
theorem vor (d : Nat) (nb : Bool) (a : Src) (b : Src) (w : Nat) : Statement (.vor d nb a b w) :=
  of_two (mods := 3) (m := w) (fun f a b m => .vor f.d f.nb a b m) rfl rfl (by omega) (by omega) (by omega)
    (by intro w e h1 h2; simp [decodeSlot, decodeV, h1, h2]) rfl (by simp_all [Instr.wf])
theorem vxor (d : Nat) (nb : Bool) (a : Src) (b : Src) (w : Nat) : Statement (.vxor d nb a b w) :=
  of_two (mods := 3) (m := w) (fun f a b m => .vxor f.d f.nb a b m) rfl rfl (by omega) (by omega) (by omega)
    (by intro w e h1 h2; simp [decodeSlot, decodeV, h1, h2]) rfl (by simp_all [Instr.wf])
theorem vandn (d : Nat) (nb : Bool) (a : Src) (b : Src) (w : Nat) : Statement (.vandn d nb a b w) :=
  of_two (mods := 3) (m := w) (fun f a b m => .vandn f.d f.nb a b m) rfl rfl (by omega) (by omega) (by omega)
    (by intro w e h1 h2; simp [decodeSlot, decodeV, h1, h2]) rfl (by simp_all [Instr.wf])
theorem vshl (d : Nat) (nb : Bool) (a : Src) (b : Src) (w : Nat) : Statement (.vshl d nb a b w) :=
  of_two (mods := 3) (m := w) (fun f a b m => .vshl f.d f.nb a b m) rfl rfl (by omega) (by omega) (by omega)
    (by intro w e h1 h2; simp [decodeSlot, decodeV, h1, h2]) rfl (by simp_all [Instr.wf])
theorem vshr (d : Nat) (nb : Bool) (a : Src) (b : Src) (w : Nat) : Statement (.vshr d nb a b w) :=
  of_two (mods := 3) (m := w) (fun f a b m => .vshr f.d f.nb a b m) rfl rfl (by omega) (by omega) (by omega)
    (by intro w e h1 h2; simp [decodeSlot, decodeV, h1, h2]) rfl (by simp_all [Instr.wf])
theorem vsar (d : Nat) (nb : Bool) (a : Src) (b : Src) (w : Nat) : Statement (.vsar d nb a b w) :=
  of_two (mods := 3) (m := w) (fun f a b m => .vsar f.d f.nb a b m) rfl rfl (by omega) (by omega) (by omega)
    (by intro w e h1 h2; simp [decodeSlot, decodeV, h1, h2]) rfl (by simp_all [Instr.wf])
theorem vsel (d : Nat) (nb : Bool) (a : Src) (b : Src) (w : Nat) : Statement (.vsel d nb a b w) :=
  of_two (mods := 3) (m := w) (fun f a b m => .vsel f.d f.nb a b m) rfl rfl (by omega) (by omega) (by omega)
    (by intro w e h1 h2; simp [decodeSlot, decodeV, h1, h2]) rfl (by simp_all [Instr.wf])
theorem vmov (d : Nat) (nb : Bool) (a : Src) (w : Nat) : Statement (.vmov d nb a w) :=
  of_one (mods := 3) (m := w) (fun f a m => .vmov f.d f.nb a m) rfl rfl (by omega) (by omega) (by omega)
    (by intro w e h1 h2; simp [decodeSlot, decodeV, h1, h2]) rfl (by simp_all [Instr.wf])
theorem vbcast (d : Nat) (nb : Bool) (a : Src) (w : Nat) : Statement (.vbcast d nb a w) :=
  of_one (mods := 3) (m := w) (fun f a m => .vbcast f.d f.nb a m) rfl rfl (by omega) (by omega) (by omega)
    (by intro w e h1 h2; simp [decodeSlot, decodeV, h1, h2]) rfl (by simp_all [Instr.wf])
theorem vextr (d : Nat) (nb : Bool) (a : Src) (b : Src) (w : Nat) : Statement (.vextr d nb a b w) :=
  of_two (mods := 3) (m := w) (fun f a b m => .vextr f.d f.nb a b m) rfl rfl (by omega) (by omega) (by omega)
    (by intro w e h1 h2; simp [decodeSlot, decodeV, h1, h2]) rfl (by simp_all [Instr.wf])
theorem vins (d : Nat) (nb : Bool) (a : Src) (b : Src) (w : Nat) : Statement (.vins d nb a b w) :=
  of_two (mods := 3) (m := w) (fun f a b m => .vins f.d f.nb a b m) rfl rfl (by omega) (by omega) (by omega)
    (by intro w e h1 h2; simp [decodeSlot, decodeV, h1, h2]) rfl (by simp_all [Instr.wf])
theorem vpermz (d : Nat) (nb : Bool) (a : Src) (b : Src) (w : Nat) : Statement (.vpermz d nb a b w) :=
  of_two (mods := 3) (m := w) (fun f a b m => .vpermz f.d f.nb a b m) rfl rfl (by omega) (by omega) (by omega)
    (by intro w e h1 h2; simp [decodeSlot, decodeV, h1, h2]) rfl (by simp_all [Instr.wf])
theorem vrot (d : Nat) (nb : Bool) (a : Src) (b : Src) (w : Nat) : Statement (.vrot d nb a b w) :=
  of_two (mods := 3) (m := w) (fun f a b m => .vrot f.d f.nb a b m) rfl rfl (by omega) (by omega) (by omega)
    (by intro w e h1 h2; simp [decodeSlot, decodeV, h1, h2]) rfl (by simp_all [Instr.wf])
theorem viota (d : Nat) (nb : Bool) (a : Src) (w : Nat) : Statement (.viota d nb a w) :=
  of_one (mods := 3) (m := w) (fun f a m => .viota f.d f.nb a m) rfl rfl (by omega) (by omega) (by omega)
    (by intro w e h1 h2; simp [decodeSlot, decodeV, h1, h2]) rfl (by simp_all [Instr.wf])
theorem vredadd (d : Nat) (nb : Bool) (a : Src) (w : Nat) : Statement (.vredadd d nb a w) :=
  of_one (mods := 3) (m := w) (fun f a m => .vredadd f.d f.nb a m) rfl rfl (by omega) (by omega) (by omega)
    (by intro w e h1 h2; simp [decodeSlot, decodeV, h1, h2]) rfl (by simp_all [Instr.wf])
theorem vredmax (d : Nat) (nb : Bool) (a : Src) (w : Nat) : Statement (.vredmax d nb a w) :=
  of_one (mods := 3) (m := w) (fun f a m => .vredmax f.d f.nb a m) rfl rfl (by omega) (by omega) (by omega)
    (by intro w e h1 h2; simp [decodeSlot, decodeV, h1, h2]) rfl (by simp_all [Instr.wf])
theorem vredmin (d : Nat) (nb : Bool) (a : Src) (w : Nat) : Statement (.vredmin d nb a w) :=
  of_one (mods := 3) (m := w) (fun f a m => .vredmin f.d f.nb a m) rfl rfl (by omega) (by omega) (by omega)
    (by intro w e h1 h2; simp [decodeSlot, decodeV, h1, h2]) rfl (by simp_all [Instr.wf])
theorem vmaxi (d : Nat) (nb : Bool) (a : Src) (w : Nat) : Statement (.vmaxi d nb a w) :=
  of_one (mods := 3) (m := w) (fun f a m => .vmaxi f.d f.nb a m) rfl rfl (by omega) (by omega) (by omega)
    (by intro w e h1 h2; simp [decodeSlot, decodeV, h1, h2]) rfl (by simp_all [Instr.wf])
theorem vmini (d : Nat) (nb : Bool) (a : Src) (w : Nat) : Statement (.vmini d nb a w) :=
  of_one (mods := 3) (m := w) (fun f a m => .vmini f.d f.nb a m) rfl rfl (by omega) (by omega) (by omega)
    (by intro w e h1 h2; simp [decodeSlot, decodeV, h1, h2]) rfl (by simp_all [Instr.wf])
theorem vcvt (d : Nat) (nb : Bool) (a : Src) (w : Nat) : Statement (.vcvt d nb a w) :=
  of_one (mods := 3) (m := w) (fun f a m => .vcvt f.d f.nb a m) rfl rfl (by omega) (by omega) (by omega)
    (by intro w e h1 h2; simp [decodeSlot, decodeV, h1, h2]) rfl (by simp_all [Instr.wf])
theorem vqnt (d : Nat) (nb : Bool) (a : Src) (b : Src) (w : Nat) : Statement (.vqnt d nb a b w) :=
  of_two (mods := 3) (m := w) (fun f a b m => .vqnt f.d f.nb a b m) rfl rfl (by omega) (by omega) (by omega)
    (by intro w e h1 h2; simp [decodeSlot, decodeV, h1, h2]) rfl (by simp_all [Instr.wf])
theorem vperm (d : Nat) (nb : Bool) (a : Src) (b : Src) (w : Nat) : Statement (.vperm d nb a b w) :=
  of_two (mods := 3) (m := w) (fun f a b m => .vperm f.d f.nb a b m) rfl rfl (by omega) (by omega) (by omega)
    (by intro w e h1 h2; simp [decodeSlot, decodeV, h1, h2]) rfl (by simp_all [Instr.wf])
theorem vdqnt (d : Nat) (nb : Bool) (a : Src) (b : Src) (w : Nat) : Statement (.vdqnt d nb a b w) :=
  of_two (mods := 3) (m := w) (fun f a b m => .vdqnt f.d f.nb a b m) rfl rfl (by omega) (by omega) (by omega)
    (by intro w e h1 h2; simp [decodeSlot, decodeV, h1, h2]) rfl (by simp_all [Instr.wf])
theorem vpack (d : Nat) (nb : Bool) (a : Src) (b : Src) (w : Nat) : Statement (.vpack d nb a b w) :=
  of_two (mods := 3) (m := w) (fun f a b m => .vpack f.d f.nb a b m) rfl rfl (by omega) (by omega) (by omega)
    (by intro w e h1 h2; simp [decodeSlot, decodeV, h1, h2]) rfl (by simp_all [Instr.wf])
theorem vunpk (d : Nat) (nb : Bool) (a : Src) (b : Src) (w : Nat) : Statement (.vunpk d nb a b w) :=
  of_two (mods := 3) (m := w) (fun f a b m => .vunpk f.d f.nb a b m) rfl rfl (by omega) (by omega) (by omega)
    (by intro w e h1 h2; simp [decodeSlot, decodeV, h1, h2]) rfl (by simp_all [Instr.wf])
theorem vscale (d : Nat) (nb : Bool) (a : Src) (b : Src) (w : Nat) : Statement (.vscale d nb a b w) :=
  of_two (mods := 3) (m := w) (fun f a b m => .vscale f.d f.nb a b m) rfl rfl (by omega) (by omega) (by omega)
    (by intro w e h1 h2; simp [decodeSlot, decodeV, h1, h2]) rfl (by simp_all [Instr.wf])
theorem vclamp (d : Nat) (nb : Bool) (a : Src) (b : Src) (w : Nat) : Statement (.vclamp d nb a b w) :=
  of_two (mods := 3) (m := w) (fun f a b m => .vclamp f.d f.nb a b m) rfl rfl (by omega) (by omega) (by omega)
    (by intro w e h1 h2; simp [decodeSlot, decodeV, h1, h2]) rfl (by simp_all [Instr.wf])
theorem resultWriteback (n : Nat) : Statement (.resultWriteback n) := of_event rfl
theorem tileBusyClear (n : Nat) : Statement (.tileBusyClear n) := of_event rfl
theorem weightFillComplete (n : Nat) : Statement (.weightFillComplete n) := of_event rfl
theorem fmtShadowEnd (n : Nat) : Statement (.fmtShadowEnd n) := of_event rfl
theorem maskSelectorUpdate (n : Nat) : Statement (.maskSelectorUpdate n) := of_event rfl
theorem zloopLevelExit (n : Nat) : Statement (.zloopLevelExit n) := of_event rfl
theorem waitcExpiry (n : Nat) : Statement (.waitcExpiry n) := of_event rfl
theorem waittExpiry (n : Nat) : Statement (.waittExpiry n) := of_event rfl
theorem overrunFault (n : Nat) : Statement (.overrunFault n) := of_event rfl
theorem trapEntry (n : Nat) : Statement (.trapEntry n) := of_event rfl
theorem farRequestArrival (r : Nat) : Statement (.farRequestArrival r) := of_event rfl
theorem foreignRequestService (v : Nat) : Statement (.foreignRequestService v) := of_event rfl
theorem farLdReply (r : Nat) : Statement (.farLdReply r) := of_event rfl
theorem engineOpStart (o : Nat) : Statement (.engineOpStart o) := of_event rfl
theorem cpyDeparture (o : Nat) : Statement (.cpyDeparture o) := of_event rfl
theorem cpyTransferEnd (o : Nat) : Statement (.cpyTransferEnd o) := of_event rfl
theorem cpyCompletion (o : Nat) : Statement (.cpyCompletion o) := of_event rfl
theorem gathCompletion (o : Nat) : Statement (.gathCompletion o) := of_event rfl
theorem scacCompletion (o : Nat) : Statement (.scacCompletion o) := of_event rfl
theorem routineOpCompletion (o : Nat) : Statement (.routineOpCompletion o) := of_event rfl
theorem rbfillWordWrite (n : Nat) : Statement (.rbfillWordWrite n) := of_event rfl
theorem vrunArrival (o : Nat) : Statement (.vrunArrival o) := of_event rfl
theorem vaultProgramStart (v : Nat) : Statement (.vaultProgramStart v) := of_event rfl
theorem vstopArrival (v : Nat) (n : Nat) : Statement (.vstopArrival v n) := of_event rfl
theorem vaultProgramEnd (v : Nat) : Statement (.vaultProgramEnd v) := of_event rfl
theorem wrUnitRead (v : Nat) : Statement (.wrUnitRead v) := of_event rfl
theorem platformDelivery (o : Nat) : Statement (.platformDelivery o) := of_event rfl
theorem refreshAccrual (v : Nat) (pc : Nat) : Statement (.refreshAccrual v pc) := of_event rfl
theorem forcedRefresh (v : Nat) (pc : Nat) : Statement (.forcedRefresh v pc) := of_event rfl
theorem insertedRefresh (v : Nat) (pc : Nat) : Statement (.insertedRefresh v pc) := of_event rfl
theorem scrubRead (v : Nat) (pc : Nat) (bank : Nat) (row : Nat) (col : Nat) : Statement (.scrubRead v pc bank row col) := of_event rfl
theorem barrierResume (n : Nat) (level : Nat) : Statement (.barrierResume n level) := of_event rfl
theorem exchangeArrival (k : Nat) : Statement (.exchangeArrival k) := of_event rfl
theorem ttOutEntry (n : Nat) (e : Nat) : Statement (.ttOutEntry n e) := of_event rfl
theorem ttFlitArrival (k : Nat) : Statement (.ttFlitArrival k) := of_event rfl
theorem ttEntryLate (n : Nat) (e : Nat) : Statement (.ttEntryLate n e) := of_event rfl
theorem ttEntryMissing (n : Nat) (e : Nat) : Statement (.ttEntryMissing n e) := of_event rfl
theorem ttEnd (n : Nat) : Statement (.ttEnd n) := of_event rfl
theorem lsendFlitDelivery (k : Nat) : Statement (.lsendFlitDelivery k) := of_event rfl
theorem lsendRetire (o : Nat) : Statement (.lsendRetire o) := of_event rfl
theorem dlvwaitRelease (n : Nat) : Statement (.dlvwaitRelease n) := of_event rfl
theorem dlvwaitDeadline (n : Nat) : Statement (.dlvwaitDeadline n) := of_event rfl
theorem collDelivery (o : Nat) : Statement (.collDelivery o) := of_event rfl
theorem linkFlitResend (port : Nat) (k : Nat) : Statement (.linkFlitResend port k) := of_event rfl
theorem yardDispatch (y : Nat) : Statement (.yardDispatch y) := of_event rfl
theorem taskStart (t : Nat) : Statement (.taskStart t) := of_event rfl
theorem reservation (y : Nat) (t : Nat) : Statement (.reservation y t) := of_event rfl
theorem preemptionRequest (y : Nat) (t : Nat) : Statement (.preemptionRequest y t) := of_event rfl
theorem contextSave (t : Nat) : Statement (.contextSave t) := of_event rfl
theorem contextRestore (t : Nat) : Statement (.contextRestore t) := of_event rfl
theorem finwaitSuspend (t : Nat) : Statement (.finwaitSuspend t) := of_event rfl
theorem tretComplete (t : Nat) : Statement (.tretComplete t) := of_event rfl
theorem outwardMerge (t : Nat) : Statement (.outwardMerge t) := of_event rfl
theorem scopeComplete (f : Nat) : Statement (.scopeComplete f) := of_event rfl
theorem taskFailure (t : Nat) (cause : Nat) : Statement (.taskFailure t cause) := of_event rfl
theorem reExecution (t : Nat) : Statement (.reExecution t) := of_event rfl
theorem pubVersionWrite (o : Nat) : Statement (.pubVersionWrite o) := of_event rfl
theorem hostWindowAccess (ctx : Nat) (win : Nat) (write : Nat) (off : Nat) : Statement (.hostWindowAccess ctx win write off) := of_event rfl
theorem correctedError (place : Nat) (addr : Nat) (bit : Nat) : Statement (.correctedError place addr bit) := of_event rfl
theorem uncorrectableSramError (n : Nat) (addr : Nat) : Statement (.uncorrectableSramError n addr) := of_event rfl
theorem uncorrectableDramError (v : Nat) (addr : Nat) : Statement (.uncorrectableDramError v addr) := of_event rfl
theorem xinvRemoval (slots : Nat) : Statement (.xinvRemoval slots) := of_event rfl
theorem xinvDone : Statement (.xinvDone) := of_event rfl
theorem tagvalWrite (n : Nat) (v : Word) : Statement (.tagvalWrite n v) := of_event rfl
theorem fenceBitWrite (r : Nat) (v : Word) : Statement (.fenceBitWrite r v) := of_event rfl
theorem injectorArm (j : Nat) (v : Word) : Statement (.injectorArm j v) := of_event rfl
theorem crcstWrite (n : Nat) (v : Word) : Statement (.crcstWrite n v) := of_event rfl
theorem ctimeWrite (n : Nat) (v : Word) : Statement (.ctimeWrite n v) := of_event rfl
theorem ctrimWrite (v : Word) : Statement (.ctrimWrite v) := of_event rfl
theorem platformRegisterWrite (n : Nat) (j : Nat) (v : Word) : Statement (.platformRegisterWrite n j v) := of_event rfl
theorem yctlWrite (j : Nat) (v : Word) : Statement (.yctlWrite j v) := of_event rfl
theorem systemRegisterWrite (n : Nat) (r : Nat) (v : Word) : Statement (.systemRegisterWrite n r v) := of_event rfl
theorem illegalCommand (v : Nat) : Statement (.illegalCommand v) := of_event rfl
theorem linkEvent (port : Nat) : Statement (.linkEvent port) := of_event rfl
theorem farEndAcknowledgement (port : Nat) (k : Nat) : Statement (.farEndAcknowledgement port k) := of_event rfl
theorem lsendReadCompletion (o : Nat) : Statement (.lsendReadCompletion o) := of_event rfl
theorem thermalHoldRelease (temp : Nat) : Statement (.thermalHoldRelease temp) := of_event rfl
theorem droopStretch (level : Nat) : Statement (.droopStretch level) := of_event rfl
theorem frameRetry (port : Nat) (k : Nat) : Statement (.frameRetry port k) := of_event rfl
theorem ptpMessage (port : Nat) (t1 : Nat) (t2 : Nat) (t3 : Nat) (t4 : Nat) : Statement (.ptpMessage port t1 t2 t3 t4) := of_event rfl
theorem lockLoss : Statement (.lockLoss) := of_event rfl
theorem mailboxEntry (k : Nat) : Statement (.mailboxEntry k) := of_event rfl
theorem sensorRead (sensor : Nat) : Statement (.sensorRead sensor) := of_event rfl
theorem stretchEnd : Statement (.stretchEnd) := of_event rfl
theorem powerCapExceeded (watts : Nat) : Statement (.powerCapExceeded watts) := of_event rfl
theorem powerCapClear (watts : Nat) : Statement (.powerCapClear watts) := of_event rfl
theorem powerCapSet (watts : Nat) : Statement (.powerCapSet watts) := of_event rfl
theorem thermalWarning (temp : Nat) : Statement (.thermalWarning temp) := of_event rfl
theorem thermalHold (temp : Nat) : Statement (.thermalHold temp) := of_event rfl
theorem thermalTrip (temp : Nat) : Statement (.thermalTrip temp) := of_event rfl
theorem sensorUpdate (sensor : Nat) (value : Nat) : Statement (.sensorUpdate sensor value) := of_event rfl
theorem firmwareUpdate (digest : Nat) (ok : Nat) : Statement (.firmwareUpdate digest ok) := of_event rfl
theorem attestationReport (slot : Nat) (session : Nat) : Statement (.attestationReport slot session) := of_event rfl
theorem keyInstall (slot : Nat) (session : Nat) : Statement (.keyInstall slot session) := of_event rfl
theorem linkAttestation (port : Nat) (peer : Nat) (peerPort : Nat) (ok : Nat) : Statement (.linkAttestation port peer peerPort ok) := of_event rfl
theorem linkRekey (port : Nat) : Statement (.linkRekey port) := of_event rfl
theorem imageAuthentication (slot : Nat) (image : Nat) : Statement (.imageAuthentication slot image) := of_event rfl
theorem bringUp : Statement (.bringUp) := of_event rfl
theorem nop : Statement (.nop) := by
  intro hw w e hwe
  simp only [Instr.wf, wfCol, wfType, Bool.and_eq_true, Bool.or_eq_true, decide_eq_true_eq, beq_iff_eq] at hw
  obtain ⟨rfl, rfl⟩ := by simpa [encode] using hwe
  have h0 : bitsOf (encCtl 0 0) 0 26 = 0 := by simp only [bitsOf, encCtl, encVlt, encPar, encColumn, Nat.reducePow] <;> omega
  have h1 : bitsOf (encCtl 0 0) 26 6 = 0 := by simp only [bitsOf, encCtl, encVlt, encPar, encColumn, Nat.reducePow] <;> omega
  have h9 : (encCtl 0 0) % 67108864 = 0 := by simp only [encCtl]
  refine ⟨by simp only [encCtl, encVlt, encPar, encColumn, Nat.reducePow] <;> omega, ?_⟩
  simp_all [Instr.kind, decodeControl, guardWord, extOf, h0, h1, h9]
theorem br (t : Nat) : Statement (.br t) := by
  intro hw w e hwe
  simp only [Instr.wf, wfCol, wfType, Bool.and_eq_true, Bool.or_eq_true, decide_eq_true_eq, beq_iff_eq] at hw
  obtain ⟨rfl, rfl⟩ := by simpa [encode] using hwe
  have h0 : bitsOf (encCtl 1 t) 0 14 = t := by simp only [bitsOf, encCtl, encVlt, encPar, encColumn, Nat.reducePow] <;> omega
  have h1 : bitsOf (encCtl 1 t) 14 12 = 0 := by simp only [bitsOf, encCtl, encVlt, encPar, encColumn, Nat.reducePow] <;> omega
  have h2 : bitsOf (encCtl 1 t) 26 6 = 1 := by simp only [bitsOf, encCtl, encVlt, encPar, encColumn, Nat.reducePow] <;> omega
  refine ⟨by simp only [encCtl, encVlt, encPar, encColumn, Nat.reducePow] <;> omega, ?_⟩
  simp_all [Instr.kind, decodeControl, guardWord, extOf, h0, h1, h2]
theorem brc (s : Nat) (c : Nat) (t : Nat) : Statement (.brc s c t) := by
  intro hw w e hwe
  simp only [Instr.wf, wfCol, wfType, Bool.and_eq_true, Bool.or_eq_true, decide_eq_true_eq, beq_iff_eq] at hw
  obtain ⟨rfl, rfl⟩ := by simpa [encode] using hwe
  have h0 : bitsOf (encCtl 2 (s * 1048576 + c * 131072 + t)) 0 14 = t := by simp only [bitsOf, encCtl, encVlt, encPar, encColumn, Nat.reducePow] <;> omega
  have h1 : bitsOf (encCtl 2 (s * 1048576 + c * 131072 + t)) 14 3 = 0 := by simp only [bitsOf, encCtl, encVlt, encPar, encColumn, Nat.reducePow] <;> omega
  have h2 : bitsOf (encCtl 2 (s * 1048576 + c * 131072 + t)) 17 3 = c := by simp only [bitsOf, encCtl, encVlt, encPar, encColumn, Nat.reducePow] <;> omega
  have h3 : bitsOf (encCtl 2 (s * 1048576 + c * 131072 + t)) 20 6 = s := by simp only [bitsOf, encCtl, encVlt, encPar, encColumn, Nat.reducePow] <;> omega
  have h4 : bitsOf (encCtl 2 (s * 1048576 + c * 131072 + t)) 26 6 = 2 := by simp only [bitsOf, encCtl, encVlt, encPar, encColumn, Nat.reducePow] <;> omega
  refine ⟨by simp only [encCtl, encVlt, encPar, encColumn, Nat.reducePow] <;> omega, ?_⟩
  simp_all [Instr.kind, decodeControl, guardWord, extOf, h0, h1, h2, h3, h4]
theorem brl (d : Nat) (t : Nat) : Statement (.brl d t) := by
  intro hw w e hwe
  simp only [Instr.wf, wfCol, wfType, Bool.and_eq_true, Bool.or_eq_true, decide_eq_true_eq, beq_iff_eq] at hw
  obtain ⟨rfl, rfl⟩ := by simpa [encode] using hwe
  have h0 : bitsOf (encCtl 3 (d * 1048576 + t)) 0 14 = t := by simp only [bitsOf, encCtl, encVlt, encPar, encColumn, Nat.reducePow] <;> omega
  have h1 : bitsOf (encCtl 3 (d * 1048576 + t)) 14 6 = 0 := by simp only [bitsOf, encCtl, encVlt, encPar, encColumn, Nat.reducePow] <;> omega
  have h2 : bitsOf (encCtl 3 (d * 1048576 + t)) 20 6 = d := by simp only [bitsOf, encCtl, encVlt, encPar, encColumn, Nat.reducePow] <;> omega
  have h3 : bitsOf (encCtl 3 (d * 1048576 + t)) 26 6 = 3 := by simp only [bitsOf, encCtl, encVlt, encPar, encColumn, Nat.reducePow] <;> omega
  refine ⟨by simp only [encCtl, encVlt, encPar, encColumn, Nat.reducePow] <;> omega, ?_⟩
  simp_all [Instr.kind, decodeControl, guardWord, extOf, h0, h1, h2, h3]
theorem brx (s : Nat) : Statement (.brx s) := by
  intro hw w e hwe
  simp only [Instr.wf, wfCol, wfType, Bool.and_eq_true, Bool.or_eq_true, decide_eq_true_eq, beq_iff_eq] at hw
  obtain ⟨rfl, rfl⟩ := by simpa [encode] using hwe
  have h0 : bitsOf (encCtl 4 (s * 1048576)) 0 20 = 0 := by simp only [bitsOf, encCtl, encVlt, encPar, encColumn, Nat.reducePow] <;> omega
  have h1 : bitsOf (encCtl 4 (s * 1048576)) 20 6 = s := by simp only [bitsOf, encCtl, encVlt, encPar, encColumn, Nat.reducePow] <;> omega
  have h2 : bitsOf (encCtl 4 (s * 1048576)) 26 6 = 4 := by simp only [bitsOf, encCtl, encVlt, encPar, encColumn, Nat.reducePow] <;> omega
  refine ⟨by simp only [encCtl, encVlt, encPar, encColumn, Nat.reducePow] <;> omega, ?_⟩
  simp_all [Instr.kind, decodeControl, guardWord, extOf, h0, h1, h2]
theorem zloop (s : Nat) (e : Nat) : Statement (.zloop s e) := by
  intro hw w e hwe
  simp only [Instr.wf, wfCol, wfType, Bool.and_eq_true, Bool.or_eq_true, decide_eq_true_eq, beq_iff_eq] at hw
  obtain ⟨rfl, rfl⟩ := by simpa [encode] using hwe
  have h0 : bitsOf (encCtl 5 (s * 1048576 + e)) 0 14 = e := by simp only [bitsOf, encCtl, encVlt, encPar, encColumn, Nat.reducePow] <;> omega
  have h1 : bitsOf (encCtl 5 (s * 1048576 + e)) 14 6 = 0 := by simp only [bitsOf, encCtl, encVlt, encPar, encColumn, Nat.reducePow] <;> omega
  have h2 : bitsOf (encCtl 5 (s * 1048576 + e)) 20 6 = s := by simp only [bitsOf, encCtl, encVlt, encPar, encColumn, Nat.reducePow] <;> omega
  have h3 : bitsOf (encCtl 5 (s * 1048576 + e)) 26 6 = 5 := by simp only [bitsOf, encCtl, encVlt, encPar, encColumn, Nat.reducePow] <;> omega
  refine ⟨by simp only [encCtl, encVlt, encPar, encColumn, Nat.reducePow] <;> omega, ?_⟩
  simp_all [Instr.kind, decodeControl, guardWord, extOf, h0, h1, h2, h3]
theorem close : Statement (.close) := by
  intro hw w e hwe
  simp only [Instr.wf, wfCol, wfType, Bool.and_eq_true, Bool.or_eq_true, decide_eq_true_eq, beq_iff_eq] at hw
  obtain ⟨rfl, rfl⟩ := by simpa [encode] using hwe
  have h0 : bitsOf (encCtl 6 0) 0 26 = 0 := by simp only [bitsOf, encCtl, encVlt, encPar, encColumn, Nat.reducePow] <;> omega
  have h1 : bitsOf (encCtl 6 0) 26 6 = 6 := by simp only [bitsOf, encCtl, encVlt, encPar, encColumn, Nat.reducePow] <;> omega
  have h9 : (encCtl 6 0) % 67108864 = 0 := by simp only [encCtl]
  refine ⟨by simp only [encCtl, encVlt, encPar, encColumn, Nat.reducePow] <;> omega, ?_⟩
  simp_all [Instr.kind, decodeControl, guardWord, extOf, h0, h1, h9]
theorem waitc (s : Nat) (n : Nat) : Statement (.waitc s n) := by
  intro hw w e hwe
  simp only [Instr.wf, wfCol, wfType, Bool.and_eq_true, Bool.or_eq_true, decide_eq_true_eq, beq_iff_eq] at hw
  obtain ⟨rfl, rfl⟩ := by simpa [encode] using hwe
  have h0 : bitsOf (encCtl 7 (s * 1048576 + n)) 0 20 = n := by simp only [bitsOf, encCtl, encVlt, encPar, encColumn, Nat.reducePow] <;> omega
  have h1 : bitsOf (encCtl 7 (s * 1048576 + n)) 20 6 = s := by simp only [bitsOf, encCtl, encVlt, encPar, encColumn, Nat.reducePow] <;> omega
  have h2 : bitsOf (encCtl 7 (s * 1048576 + n)) 26 6 = 7 := by simp only [bitsOf, encCtl, encVlt, encPar, encColumn, Nat.reducePow] <;> omega
  refine ⟨by simp only [encCtl, encVlt, encPar, encColumn, Nat.reducePow] <;> omega, ?_⟩
  simp_all [Instr.kind, decodeControl, guardWord, extOf, h0, h1, h2]
theorem waitt (s : Nat) : Statement (.waitt s) := by
  intro hw w e hwe
  simp only [Instr.wf, wfCol, wfType, Bool.and_eq_true, Bool.or_eq_true, decide_eq_true_eq, beq_iff_eq] at hw
  obtain ⟨rfl, rfl⟩ := by simpa [encode] using hwe
  have h0 : bitsOf (encCtl 8 (s * 1048576)) 0 20 = 0 := by simp only [bitsOf, encCtl, encVlt, encPar, encColumn, Nat.reducePow] <;> omega
  have h1 : bitsOf (encCtl 8 (s * 1048576)) 20 6 = s := by simp only [bitsOf, encCtl, encVlt, encPar, encColumn, Nat.reducePow] <;> omega
  have h2 : bitsOf (encCtl 8 (s * 1048576)) 26 6 = 8 := by simp only [bitsOf, encCtl, encVlt, encPar, encColumn, Nat.reducePow] <;> omega
  refine ⟨by simp only [encCtl, encVlt, encPar, encColumn, Nat.reducePow] <;> omega, ?_⟩
  simp_all [Instr.kind, decodeControl, guardWord, extOf, h0, h1, h2]
theorem syncd (l : Nat) : Statement (.syncd l) := by
  intro hw w e hwe
  simp only [Instr.wf, wfCol, wfType, Bool.and_eq_true, Bool.or_eq_true, decide_eq_true_eq, beq_iff_eq] at hw
  obtain ⟨rfl, rfl⟩ := by simpa [encode] using hwe
  have h0 : bitsOf (encCtl 9 (l * 8388608)) 0 23 = 0 := by simp only [bitsOf, encCtl, encVlt, encPar, encColumn, Nat.reducePow] <;> omega
  have h1 : bitsOf (encCtl 9 (l * 8388608)) 23 3 = l := by simp only [bitsOf, encCtl, encVlt, encPar, encColumn, Nat.reducePow] <;> omega
  have h2 : bitsOf (encCtl 9 (l * 8388608)) 26 6 = 9 := by simp only [bitsOf, encCtl, encVlt, encPar, encColumn, Nat.reducePow] <;> omega
  refine ⟨by simp only [encCtl, encVlt, encPar, encColumn, Nat.reducePow] <;> omega, ?_⟩
  simp_all [Instr.kind, decodeControl, guardWord, extOf, h0, h1, h2]
  omega
theorem setfmt (s : Nat) (t : Nat) : Statement (.setfmt s t) := by
  intro hw w e hwe
  simp only [Instr.wf, wfCol, wfType, Bool.and_eq_true, Bool.or_eq_true, decide_eq_true_eq, beq_iff_eq] at hw
  obtain ⟨rfl, rfl⟩ := by simpa [encode] using hwe
  have h0 : bitsOf (encCtl 10 (s * 1048576 + t * 65536)) 0 16 = 0 := by simp only [bitsOf, encCtl, encVlt, encPar, encColumn, Nat.reducePow] <;> omega
  have h1 : bitsOf (encCtl 10 (s * 1048576 + t * 65536)) 16 4 = t := by simp only [bitsOf, encCtl, encVlt, encPar, encColumn, Nat.reducePow] <;> omega
  have h2 : bitsOf (encCtl 10 (s * 1048576 + t * 65536)) 20 6 = s := by simp only [bitsOf, encCtl, encVlt, encPar, encColumn, Nat.reducePow] <;> omega
  have h3 : bitsOf (encCtl 10 (s * 1048576 + t * 65536)) 26 6 = 10 := by simp only [bitsOf, encCtl, encVlt, encPar, encColumn, Nat.reducePow] <;> omega
  refine ⟨by simp only [encCtl, encVlt, encPar, encColumn, Nat.reducePow] <;> omega, ?_⟩
  simp_all [Instr.kind, decodeControl, guardWord, extOf, h0, h1, h2, h3]
theorem setmsk (m3 : Nat) (z3 : Nat) (m4 : Nat) (z4 : Nat) (m5 : Nat) (z5 : Nat) (keep : Nat) : Statement (.setmsk m3 z3 m4 z4 m5 z5 keep) := by
  intro hw w e hwe
  simp only [Instr.wf, wfCol, wfType, Bool.and_eq_true, Bool.or_eq_true, decide_eq_true_eq, beq_iff_eq] at hw
  obtain ⟨rfl, rfl⟩ := by simpa [encode] using hwe
  have h0 : bitsOf (encCtl 11 (m3 * 4194304 + z3 * 2097152 + m4 * 131072 + z4 * 65536 + m5 * 4096 + z5 * 2048 + keep)) 0 3 = keep := by simp only [bitsOf, encCtl, encVlt, encPar, encColumn, Nat.reducePow] <;> omega
  have h1 : bitsOf (encCtl 11 (m3 * 4194304 + z3 * 2097152 + m4 * 131072 + z4 * 65536 + m5 * 4096 + z5 * 2048 + keep)) 3 8 = 0 := by simp only [bitsOf, encCtl, encVlt, encPar, encColumn, Nat.reducePow] <;> omega
  have h2 : bitsOf (encCtl 11 (m3 * 4194304 + z3 * 2097152 + m4 * 131072 + z4 * 65536 + m5 * 4096 + z5 * 2048 + keep)) 11 1 = z5 := by simp only [bitsOf, encCtl, encVlt, encPar, encColumn, Nat.reducePow] <;> omega
  have h3 : bitsOf (encCtl 11 (m3 * 4194304 + z3 * 2097152 + m4 * 131072 + z4 * 65536 + m5 * 4096 + z5 * 2048 + keep)) 12 4 = m5 := by simp only [bitsOf, encCtl, encVlt, encPar, encColumn, Nat.reducePow] <;> omega
  have h4 : bitsOf (encCtl 11 (m3 * 4194304 + z3 * 2097152 + m4 * 131072 + z4 * 65536 + m5 * 4096 + z5 * 2048 + keep)) 16 1 = z4 := by simp only [bitsOf, encCtl, encVlt, encPar, encColumn, Nat.reducePow] <;> omega
  have h5 : bitsOf (encCtl 11 (m3 * 4194304 + z3 * 2097152 + m4 * 131072 + z4 * 65536 + m5 * 4096 + z5 * 2048 + keep)) 17 4 = m4 := by simp only [bitsOf, encCtl, encVlt, encPar, encColumn, Nat.reducePow] <;> omega
  have h6 : bitsOf (encCtl 11 (m3 * 4194304 + z3 * 2097152 + m4 * 131072 + z4 * 65536 + m5 * 4096 + z5 * 2048 + keep)) 21 1 = z3 := by simp only [bitsOf, encCtl, encVlt, encPar, encColumn, Nat.reducePow] <;> omega
  have h7 : bitsOf (encCtl 11 (m3 * 4194304 + z3 * 2097152 + m4 * 131072 + z4 * 65536 + m5 * 4096 + z5 * 2048 + keep)) 22 4 = m3 := by simp only [bitsOf, encCtl, encVlt, encPar, encColumn, Nat.reducePow] <;> omega
  have h8 : bitsOf (encCtl 11 (m3 * 4194304 + z3 * 2097152 + m4 * 131072 + z4 * 65536 + m5 * 4096 + z5 * 2048 + keep)) 26 6 = 11 := by simp only [bitsOf, encCtl, encVlt, encPar, encColumn, Nat.reducePow] <;> omega
  refine ⟨by simp only [encCtl, encVlt, encPar, encColumn, Nat.reducePow] <;> omega, ?_⟩
  simp_all [Instr.kind, decodeControl, guardWord, extOf, h0, h1, h2, h3, h4, h5, h6, h7, h8]
  omega
theorem spawn (q : Nat) (e : Nat) : Statement (.spawn q e) := by
  intro hw w e hwe
  simp only [Instr.wf, wfCol, wfType, Bool.and_eq_true, Bool.or_eq_true, decide_eq_true_eq, beq_iff_eq] at hw
  obtain ⟨rfl, rfl⟩ := by simpa [encode] using hwe
  have h0 : bitsOf (encCtl 12 (q * 16777216 + e)) 0 14 = e := by simp only [bitsOf, encCtl, encVlt, encPar, encColumn, Nat.reducePow] <;> omega
  have h1 : bitsOf (encCtl 12 (q * 16777216 + e)) 14 10 = 0 := by simp only [bitsOf, encCtl, encVlt, encPar, encColumn, Nat.reducePow] <;> omega
  have h2 : bitsOf (encCtl 12 (q * 16777216 + e)) 24 2 = q := by simp only [bitsOf, encCtl, encVlt, encPar, encColumn, Nat.reducePow] <;> omega
  have h3 : bitsOf (encCtl 12 (q * 16777216 + e)) 26 6 = 12 := by simp only [bitsOf, encCtl, encVlt, encPar, encColumn, Nat.reducePow] <;> omega
  refine ⟨by simp only [encCtl, encVlt, encPar, encColumn, Nat.reducePow] <;> omega, ?_⟩
  simp_all [Instr.kind, decodeControl, guardWord, extOf, h0, h1, h2, h3]
theorem tcall (rec : Nat) (xf : Nat) (tier : Nat) (nb : Nat) (nx : Nat) : Statement (.tcall rec xf tier nb nx) := by
  intro hw w e hwe
  simp only [Instr.wf, wfCol, wfType, Bool.and_eq_true, Bool.or_eq_true, decide_eq_true_eq, beq_iff_eq] at hw
  obtain ⟨rfl, rfl⟩ := by simpa [encode] using hwe
  have h0 : bitsOf (encCtl 13 (rec * 65536 + xf * 1024 + tier * 256 + nb * 16 + nx)) 0 4 = nx := by simp only [bitsOf, encCtl, encVlt, encPar, encColumn, Nat.reducePow] <;> omega
  have h1 : bitsOf (encCtl 13 (rec * 65536 + xf * 1024 + tier * 256 + nb * 16 + nx)) 4 4 = nb := by simp only [bitsOf, encCtl, encVlt, encPar, encColumn, Nat.reducePow] <;> omega
  have h2 : bitsOf (encCtl 13 (rec * 65536 + xf * 1024 + tier * 256 + nb * 16 + nx)) 8 2 = tier := by simp only [bitsOf, encCtl, encVlt, encPar, encColumn, Nat.reducePow] <;> omega
  have h3 : bitsOf (encCtl 13 (rec * 65536 + xf * 1024 + tier * 256 + nb * 16 + nx)) 10 6 = xf := by simp only [bitsOf, encCtl, encVlt, encPar, encColumn, Nat.reducePow] <;> omega
  have h4 : bitsOf (encCtl 13 (rec * 65536 + xf * 1024 + tier * 256 + nb * 16 + nx)) 16 10 = rec := by simp only [bitsOf, encCtl, encVlt, encPar, encColumn, Nat.reducePow] <;> omega
  have h5 : bitsOf (encCtl 13 (rec * 65536 + xf * 1024 + tier * 256 + nb * 16 + nx)) 26 6 = 13 := by simp only [bitsOf, encCtl, encVlt, encPar, encColumn, Nat.reducePow] <;> omega
  refine ⟨by simp only [encCtl, encVlt, encPar, encColumn, Nat.reducePow] <;> omega, ?_⟩
  simp_all [Instr.kind, decodeControl, guardWord, extOf, h0, h1, h2, h3, h4, h5]
theorem tret : Statement (.tret) := by
  intro hw w e hwe
  simp only [Instr.wf, wfCol, wfType, Bool.and_eq_true, Bool.or_eq_true, decide_eq_true_eq, beq_iff_eq] at hw
  obtain ⟨rfl, rfl⟩ := by simpa [encode] using hwe
  have h0 : bitsOf (encCtl 14 0) 0 26 = 0 := by simp only [bitsOf, encCtl, encVlt, encPar, encColumn, Nat.reducePow] <;> omega
  have h1 : bitsOf (encCtl 14 0) 26 6 = 14 := by simp only [bitsOf, encCtl, encVlt, encPar, encColumn, Nat.reducePow] <;> omega
  have h9 : (encCtl 14 0) % 67108864 = 0 := by simp only [encCtl]
  refine ⟨by simp only [encCtl, encVlt, encPar, encColumn, Nat.reducePow] <;> omega, ?_⟩
  simp_all [Instr.kind, decodeControl, guardWord, extOf, h0, h1, h9]
theorem finopen (d : Nat) : Statement (.finopen d) := by
  intro hw w e hwe
  simp only [Instr.wf, wfCol, wfType, Bool.and_eq_true, Bool.or_eq_true, decide_eq_true_eq, beq_iff_eq] at hw
  obtain ⟨rfl, rfl⟩ := by simpa [encode] using hwe
  have h0 : bitsOf (encCtl 15 (d * 1048576)) 0 20 = 0 := by simp only [bitsOf, encCtl, encVlt, encPar, encColumn, Nat.reducePow] <;> omega
  have h1 : bitsOf (encCtl 15 (d * 1048576)) 20 6 = d := by simp only [bitsOf, encCtl, encVlt, encPar, encColumn, Nat.reducePow] <;> omega
  have h2 : bitsOf (encCtl 15 (d * 1048576)) 26 6 = 15 := by simp only [bitsOf, encCtl, encVlt, encPar, encColumn, Nat.reducePow] <;> omega
  refine ⟨by simp only [encCtl, encVlt, encPar, encColumn, Nat.reducePow] <;> omega, ?_⟩
  simp_all [Instr.kind, decodeControl, guardWord, extOf, h0, h1, h2]
theorem finwait (f : Nat) : Statement (.finwait f) := by
  intro hw w e hwe
  simp only [Instr.wf, wfCol, wfType, Bool.and_eq_true, Bool.or_eq_true, decide_eq_true_eq, beq_iff_eq] at hw
  obtain ⟨rfl, rfl⟩ := by simpa [encode] using hwe
  have h0 : bitsOf (encCtl 16 (f * 1048576)) 0 20 = 0 := by simp only [bitsOf, encCtl, encVlt, encPar, encColumn, Nat.reducePow] <;> omega
  have h1 : bitsOf (encCtl 16 (f * 1048576)) 20 6 = f := by simp only [bitsOf, encCtl, encVlt, encPar, encColumn, Nat.reducePow] <;> omega
  have h2 : bitsOf (encCtl 16 (f * 1048576)) 26 6 = 16 := by simp only [bitsOf, encCtl, encVlt, encPar, encColumn, Nat.reducePow] <;> omega
  refine ⟨by simp only [encCtl, encVlt, encPar, encColumn, Nat.reducePow] <;> omega, ?_⟩
  simp_all [Instr.kind, decodeControl, guardWord, extOf, h0, h1, h2]
theorem trap (n : Nat) : Statement (.trap n) := by
  intro hw w e hwe
  simp only [Instr.wf, wfCol, wfType, Bool.and_eq_true, Bool.or_eq_true, decide_eq_true_eq, beq_iff_eq] at hw
  obtain ⟨rfl, rfl⟩ := by simpa [encode] using hwe
  have h0 : bitsOf (encCtl 17 (n * 1024)) 0 10 = 0 := by simp only [bitsOf, encCtl, encVlt, encPar, encColumn, Nat.reducePow] <;> omega
  have h1 : bitsOf (encCtl 17 (n * 1024)) 10 16 = n := by simp only [bitsOf, encCtl, encVlt, encPar, encColumn, Nat.reducePow] <;> omega
  have h2 : bitsOf (encCtl 17 (n * 1024)) 26 6 = 17 := by simp only [bitsOf, encCtl, encVlt, encPar, encColumn, Nat.reducePow] <;> omega
  refine ⟨by simp only [encCtl, encVlt, encPar, encColumn, Nat.reducePow] <;> omega, ?_⟩
  simp_all [Instr.kind, decodeControl, guardWord, extOf, h0, h1, h2]
theorem svc (n : Nat) : Statement (.svc n) := by
  intro hw w e hwe
  simp only [Instr.wf, wfCol, wfType, Bool.and_eq_true, Bool.or_eq_true, decide_eq_true_eq, beq_iff_eq] at hw
  obtain ⟨rfl, rfl⟩ := by simpa [encode] using hwe
  have h0 : bitsOf (encCtl 18 (n * 1024)) 0 10 = 0 := by simp only [bitsOf, encCtl, encVlt, encPar, encColumn, Nat.reducePow] <;> omega
  have h1 : bitsOf (encCtl 18 (n * 1024)) 10 16 = n := by simp only [bitsOf, encCtl, encVlt, encPar, encColumn, Nat.reducePow] <;> omega
  have h2 : bitsOf (encCtl 18 (n * 1024)) 26 6 = 18 := by simp only [bitsOf, encCtl, encVlt, encPar, encColumn, Nat.reducePow] <;> omega
  refine ⟨by simp only [encCtl, encVlt, encPar, encColumn, Nat.reducePow] <;> omega, ?_⟩
  simp_all [Instr.kind, decodeControl, guardWord, extOf, h0, h1, h2]
theorem eret : Statement (.eret) := by
  intro hw w e hwe
  simp only [Instr.wf, wfCol, wfType, Bool.and_eq_true, Bool.or_eq_true, decide_eq_true_eq, beq_iff_eq] at hw
  obtain ⟨rfl, rfl⟩ := by simpa [encode] using hwe
  have h0 : bitsOf (encCtl 19 0) 0 26 = 0 := by simp only [bitsOf, encCtl, encVlt, encPar, encColumn, Nat.reducePow] <;> omega
  have h1 : bitsOf (encCtl 19 0) 26 6 = 19 := by simp only [bitsOf, encCtl, encVlt, encPar, encColumn, Nat.reducePow] <;> omega
  have h9 : (encCtl 19 0) % 67108864 = 0 := by simp only [encCtl]
  refine ⟨by simp only [encCtl, encVlt, encPar, encColumn, Nat.reducePow] <;> omega, ?_⟩
  simp_all [Instr.kind, decodeControl, guardWord, extOf, h0, h1, h9]
theorem mfs (d : Nat) (r : Nat) : Statement (.mfs d r) := by
  intro hw w e hwe
  simp only [Instr.wf, wfCol, wfType, Bool.and_eq_true, Bool.or_eq_true, decide_eq_true_eq, beq_iff_eq] at hw
  obtain ⟨rfl, rfl⟩ := by simpa [encode] using hwe
  have h0 : bitsOf (encCtl 20 (d * 1048576 + r * 256)) 0 8 = 0 := by simp only [bitsOf, encCtl, encVlt, encPar, encColumn, Nat.reducePow] <;> omega
  have h1 : bitsOf (encCtl 20 (d * 1048576 + r * 256)) 8 12 = r := by simp only [bitsOf, encCtl, encVlt, encPar, encColumn, Nat.reducePow] <;> omega
  have h2 : bitsOf (encCtl 20 (d * 1048576 + r * 256)) 20 6 = d := by simp only [bitsOf, encCtl, encVlt, encPar, encColumn, Nat.reducePow] <;> omega
  have h3 : bitsOf (encCtl 20 (d * 1048576 + r * 256)) 26 6 = 20 := by simp only [bitsOf, encCtl, encVlt, encPar, encColumn, Nat.reducePow] <;> omega
  refine ⟨by simp only [encCtl, encVlt, encPar, encColumn, Nat.reducePow] <;> omega, ?_⟩
  simp_all [Instr.kind, decodeControl, guardWord, extOf, h0, h1, h2, h3]
theorem mts (s : Nat) (r : Nat) : Statement (.mts s r) := by
  intro hw w e hwe
  simp only [Instr.wf, wfCol, wfType, Bool.and_eq_true, Bool.or_eq_true, decide_eq_true_eq, beq_iff_eq] at hw
  obtain ⟨rfl, rfl⟩ := by simpa [encode] using hwe
  have h0 : bitsOf (encCtl 21 (s * 1048576 + r * 256)) 0 8 = 0 := by simp only [bitsOf, encCtl, encVlt, encPar, encColumn, Nat.reducePow] <;> omega
  have h1 : bitsOf (encCtl 21 (s * 1048576 + r * 256)) 8 12 = r := by simp only [bitsOf, encCtl, encVlt, encPar, encColumn, Nat.reducePow] <;> omega
  have h2 : bitsOf (encCtl 21 (s * 1048576 + r * 256)) 20 6 = s := by simp only [bitsOf, encCtl, encVlt, encPar, encColumn, Nat.reducePow] <;> omega
  have h3 : bitsOf (encCtl 21 (s * 1048576 + r * 256)) 26 6 = 21 := by simp only [bitsOf, encCtl, encVlt, encPar, encColumn, Nat.reducePow] <;> omega
  refine ⟨by simp only [encCtl, encVlt, encPar, encColumn, Nat.reducePow] <;> omega, ?_⟩
  simp_all [Instr.kind, decodeControl, guardWord, extOf, h0, h1, h2, h3]
theorem halt : Statement (.halt) := by
  intro hw w e hwe
  simp only [Instr.wf, wfCol, wfType, Bool.and_eq_true, Bool.or_eq_true, decide_eq_true_eq, beq_iff_eq] at hw
  obtain ⟨rfl, rfl⟩ := by simpa [encode] using hwe
  have h0 : bitsOf (encCtl 62 0) 0 26 = 0 := by simp only [bitsOf, encCtl, encVlt, encPar, encColumn, Nat.reducePow] <;> omega
  have h1 : bitsOf (encCtl 62 0) 26 6 = 62 := by simp only [bitsOf, encCtl, encVlt, encPar, encColumn, Nat.reducePow] <;> omega
  have h9 : (encCtl 62 0) % 67108864 = 0 := by simp only [encCtl]
  refine ⟨by simp only [encCtl, encVlt, encPar, encColumn, Nat.reducePow] <;> omega, ?_⟩
  simp_all [Instr.kind, decodeControl, guardWord, extOf, h0, h1, h9]
theorem hdr (sla : Nat) (exa : Nat) (slb : Nat) (exb : Nat) (slc : Nat) (exc : Nat) : Statement (.hdr sla exa slb exb slc exc) := by
  intro hw w e hwe
  simp only [Instr.wf, wfCol, wfType, Bool.and_eq_true, Bool.or_eq_true, decide_eq_true_eq, beq_iff_eq] at hw
  obtain ⟨rfl, rfl⟩ := by simpa [encode] using hwe
  have h0 : bitsOf (encCtl 63 (sla * 2097152 + exa * 65536 + slb * 8192 + exb * 256 + slc * 32 + exc)) 0 5 = exc := by simp only [bitsOf, encCtl, encVlt, encPar, encColumn, Nat.reducePow] <;> omega
  have h1 : bitsOf (encCtl 63 (sla * 2097152 + exa * 65536 + slb * 8192 + exb * 256 + slc * 32 + exc)) 5 3 = slc := by simp only [bitsOf, encCtl, encVlt, encPar, encColumn, Nat.reducePow] <;> omega
  have h2 : bitsOf (encCtl 63 (sla * 2097152 + exa * 65536 + slb * 8192 + exb * 256 + slc * 32 + exc)) 8 5 = exb := by simp only [bitsOf, encCtl, encVlt, encPar, encColumn, Nat.reducePow] <;> omega
  have h3 : bitsOf (encCtl 63 (sla * 2097152 + exa * 65536 + slb * 8192 + exb * 256 + slc * 32 + exc)) 13 3 = slb := by simp only [bitsOf, encCtl, encVlt, encPar, encColumn, Nat.reducePow] <;> omega
  have h4 : bitsOf (encCtl 63 (sla * 2097152 + exa * 65536 + slb * 8192 + exb * 256 + slc * 32 + exc)) 16 5 = exa := by simp only [bitsOf, encCtl, encVlt, encPar, encColumn, Nat.reducePow] <;> omega
  have h5 : bitsOf (encCtl 63 (sla * 2097152 + exa * 65536 + slb * 8192 + exb * 256 + slc * 32 + exc)) 21 3 = sla := by simp only [bitsOf, encCtl, encVlt, encPar, encColumn, Nat.reducePow] <;> omega
  have h6 : bitsOf (encCtl 63 (sla * 2097152 + exa * 65536 + slb * 8192 + exb * 256 + slc * 32 + exc)) 24 2 = 0 := by simp only [bitsOf, encCtl, encVlt, encPar, encColumn, Nat.reducePow] <;> omega
  have h7 : bitsOf (encCtl 63 (sla * 2097152 + exa * 65536 + slb * 8192 + exb * 256 + slc * 32 + exc)) 26 6 = 63 := by simp only [bitsOf, encCtl, encVlt, encPar, encColumn, Nat.reducePow] <;> omega
  refine ⟨by simp only [encCtl, encVlt, encPar, encColumn, Nat.reducePow] <;> omega, ?_⟩
  simp_all [Instr.kind, decodeControl, guardWord, extOf, h0, h1, h2, h3, h4, h5, h6, h7]
theorem ldw (bw : Nat) (xc : Nat) (wt : Nat) : Statement (.ldw bw xc wt) := by
  intro hw w e hwe
  simp only [Instr.wf, wfCol, wfType, Bool.and_eq_true, Bool.or_eq_true, decide_eq_true_eq, beq_iff_eq] at hw
  obtain ⟨rfl, rfl⟩ := by simpa [encode] using hwe
  have h0 : bitsOf (encPar 4 0 (bw * 524288 + xc * 8192 + wt * 512)) 0 9 = 0 := by simp only [bitsOf, encCtl, encVlt, encPar, encColumn, Nat.reducePow] <;> omega
  have h1 : bitsOf (encPar 4 0 (bw * 524288 + xc * 8192 + wt * 512)) 9 4 = wt := by simp only [bitsOf, encCtl, encVlt, encPar, encColumn, Nat.reducePow] <;> omega
  have h2 : bitsOf (encPar 4 0 (bw * 524288 + xc * 8192 + wt * 512)) 13 6 = xc := by simp only [bitsOf, encCtl, encVlt, encPar, encColumn, Nat.reducePow] <;> omega
  have h3 : bitsOf (encPar 4 0 (bw * 524288 + xc * 8192 + wt * 512)) 19 4 = bw := by simp only [bitsOf, encCtl, encVlt, encPar, encColumn, Nat.reducePow] <;> omega
  have h4 : bitsOf (encPar 4 0 (bw * 524288 + xc * 8192 + wt * 512)) 23 6 = 0 := by simp only [bitsOf, encCtl, encVlt, encPar, encColumn, Nat.reducePow] <;> omega
  have h5 : bitsOf (encPar 4 0 (bw * 524288 + xc * 8192 + wt * 512)) 29 3 = 4 := by simp only [bitsOf, encCtl, encVlt, encPar, encColumn, Nat.reducePow] <;> omega
  refine ⟨by simp only [encCtl, encVlt, encPar, encColumn, Nat.reducePow] <;> omega, ?_⟩
  simp_all [Instr.kind, decodeSlot, decodeM, guardWord, extOf, h0, h1, h2, h3, h4, h5]
theorem ldws (bw : Nat) (br : Nat) (xc : Nat) (wt : Nat) : Statement (.ldws bw br xc wt) := by
  intro hw w e hwe
  simp only [Instr.wf, wfCol, wfType, Bool.and_eq_true, Bool.or_eq_true, decide_eq_true_eq, beq_iff_eq] at hw
  obtain ⟨rfl, rfl⟩ := by simpa [encode] using hwe
  have h0 : bitsOf (encPar 4 1 (bw * 524288 + br * 32768 + xc * 512 + wt * 32)) 0 5 = 0 := by simp only [bitsOf, encCtl, encVlt, encPar, encColumn, Nat.reducePow] <;> omega
  have h1 : bitsOf (encPar 4 1 (bw * 524288 + br * 32768 + xc * 512 + wt * 32)) 5 4 = wt := by simp only [bitsOf, encCtl, encVlt, encPar, encColumn, Nat.reducePow] <;> omega
  have h2 : bitsOf (encPar 4 1 (bw * 524288 + br * 32768 + xc * 512 + wt * 32)) 9 6 = xc := by simp only [bitsOf, encCtl, encVlt, encPar, encColumn, Nat.reducePow] <;> omega
  have h3 : bitsOf (encPar 4 1 (bw * 524288 + br * 32768 + xc * 512 + wt * 32)) 15 4 = br := by simp only [bitsOf, encCtl, encVlt, encPar, encColumn, Nat.reducePow] <;> omega
  have h4 : bitsOf (encPar 4 1 (bw * 524288 + br * 32768 + xc * 512 + wt * 32)) 19 4 = bw := by simp only [bitsOf, encCtl, encVlt, encPar, encColumn, Nat.reducePow] <;> omega
  have h5 : bitsOf (encPar 4 1 (bw * 524288 + br * 32768 + xc * 512 + wt * 32)) 23 6 = 1 := by simp only [bitsOf, encCtl, encVlt, encPar, encColumn, Nat.reducePow] <;> omega
  have h6 : bitsOf (encPar 4 1 (bw * 524288 + br * 32768 + xc * 512 + wt * 32)) 29 3 = 4 := by simp only [bitsOf, encCtl, encVlt, encPar, encColumn, Nat.reducePow] <;> omega
  refine ⟨by simp only [encCtl, encVlt, encPar, encColumn, Nat.reducePow] <;> omega, ?_⟩
  simp_all [Instr.kind, decodeSlot, decodeM, guardWord, extOf, h0, h1, h2, h3, h4, h5, h6]
theorem swpw : Statement (.swpw) := by
  intro hw w e hwe
  simp only [Instr.wf, wfCol, wfType, Bool.and_eq_true, Bool.or_eq_true, decide_eq_true_eq, beq_iff_eq] at hw
  obtain ⟨rfl, rfl⟩ := by simpa [encode] using hwe
  have h0 : bitsOf (encPar 4 2 0) 0 23 = 0 := by simp only [bitsOf, encCtl, encVlt, encPar, encColumn, Nat.reducePow] <;> omega
  have h1 : bitsOf (encPar 4 2 0) 23 6 = 2 := by simp only [bitsOf, encCtl, encVlt, encPar, encColumn, Nat.reducePow] <;> omega
  have h2 : bitsOf (encPar 4 2 0) 29 3 = 4 := by simp only [bitsOf, encCtl, encVlt, encPar, encColumn, Nat.reducePow] <;> omega
  refine ⟨by simp only [encCtl, encVlt, encPar, encColumn, Nat.reducePow] <;> omega, ?_⟩
  simp_all [Instr.kind, decodeSlot, decodeM, guardWord, extOf, h0, h1, h2]
theorem mma (t : Nat) (b : Nat) (xc : Nat) (xr : Nat) (ty : Nat) : Statement (.mma t b xc xr ty) := by
  intro hw w e hwe
  simp only [Instr.wf, wfCol, wfType, Bool.and_eq_true, Bool.or_eq_true, decide_eq_true_eq, beq_iff_eq] at hw
  obtain ⟨rfl, rfl⟩ := by simpa [encode] using hwe
  have h0 : bitsOf (encPar 4 3 (t * 1048576 + b * 65536 + xc * 1024 + xr * 16 + ty)) 0 4 = ty := by simp only [bitsOf, encCtl, encVlt, encPar, encColumn, Nat.reducePow] <;> omega
  have h1 : bitsOf (encPar 4 3 (t * 1048576 + b * 65536 + xc * 1024 + xr * 16 + ty)) 4 6 = xr := by simp only [bitsOf, encCtl, encVlt, encPar, encColumn, Nat.reducePow] <;> omega
  have h2 : bitsOf (encPar 4 3 (t * 1048576 + b * 65536 + xc * 1024 + xr * 16 + ty)) 10 6 = xc := by simp only [bitsOf, encCtl, encVlt, encPar, encColumn, Nat.reducePow] <;> omega
  have h3 : bitsOf (encPar 4 3 (t * 1048576 + b * 65536 + xc * 1024 + xr * 16 + ty)) 16 4 = b := by simp only [bitsOf, encCtl, encVlt, encPar, encColumn, Nat.reducePow] <;> omega
  have h4 : bitsOf (encPar 4 3 (t * 1048576 + b * 65536 + xc * 1024 + xr * 16 + ty)) 20 3 = t := by simp only [bitsOf, encCtl, encVlt, encPar, encColumn, Nat.reducePow] <;> omega
  have h5 : bitsOf (encPar 4 3 (t * 1048576 + b * 65536 + xc * 1024 + xr * 16 + ty)) 23 6 = 3 := by simp only [bitsOf, encCtl, encVlt, encPar, encColumn, Nat.reducePow] <;> omega
  have h6 : bitsOf (encPar 4 3 (t * 1048576 + b * 65536 + xc * 1024 + xr * 16 + ty)) 29 3 = 4 := by simp only [bitsOf, encCtl, encVlt, encPar, encColumn, Nat.reducePow] <;> omega
  refine ⟨by simp only [encCtl, encVlt, encPar, encColumn, Nat.reducePow] <;> omega, ?_⟩
  simp_all [Instr.kind, decodeSlot, decodeM, guardWord, extOf, h0, h1, h2, h3, h4, h5, h6]
theorem mmaz (t : Nat) (b : Nat) (xc : Nat) (xr : Nat) (ty : Nat) : Statement (.mmaz t b xc xr ty) := by
  intro hw w e hwe
  simp only [Instr.wf, wfCol, wfType, Bool.and_eq_true, Bool.or_eq_true, decide_eq_true_eq, beq_iff_eq] at hw
  obtain ⟨rfl, rfl⟩ := by simpa [encode] using hwe
  have h0 : bitsOf (encPar 4 4 (t * 1048576 + b * 65536 + xc * 1024 + xr * 16 + ty)) 0 4 = ty := by simp only [bitsOf, encCtl, encVlt, encPar, encColumn, Nat.reducePow] <;> omega
  have h1 : bitsOf (encPar 4 4 (t * 1048576 + b * 65536 + xc * 1024 + xr * 16 + ty)) 4 6 = xr := by simp only [bitsOf, encCtl, encVlt, encPar, encColumn, Nat.reducePow] <;> omega
  have h2 : bitsOf (encPar 4 4 (t * 1048576 + b * 65536 + xc * 1024 + xr * 16 + ty)) 10 6 = xc := by simp only [bitsOf, encCtl, encVlt, encPar, encColumn, Nat.reducePow] <;> omega
  have h3 : bitsOf (encPar 4 4 (t * 1048576 + b * 65536 + xc * 1024 + xr * 16 + ty)) 16 4 = b := by simp only [bitsOf, encCtl, encVlt, encPar, encColumn, Nat.reducePow] <;> omega
  have h4 : bitsOf (encPar 4 4 (t * 1048576 + b * 65536 + xc * 1024 + xr * 16 + ty)) 20 3 = t := by simp only [bitsOf, encCtl, encVlt, encPar, encColumn, Nat.reducePow] <;> omega
  have h5 : bitsOf (encPar 4 4 (t * 1048576 + b * 65536 + xc * 1024 + xr * 16 + ty)) 23 6 = 4 := by simp only [bitsOf, encCtl, encVlt, encPar, encColumn, Nat.reducePow] <;> omega
  have h6 : bitsOf (encPar 4 4 (t * 1048576 + b * 65536 + xc * 1024 + xr * 16 + ty)) 29 3 = 4 := by simp only [bitsOf, encCtl, encVlt, encPar, encColumn, Nat.reducePow] <;> omega
  refine ⟨by simp only [encCtl, encVlt, encPar, encColumn, Nat.reducePow] <;> omega, ?_⟩
  simp_all [Instr.kind, decodeSlot, decodeM, guardWord, extOf, h0, h1, h2, h3, h4, h5, h6]
theorem trd (t : Nat) (xs : Nat) (v : Nat) : Statement (.trd t xs v) := by
  intro hw w e hwe
  simp only [Instr.wf, wfCol, wfType, Bool.and_eq_true, Bool.or_eq_true, decide_eq_true_eq, beq_iff_eq] at hw
  obtain ⟨rfl, rfl⟩ := by simpa [encode] using hwe
  have h0 : bitsOf (encPar 4 5 (t * 1048576 + xs * 16384 + v * 256)) 0 8 = 0 := by simp only [bitsOf, encCtl, encVlt, encPar, encColumn, Nat.reducePow] <;> omega
  have h1 : bitsOf (encPar 4 5 (t * 1048576 + xs * 16384 + v * 256)) 8 6 = v := by simp only [bitsOf, encCtl, encVlt, encPar, encColumn, Nat.reducePow] <;> omega
  have h2 : bitsOf (encPar 4 5 (t * 1048576 + xs * 16384 + v * 256)) 14 6 = xs := by simp only [bitsOf, encCtl, encVlt, encPar, encColumn, Nat.reducePow] <;> omega
  have h3 : bitsOf (encPar 4 5 (t * 1048576 + xs * 16384 + v * 256)) 20 3 = t := by simp only [bitsOf, encCtl, encVlt, encPar, encColumn, Nat.reducePow] <;> omega
  have h4 : bitsOf (encPar 4 5 (t * 1048576 + xs * 16384 + v * 256)) 23 6 = 5 := by simp only [bitsOf, encCtl, encVlt, encPar, encColumn, Nat.reducePow] <;> omega
  have h5 : bitsOf (encPar 4 5 (t * 1048576 + xs * 16384 + v * 256)) 29 3 = 4 := by simp only [bitsOf, encCtl, encVlt, encPar, encColumn, Nat.reducePow] <;> omega
  refine ⟨by simp only [encCtl, encVlt, encPar, encColumn, Nat.reducePow] <;> omega, ?_⟩
  simp_all [Instr.kind, decodeSlot, decodeM, guardWord, extOf, h0, h1, h2, h3, h4, h5]
theorem twr (t : Nat) (xs : Nat) (v : Nat) : Statement (.twr t xs v) := by
  intro hw w e hwe
  simp only [Instr.wf, wfCol, wfType, Bool.and_eq_true, Bool.or_eq_true, decide_eq_true_eq, beq_iff_eq] at hw
  obtain ⟨rfl, rfl⟩ := by simpa [encode] using hwe
  have h0 : bitsOf (encPar 4 6 (t * 1048576 + xs * 16384 + v * 256)) 0 8 = 0 := by simp only [bitsOf, encCtl, encVlt, encPar, encColumn, Nat.reducePow] <;> omega
  have h1 : bitsOf (encPar 4 6 (t * 1048576 + xs * 16384 + v * 256)) 8 6 = v := by simp only [bitsOf, encCtl, encVlt, encPar, encColumn, Nat.reducePow] <;> omega
  have h2 : bitsOf (encPar 4 6 (t * 1048576 + xs * 16384 + v * 256)) 14 6 = xs := by simp only [bitsOf, encCtl, encVlt, encPar, encColumn, Nat.reducePow] <;> omega
  have h3 : bitsOf (encPar 4 6 (t * 1048576 + xs * 16384 + v * 256)) 20 3 = t := by simp only [bitsOf, encCtl, encVlt, encPar, encColumn, Nat.reducePow] <;> omega
  have h4 : bitsOf (encPar 4 6 (t * 1048576 + xs * 16384 + v * 256)) 23 6 = 6 := by simp only [bitsOf, encCtl, encVlt, encPar, encColumn, Nat.reducePow] <;> omega
  have h5 : bitsOf (encPar 4 6 (t * 1048576 + xs * 16384 + v * 256)) 29 3 = 4 := by simp only [bitsOf, encCtl, encVlt, encPar, encColumn, Nat.reducePow] <;> omega
  refine ⟨by simp only [encCtl, encVlt, encPar, encColumn, Nat.reducePow] <;> omega, ?_⟩
  simp_all [Instr.kind, decodeSlot, decodeM, guardWord, extOf, h0, h1, h2, h3, h4, h5]
theorem tst (t : Nat) (b : Nat) (xc : Nat) (xr : Nat) (ty : Nat) : Statement (.tst t b xc xr ty) := by
  intro hw w e hwe
  simp only [Instr.wf, wfCol, wfType, Bool.and_eq_true, Bool.or_eq_true, decide_eq_true_eq, beq_iff_eq] at hw
  obtain ⟨rfl, rfl⟩ := by simpa [encode] using hwe
  have h0 : bitsOf (encPar 4 7 (t * 1048576 + b * 65536 + xc * 1024 + xr * 16 + ty)) 0 4 = ty := by simp only [bitsOf, encCtl, encVlt, encPar, encColumn, Nat.reducePow] <;> omega
  have h1 : bitsOf (encPar 4 7 (t * 1048576 + b * 65536 + xc * 1024 + xr * 16 + ty)) 4 6 = xr := by simp only [bitsOf, encCtl, encVlt, encPar, encColumn, Nat.reducePow] <;> omega
  have h2 : bitsOf (encPar 4 7 (t * 1048576 + b * 65536 + xc * 1024 + xr * 16 + ty)) 10 6 = xc := by simp only [bitsOf, encCtl, encVlt, encPar, encColumn, Nat.reducePow] <;> omega
  have h3 : bitsOf (encPar 4 7 (t * 1048576 + b * 65536 + xc * 1024 + xr * 16 + ty)) 16 4 = b := by simp only [bitsOf, encCtl, encVlt, encPar, encColumn, Nat.reducePow] <;> omega
  have h4 : bitsOf (encPar 4 7 (t * 1048576 + b * 65536 + xc * 1024 + xr * 16 + ty)) 20 3 = t := by simp only [bitsOf, encCtl, encVlt, encPar, encColumn, Nat.reducePow] <;> omega
  have h5 : bitsOf (encPar 4 7 (t * 1048576 + b * 65536 + xc * 1024 + xr * 16 + ty)) 23 6 = 7 := by simp only [bitsOf, encCtl, encVlt, encPar, encColumn, Nat.reducePow] <;> omega
  have h6 : bitsOf (encPar 4 7 (t * 1048576 + b * 65536 + xc * 1024 + xr * 16 + ty)) 29 3 = 4 := by simp only [bitsOf, encCtl, encVlt, encPar, encColumn, Nat.reducePow] <;> omega
  refine ⟨by simp only [encCtl, encVlt, encPar, encColumn, Nat.reducePow] <;> omega, ?_⟩
  simp_all [Instr.kind, decodeSlot, decodeM, guardWord, extOf, h0, h1, h2, h3, h4, h5, h6]
theorem tzero (t : Nat) : Statement (.tzero t) := by
  intro hw w e hwe
  simp only [Instr.wf, wfCol, wfType, Bool.and_eq_true, Bool.or_eq_true, decide_eq_true_eq, beq_iff_eq] at hw
  obtain ⟨rfl, rfl⟩ := by simpa [encode] using hwe
  have h0 : bitsOf (encPar 4 8 (t * 1048576)) 0 20 = 0 := by simp only [bitsOf, encCtl, encVlt, encPar, encColumn, Nat.reducePow] <;> omega
  have h1 : bitsOf (encPar 4 8 (t * 1048576)) 20 3 = t := by simp only [bitsOf, encCtl, encVlt, encPar, encColumn, Nat.reducePow] <;> omega
  have h2 : bitsOf (encPar 4 8 (t * 1048576)) 23 6 = 8 := by simp only [bitsOf, encCtl, encVlt, encPar, encColumn, Nat.reducePow] <;> omega
  have h3 : bitsOf (encPar 4 8 (t * 1048576)) 29 3 = 4 := by simp only [bitsOf, encCtl, encVlt, encPar, encColumn, Nat.reducePow] <;> omega
  refine ⟨by simp only [encCtl, encVlt, encPar, encColumn, Nat.reducePow] <;> omega, ?_⟩
  simp_all [Instr.kind, decodeSlot, decodeM, guardWord, extOf, h0, h1, h2, h3]
theorem outer (t : Nat) (ba : Nat) (bb : Nat) (rt : Nat) (ty : Nat) : Statement (.outer t ba bb rt ty) := by
  intro hw w e hwe
  simp only [Instr.wf, wfCol, wfType, Bool.and_eq_true, Bool.or_eq_true, decide_eq_true_eq, beq_iff_eq] at hw
  obtain ⟨rfl, rfl⟩ := by simpa [encode] using hwe
  have h0 : bitsOf (encPar 4 9 (t * 1048576 + ba * 65536 + bb * 4096 + rt * 64 + ty * 4)) 0 2 = 0 := by simp only [bitsOf, encCtl, encVlt, encPar, encColumn, Nat.reducePow] <;> omega
  have h1 : bitsOf (encPar 4 9 (t * 1048576 + ba * 65536 + bb * 4096 + rt * 64 + ty * 4)) 2 4 = ty := by simp only [bitsOf, encCtl, encVlt, encPar, encColumn, Nat.reducePow] <;> omega
  have h2 : bitsOf (encPar 4 9 (t * 1048576 + ba * 65536 + bb * 4096 + rt * 64 + ty * 4)) 6 6 = rt := by simp only [bitsOf, encCtl, encVlt, encPar, encColumn, Nat.reducePow] <;> omega
  have h3 : bitsOf (encPar 4 9 (t * 1048576 + ba * 65536 + bb * 4096 + rt * 64 + ty * 4)) 12 4 = bb := by simp only [bitsOf, encCtl, encVlt, encPar, encColumn, Nat.reducePow] <;> omega
  have h4 : bitsOf (encPar 4 9 (t * 1048576 + ba * 65536 + bb * 4096 + rt * 64 + ty * 4)) 16 4 = ba := by simp only [bitsOf, encCtl, encVlt, encPar, encColumn, Nat.reducePow] <;> omega
  have h5 : bitsOf (encPar 4 9 (t * 1048576 + ba * 65536 + bb * 4096 + rt * 64 + ty * 4)) 20 3 = t := by simp only [bitsOf, encCtl, encVlt, encPar, encColumn, Nat.reducePow] <;> omega
  have h6 : bitsOf (encPar 4 9 (t * 1048576 + ba * 65536 + bb * 4096 + rt * 64 + ty * 4)) 23 6 = 9 := by simp only [bitsOf, encCtl, encVlt, encPar, encColumn, Nat.reducePow] <;> omega
  have h7 : bitsOf (encPar 4 9 (t * 1048576 + ba * 65536 + bb * 4096 + rt * 64 + ty * 4)) 29 3 = 4 := by simp only [bitsOf, encCtl, encVlt, encPar, encColumn, Nat.reducePow] <;> omega
  refine ⟨by simp only [encCtl, encVlt, encPar, encColumn, Nat.reducePow] <;> omega, ?_⟩
  simp_all [Instr.kind, decodeSlot, decodeM, guardWord, extOf, h0, h1, h2, h3, h4, h5, h6, h7]
theorem gath (bd : Nat) (bs : Nat) (bi : Nat) : Statement (.gath bd bs bi) := by
  intro hw w e hwe
  simp only [Instr.wf, wfCol, wfType, Bool.and_eq_true, Bool.or_eq_true, decide_eq_true_eq, beq_iff_eq] at hw
  obtain ⟨rfl, rfl⟩ := by simpa [encode] using hwe
  have h0 : bitsOf (encPar 6 1 (bd * 524288 + bs * 32768 + bi * 2048)) 0 11 = 0 := by simp only [bitsOf, encCtl, encVlt, encPar, encColumn, Nat.reducePow] <;> omega
  have h1 : bitsOf (encPar 6 1 (bd * 524288 + bs * 32768 + bi * 2048)) 11 4 = bi := by simp only [bitsOf, encCtl, encVlt, encPar, encColumn, Nat.reducePow] <;> omega
  have h2 : bitsOf (encPar 6 1 (bd * 524288 + bs * 32768 + bi * 2048)) 15 4 = bs := by simp only [bitsOf, encCtl, encVlt, encPar, encColumn, Nat.reducePow] <;> omega
  have h3 : bitsOf (encPar 6 1 (bd * 524288 + bs * 32768 + bi * 2048)) 19 4 = bd := by simp only [bitsOf, encCtl, encVlt, encPar, encColumn, Nat.reducePow] <;> omega
  have h4 : bitsOf (encPar 6 1 (bd * 524288 + bs * 32768 + bi * 2048)) 23 6 = 1 := by simp only [bitsOf, encCtl, encVlt, encPar, encColumn, Nat.reducePow] <;> omega
  have h5 : bitsOf (encPar 6 1 (bd * 524288 + bs * 32768 + bi * 2048)) 29 3 = 6 := by simp only [bitsOf, encCtl, encVlt, encPar, encColumn, Nat.reducePow] <;> omega
  refine ⟨by simp only [encCtl, encVlt, encPar, encColumn, Nat.reducePow] <;> omega, ?_⟩
  simp_all [Instr.kind, decodeSlot, decodeE, guardWord, extOf, h0, h1, h2, h3, h4, h5]
theorem fold (bd : Nat) (bs : Nat) (dim : Nat) (rt : Nat) (v : Nat) (bin : Nat) : Statement (.fold bd bs dim rt v bin) := by
  intro hw w e hwe
  simp only [Instr.wf, wfCol, wfType, Bool.and_eq_true, Bool.or_eq_true, decide_eq_true_eq, beq_iff_eq] at hw
  obtain ⟨rfl, rfl⟩ := by simpa [encode] using hwe
  have h0 : bitsOf (encPar 6 3 (bd * 524288 + bs * 32768 + dim * 4096 + rt * 64 + v * 32 + bin * 16)) 0 4 = 0 := by simp only [bitsOf, encCtl, encVlt, encPar, encColumn, Nat.reducePow] <;> omega
  have h1 : bitsOf (encPar 6 3 (bd * 524288 + bs * 32768 + dim * 4096 + rt * 64 + v * 32 + bin * 16)) 4 1 = bin := by simp only [bitsOf, encCtl, encVlt, encPar, encColumn, Nat.reducePow] <;> omega
  have h2 : bitsOf (encPar 6 3 (bd * 524288 + bs * 32768 + dim * 4096 + rt * 64 + v * 32 + bin * 16)) 5 1 = v := by simp only [bitsOf, encCtl, encVlt, encPar, encColumn, Nat.reducePow] <;> omega
  have h3 : bitsOf (encPar 6 3 (bd * 524288 + bs * 32768 + dim * 4096 + rt * 64 + v * 32 + bin * 16)) 6 6 = rt := by simp only [bitsOf, encCtl, encVlt, encPar, encColumn, Nat.reducePow] <;> omega
  have h4 : bitsOf (encPar 6 3 (bd * 524288 + bs * 32768 + dim * 4096 + rt * 64 + v * 32 + bin * 16)) 12 3 = dim := by simp only [bitsOf, encCtl, encVlt, encPar, encColumn, Nat.reducePow] <;> omega
  have h5 : bitsOf (encPar 6 3 (bd * 524288 + bs * 32768 + dim * 4096 + rt * 64 + v * 32 + bin * 16)) 15 4 = bs := by simp only [bitsOf, encCtl, encVlt, encPar, encColumn, Nat.reducePow] <;> omega
  have h6 : bitsOf (encPar 6 3 (bd * 524288 + bs * 32768 + dim * 4096 + rt * 64 + v * 32 + bin * 16)) 19 4 = bd := by simp only [bitsOf, encCtl, encVlt, encPar, encColumn, Nat.reducePow] <;> omega
  have h7 : bitsOf (encPar 6 3 (bd * 524288 + bs * 32768 + dim * 4096 + rt * 64 + v * 32 + bin * 16)) 23 6 = 3 := by simp only [bitsOf, encCtl, encVlt, encPar, encColumn, Nat.reducePow] <;> omega
  have h8 : bitsOf (encPar 6 3 (bd * 524288 + bs * 32768 + dim * 4096 + rt * 64 + v * 32 + bin * 16)) 29 3 = 6 := by simp only [bitsOf, encCtl, encVlt, encPar, encColumn, Nat.reducePow] <;> omega
  refine ⟨by simp only [encCtl, encVlt, encPar, encColumn, Nat.reducePow] <;> omega, ?_⟩
  simp_all [Instr.kind, decodeSlot, decodeE, guardWord, extOf, h0, h1, h2, h3, h4, h5, h6, h7, h8]
theorem zip (bd : Nat) (ba : Nat) (bb : Nat) (rt : Nat) (v : Nat) : Statement (.zip bd ba bb rt v) := by
  intro hw w e hwe
  simp only [Instr.wf, wfCol, wfType, Bool.and_eq_true, Bool.or_eq_true, decide_eq_true_eq, beq_iff_eq] at hw
  obtain ⟨rfl, rfl⟩ := by simpa [encode] using hwe
  have h0 : bitsOf (encPar 6 5 (bd * 524288 + ba * 32768 + bb * 2048 + rt * 32 + v * 16)) 0 4 = 0 := by simp only [bitsOf, encCtl, encVlt, encPar, encColumn, Nat.reducePow] <;> omega
  have h1 : bitsOf (encPar 6 5 (bd * 524288 + ba * 32768 + bb * 2048 + rt * 32 + v * 16)) 4 1 = v := by simp only [bitsOf, encCtl, encVlt, encPar, encColumn, Nat.reducePow] <;> omega
  have h2 : bitsOf (encPar 6 5 (bd * 524288 + ba * 32768 + bb * 2048 + rt * 32 + v * 16)) 5 6 = rt := by simp only [bitsOf, encCtl, encVlt, encPar, encColumn, Nat.reducePow] <;> omega
  have h3 : bitsOf (encPar 6 5 (bd * 524288 + ba * 32768 + bb * 2048 + rt * 32 + v * 16)) 11 4 = bb := by simp only [bitsOf, encCtl, encVlt, encPar, encColumn, Nat.reducePow] <;> omega
  have h4 : bitsOf (encPar 6 5 (bd * 524288 + ba * 32768 + bb * 2048 + rt * 32 + v * 16)) 15 4 = ba := by simp only [bitsOf, encCtl, encVlt, encPar, encColumn, Nat.reducePow] <;> omega
  have h5 : bitsOf (encPar 6 5 (bd * 524288 + ba * 32768 + bb * 2048 + rt * 32 + v * 16)) 19 4 = bd := by simp only [bitsOf, encCtl, encVlt, encPar, encColumn, Nat.reducePow] <;> omega
  have h6 : bitsOf (encPar 6 5 (bd * 524288 + ba * 32768 + bb * 2048 + rt * 32 + v * 16)) 23 6 = 5 := by simp only [bitsOf, encCtl, encVlt, encPar, encColumn, Nat.reducePow] <;> omega
  have h7 : bitsOf (encPar 6 5 (bd * 524288 + ba * 32768 + bb * 2048 + rt * 32 + v * 16)) 29 3 = 6 := by simp only [bitsOf, encCtl, encVlt, encPar, encColumn, Nat.reducePow] <;> omega
  refine ⟨by simp only [encCtl, encVlt, encPar, encColumn, Nat.reducePow] <;> omega, ?_⟩
  simp_all [Instr.kind, decodeSlot, decodeE, guardWord, extOf, h0, h1, h2, h3, h4, h5, h6, h7]
theorem vrun (bv : Nat) (xp : Nat) (prog : Nat) : Statement (.vrun bv xp prog) := by
  intro hw w e hwe
  simp only [Instr.wf, wfCol, wfType, Bool.and_eq_true, Bool.or_eq_true, decide_eq_true_eq, beq_iff_eq] at hw
  obtain ⟨rfl, rfl⟩ := by simpa [encode] using hwe
  have h0 : bitsOf (encPar 6 6 (bv * 524288 + xp * 8192 + prog * 2)) 0 1 = 0 := by simp only [bitsOf, encCtl, encVlt, encPar, encColumn, Nat.reducePow] <;> omega
  have h1 : bitsOf (encPar 6 6 (bv * 524288 + xp * 8192 + prog * 2)) 1 12 = prog := by simp only [bitsOf, encCtl, encVlt, encPar, encColumn, Nat.reducePow] <;> omega
  have h2 : bitsOf (encPar 6 6 (bv * 524288 + xp * 8192 + prog * 2)) 13 6 = xp := by simp only [bitsOf, encCtl, encVlt, encPar, encColumn, Nat.reducePow] <;> omega
  have h3 : bitsOf (encPar 6 6 (bv * 524288 + xp * 8192 + prog * 2)) 19 4 = bv := by simp only [bitsOf, encCtl, encVlt, encPar, encColumn, Nat.reducePow] <;> omega
  have h4 : bitsOf (encPar 6 6 (bv * 524288 + xp * 8192 + prog * 2)) 23 6 = 6 := by simp only [bitsOf, encCtl, encVlt, encPar, encColumn, Nat.reducePow] <;> omega
  have h5 : bitsOf (encPar 6 6 (bv * 524288 + xp * 8192 + prog * 2)) 29 3 = 6 := by simp only [bitsOf, encCtl, encVlt, encPar, encColumn, Nat.reducePow] <;> omega
  refine ⟨by simp only [encCtl, encVlt, encPar, encColumn, Nat.reducePow] <;> omega, ?_⟩
  simp_all [Instr.kind, decodeSlot, decodeE, guardWord, extOf, h0, h1, h2, h3, h4, h5]
theorem vstop (bv : Nat) : Statement (.vstop bv) := by
  intro hw w e hwe
  simp only [Instr.wf, wfCol, wfType, Bool.and_eq_true, Bool.or_eq_true, decide_eq_true_eq, beq_iff_eq] at hw
  obtain ⟨rfl, rfl⟩ := by simpa [encode] using hwe
  have h0 : bitsOf (encPar 6 7 (bv * 524288)) 0 19 = 0 := by simp only [bitsOf, encCtl, encVlt, encPar, encColumn, Nat.reducePow] <;> omega
  have h1 : bitsOf (encPar 6 7 (bv * 524288)) 19 4 = bv := by simp only [bitsOf, encCtl, encVlt, encPar, encColumn, Nat.reducePow] <;> omega
  have h2 : bitsOf (encPar 6 7 (bv * 524288)) 23 6 = 7 := by simp only [bitsOf, encCtl, encVlt, encPar, encColumn, Nat.reducePow] <;> omega
  have h3 : bitsOf (encPar 6 7 (bv * 524288)) 29 3 = 6 := by simp only [bitsOf, encCtl, encVlt, encPar, encColumn, Nat.reducePow] <;> omega
  refine ⟨by simp only [encCtl, encVlt, encPar, encColumn, Nat.reducePow] <;> omega, ?_⟩
  simp_all [Instr.kind, decodeSlot, decodeE, guardWord, extOf, h0, h1, h2, h3]
theorem rbfill (n : Nat) : Statement (.rbfill n) := by
  intro hw w e hwe
  simp only [Instr.wf, wfCol, wfType, Bool.and_eq_true, Bool.or_eq_true, decide_eq_true_eq, beq_iff_eq] at hw
  obtain ⟨rfl, rfl⟩ := by simpa [encode] using hwe
  have h0 : bitsOf (encPar 6 8 (n * 262144)) 0 18 = 0 := by simp only [bitsOf, encCtl, encVlt, encPar, encColumn, Nat.reducePow] <;> omega
  have h1 : bitsOf (encPar 6 8 (n * 262144)) 18 5 = n := by simp only [bitsOf, encCtl, encVlt, encPar, encColumn, Nat.reducePow] <;> omega
  have h2 : bitsOf (encPar 6 8 (n * 262144)) 23 6 = 8 := by simp only [bitsOf, encCtl, encVlt, encPar, encColumn, Nat.reducePow] <;> omega
  have h3 : bitsOf (encPar 6 8 (n * 262144)) 29 3 = 6 := by simp only [bitsOf, encCtl, encVlt, encPar, encColumn, Nat.reducePow] <;> omega
  refine ⟨by simp only [encCtl, encVlt, encPar, encColumn, Nat.reducePow] <;> omega, ?_⟩
  simp_all [Instr.kind, decodeSlot, decodeE, guardWord, extOf, h0, h1, h2, h3]
theorem dlvset (bc : Nat) (xe : Nat) (xp : Nat) (xn : Nat) : Statement (.dlvset bc xe xp xn) := by
  intro hw w e hwe
  simp only [Instr.wf, wfCol, wfType, Bool.and_eq_true, Bool.or_eq_true, decide_eq_true_eq, beq_iff_eq] at hw
  obtain ⟨rfl, rfl⟩ := by simpa [encode] using hwe
  have h0 : bitsOf (encPar 6 9 (bc * 524288 + xe * 8192 + xp * 128 + xn * 2)) 0 1 = 0 := by simp only [bitsOf, encCtl, encVlt, encPar, encColumn, Nat.reducePow] <;> omega
  have h1 : bitsOf (encPar 6 9 (bc * 524288 + xe * 8192 + xp * 128 + xn * 2)) 1 6 = xn := by simp only [bitsOf, encCtl, encVlt, encPar, encColumn, Nat.reducePow] <;> omega
  have h2 : bitsOf (encPar 6 9 (bc * 524288 + xe * 8192 + xp * 128 + xn * 2)) 7 6 = xp := by simp only [bitsOf, encCtl, encVlt, encPar, encColumn, Nat.reducePow] <;> omega
  have h3 : bitsOf (encPar 6 9 (bc * 524288 + xe * 8192 + xp * 128 + xn * 2)) 13 6 = xe := by simp only [bitsOf, encCtl, encVlt, encPar, encColumn, Nat.reducePow] <;> omega
  have h4 : bitsOf (encPar 6 9 (bc * 524288 + xe * 8192 + xp * 128 + xn * 2)) 19 4 = bc := by simp only [bitsOf, encCtl, encVlt, encPar, encColumn, Nat.reducePow] <;> omega
  have h5 : bitsOf (encPar 6 9 (bc * 524288 + xe * 8192 + xp * 128 + xn * 2)) 23 6 = 9 := by simp only [bitsOf, encCtl, encVlt, encPar, encColumn, Nat.reducePow] <;> omega
  have h6 : bitsOf (encPar 6 9 (bc * 524288 + xe * 8192 + xp * 128 + xn * 2)) 29 3 = 6 := by simp only [bitsOf, encCtl, encVlt, encPar, encColumn, Nat.reducePow] <;> omega
  refine ⟨by simp only [encCtl, encVlt, encPar, encColumn, Nat.reducePow] <;> omega, ?_⟩
  simp_all [Instr.kind, decodeSlot, decodeE, guardWord, extOf, h0, h1, h2, h3, h4, h5, h6]
theorem dlvwait (bc : Nat) (xd : Nat) : Statement (.dlvwait bc xd) := by
  intro hw w e hwe
  simp only [Instr.wf, wfCol, wfType, Bool.and_eq_true, Bool.or_eq_true, decide_eq_true_eq, beq_iff_eq] at hw
  obtain ⟨rfl, rfl⟩ := by simpa [encode] using hwe
  have h0 : bitsOf (encPar 6 10 (bc * 524288 + xd * 8192)) 0 13 = 0 := by simp only [bitsOf, encCtl, encVlt, encPar, encColumn, Nat.reducePow] <;> omega
  have h1 : bitsOf (encPar 6 10 (bc * 524288 + xd * 8192)) 13 6 = xd := by simp only [bitsOf, encCtl, encVlt, encPar, encColumn, Nat.reducePow] <;> omega
  have h2 : bitsOf (encPar 6 10 (bc * 524288 + xd * 8192)) 19 4 = bc := by simp only [bitsOf, encCtl, encVlt, encPar, encColumn, Nat.reducePow] <;> omega
  have h3 : bitsOf (encPar 6 10 (bc * 524288 + xd * 8192)) 23 6 = 10 := by simp only [bitsOf, encCtl, encVlt, encPar, encColumn, Nat.reducePow] <;> omega
  have h4 : bitsOf (encPar 6 10 (bc * 524288 + xd * 8192)) 29 3 = 6 := by simp only [bitsOf, encCtl, encVlt, encPar, encColumn, Nat.reducePow] <;> omega
  refine ⟨by simp only [encCtl, encVlt, encPar, encColumn, Nat.reducePow] <;> omega, ?_⟩
  simp_all [Instr.kind, decodeSlot, decodeE, guardWord, extOf, h0, h1, h2, h3, h4]
theorem send (ms : Nat) (peer : Nat) (b : Nat) (xc : Nat) : Statement (.send ms peer b xc) := by
  intro hw w e hwe
  simp only [Instr.wf, wfCol, wfType, Bool.and_eq_true, Bool.or_eq_true, decide_eq_true_eq, beq_iff_eq] at hw
  obtain ⟨rfl, rfl⟩ := by simpa [encode] using hwe
  have h0 : bitsOf (encPar 7 0 (ms * 4194304 + peer * 65536 + b * 4096 + xc * 64)) 0 6 = 0 := by simp only [bitsOf, encCtl, encVlt, encPar, encColumn, Nat.reducePow] <;> omega
  have h1 : bitsOf (encPar 7 0 (ms * 4194304 + peer * 65536 + b * 4096 + xc * 64)) 6 6 = xc := by simp only [bitsOf, encCtl, encVlt, encPar, encColumn, Nat.reducePow] <;> omega
  have h2 : bitsOf (encPar 7 0 (ms * 4194304 + peer * 65536 + b * 4096 + xc * 64)) 12 4 = b := by simp only [bitsOf, encCtl, encVlt, encPar, encColumn, Nat.reducePow] <;> omega
  have h3 : bitsOf (encPar 7 0 (ms * 4194304 + peer * 65536 + b * 4096 + xc * 64)) 16 6 = peer := by simp only [bitsOf, encCtl, encVlt, encPar, encColumn, Nat.reducePow] <;> omega
  have h4 : bitsOf (encPar 7 0 (ms * 4194304 + peer * 65536 + b * 4096 + xc * 64)) 22 1 = ms := by simp only [bitsOf, encCtl, encVlt, encPar, encColumn, Nat.reducePow] <;> omega
  have h5 : bitsOf (encPar 7 0 (ms * 4194304 + peer * 65536 + b * 4096 + xc * 64)) 23 6 = 0 := by simp only [bitsOf, encCtl, encVlt, encPar, encColumn, Nat.reducePow] <;> omega
  have h6 : bitsOf (encPar 7 0 (ms * 4194304 + peer * 65536 + b * 4096 + xc * 64)) 29 3 = 7 := by simp only [bitsOf, encCtl, encVlt, encPar, encColumn, Nat.reducePow] <;> omega
  refine ⟨by simp only [encCtl, encVlt, encPar, encColumn, Nat.reducePow] <;> omega, ?_⟩
  simp_all [Instr.kind, decodeSlot, decodeX, guardWord, extOf, h0, h1, h2, h3, h4, h5, h6]
  omega
theorem recv (ms : Nat) (peer : Nat) (b : Nat) (xc : Nat) : Statement (.recv ms peer b xc) := by
  intro hw w e hwe
  simp only [Instr.wf, wfCol, wfType, Bool.and_eq_true, Bool.or_eq_true, decide_eq_true_eq, beq_iff_eq] at hw
  obtain ⟨rfl, rfl⟩ := by simpa [encode] using hwe
  have h0 : bitsOf (encPar 7 1 (ms * 4194304 + peer * 65536 + b * 4096 + xc * 64)) 0 6 = 0 := by simp only [bitsOf, encCtl, encVlt, encPar, encColumn, Nat.reducePow] <;> omega
  have h1 : bitsOf (encPar 7 1 (ms * 4194304 + peer * 65536 + b * 4096 + xc * 64)) 6 6 = xc := by simp only [bitsOf, encCtl, encVlt, encPar, encColumn, Nat.reducePow] <;> omega
  have h2 : bitsOf (encPar 7 1 (ms * 4194304 + peer * 65536 + b * 4096 + xc * 64)) 12 4 = b := by simp only [bitsOf, encCtl, encVlt, encPar, encColumn, Nat.reducePow] <;> omega
  have h3 : bitsOf (encPar 7 1 (ms * 4194304 + peer * 65536 + b * 4096 + xc * 64)) 16 6 = peer := by simp only [bitsOf, encCtl, encVlt, encPar, encColumn, Nat.reducePow] <;> omega
  have h4 : bitsOf (encPar 7 1 (ms * 4194304 + peer * 65536 + b * 4096 + xc * 64)) 22 1 = ms := by simp only [bitsOf, encCtl, encVlt, encPar, encColumn, Nat.reducePow] <;> omega
  have h5 : bitsOf (encPar 7 1 (ms * 4194304 + peer * 65536 + b * 4096 + xc * 64)) 23 6 = 1 := by simp only [bitsOf, encCtl, encVlt, encPar, encColumn, Nat.reducePow] <;> omega
  have h6 : bitsOf (encPar 7 1 (ms * 4194304 + peer * 65536 + b * 4096 + xc * 64)) 29 3 = 7 := by simp only [bitsOf, encCtl, encVlt, encPar, encColumn, Nat.reducePow] <;> omega
  refine ⟨by simp only [encCtl, encVlt, encPar, encColumn, Nat.reducePow] <;> omega, ?_⟩
  simp_all [Instr.kind, decodeSlot, decodeX, guardWord, extOf, h0, h1, h2, h3, h4, h5, h6]
  omega
theorem coll (bd : Nat) (bs : Nat) (bq : Nat) (sc : Nat) (bin : Nat) (rm : Nat) : Statement (.coll bd bs bq sc bin rm) := by
  intro hw w e hwe
  simp only [Instr.wf, wfCol, wfType, Bool.and_eq_true, Bool.or_eq_true, decide_eq_true_eq, beq_iff_eq] at hw
  obtain ⟨rfl, rfl⟩ := by simpa [encode] using hwe
  have h0 : bitsOf (encPar 7 3 (bd * 524288 + bs * 32768 + bq * 2048 + sc * 256 + bin * 128 + rm * 16)) 0 4 = 0 := by simp only [bitsOf, encCtl, encVlt, encPar, encColumn, Nat.reducePow] <;> omega
  have h1 : bitsOf (encPar 7 3 (bd * 524288 + bs * 32768 + bq * 2048 + sc * 256 + bin * 128 + rm * 16)) 4 3 = rm := by simp only [bitsOf, encCtl, encVlt, encPar, encColumn, Nat.reducePow] <;> omega
  have h2 : bitsOf (encPar 7 3 (bd * 524288 + bs * 32768 + bq * 2048 + sc * 256 + bin * 128 + rm * 16)) 7 1 = bin := by simp only [bitsOf, encCtl, encVlt, encPar, encColumn, Nat.reducePow] <;> omega
  have h3 : bitsOf (encPar 7 3 (bd * 524288 + bs * 32768 + bq * 2048 + sc * 256 + bin * 128 + rm * 16)) 8 3 = sc := by simp only [bitsOf, encCtl, encVlt, encPar, encColumn, Nat.reducePow] <;> omega
  have h4 : bitsOf (encPar 7 3 (bd * 524288 + bs * 32768 + bq * 2048 + sc * 256 + bin * 128 + rm * 16)) 11 4 = bq := by simp only [bitsOf, encCtl, encVlt, encPar, encColumn, Nat.reducePow] <;> omega
  have h5 : bitsOf (encPar 7 3 (bd * 524288 + bs * 32768 + bq * 2048 + sc * 256 + bin * 128 + rm * 16)) 15 4 = bs := by simp only [bitsOf, encCtl, encVlt, encPar, encColumn, Nat.reducePow] <;> omega
  have h6 : bitsOf (encPar 7 3 (bd * 524288 + bs * 32768 + bq * 2048 + sc * 256 + bin * 128 + rm * 16)) 19 4 = bd := by simp only [bitsOf, encCtl, encVlt, encPar, encColumn, Nat.reducePow] <;> omega
  have h7 : bitsOf (encPar 7 3 (bd * 524288 + bs * 32768 + bq * 2048 + sc * 256 + bin * 128 + rm * 16)) 23 6 = 3 := by simp only [bitsOf, encCtl, encVlt, encPar, encColumn, Nat.reducePow] <;> omega
  have h8 : bitsOf (encPar 7 3 (bd * 524288 + bs * 32768 + bq * 2048 + sc * 256 + bin * 128 + rm * 16)) 29 3 = 7 := by simp only [bitsOf, encCtl, encVlt, encPar, encColumn, Nat.reducePow] <;> omega
  refine ⟨by simp only [encCtl, encVlt, encPar, encColumn, Nat.reducePow] <;> omega, ?_⟩
  simp_all [Instr.kind, decodeSlot, decodeX, guardWord, extOf, h0, h1, h2, h3, h4, h5, h6, h7, h8]
  omega
theorem ttarm (xb : Nat) (tt : Nat) : Statement (.ttarm xb tt) := by
  intro hw w e hwe
  simp only [Instr.wf, wfCol, wfType, Bool.and_eq_true, Bool.or_eq_true, decide_eq_true_eq, beq_iff_eq] at hw
  obtain ⟨rfl, rfl⟩ := by simpa [encode] using hwe
  have h0 : bitsOf (encPar 7 4 (xb * 131072 + tt * 32)) 0 5 = 0 := by simp only [bitsOf, encCtl, encVlt, encPar, encColumn, Nat.reducePow] <;> omega
  have h1 : bitsOf (encPar 7 4 (xb * 131072 + tt * 32)) 5 12 = tt := by simp only [bitsOf, encCtl, encVlt, encPar, encColumn, Nat.reducePow] <;> omega
  have h2 : bitsOf (encPar 7 4 (xb * 131072 + tt * 32)) 17 6 = xb := by simp only [bitsOf, encCtl, encVlt, encPar, encColumn, Nat.reducePow] <;> omega
  have h3 : bitsOf (encPar 7 4 (xb * 131072 + tt * 32)) 23 6 = 4 := by simp only [bitsOf, encCtl, encVlt, encPar, encColumn, Nat.reducePow] <;> omega
  have h4 : bitsOf (encPar 7 4 (xb * 131072 + tt * 32)) 29 3 = 7 := by simp only [bitsOf, encCtl, encVlt, encPar, encColumn, Nat.reducePow] <;> omega
  refine ⟨by simp only [encCtl, encVlt, encPar, encColumn, Nat.reducePow] <;> omega, ?_⟩
  simp_all [Instr.kind, decodeSlot, decodeX, guardWord, extOf, h0, h1, h2, h3, h4]
theorem lsend (bd : Nat) (bs : Nat) (bc : Nat) : Statement (.lsend bd bs bc) := by
  intro hw w e hwe
  simp only [Instr.wf, wfCol, wfType, Bool.and_eq_true, Bool.or_eq_true, decide_eq_true_eq, beq_iff_eq] at hw
  obtain ⟨rfl, rfl⟩ := by simpa [encode] using hwe
  have h0 : bitsOf (encPar 7 5 (bd * 524288 + bs * 32768 + bc * 2048)) 0 11 = 0 := by simp only [bitsOf, encCtl, encVlt, encPar, encColumn, Nat.reducePow] <;> omega
  have h1 : bitsOf (encPar 7 5 (bd * 524288 + bs * 32768 + bc * 2048)) 11 4 = bc := by simp only [bitsOf, encCtl, encVlt, encPar, encColumn, Nat.reducePow] <;> omega
  have h2 : bitsOf (encPar 7 5 (bd * 524288 + bs * 32768 + bc * 2048)) 15 4 = bs := by simp only [bitsOf, encCtl, encVlt, encPar, encColumn, Nat.reducePow] <;> omega
  have h3 : bitsOf (encPar 7 5 (bd * 524288 + bs * 32768 + bc * 2048)) 19 4 = bd := by simp only [bitsOf, encCtl, encVlt, encPar, encColumn, Nat.reducePow] <;> omega
  have h4 : bitsOf (encPar 7 5 (bd * 524288 + bs * 32768 + bc * 2048)) 23 6 = 5 := by simp only [bitsOf, encCtl, encVlt, encPar, encColumn, Nat.reducePow] <;> omega
  have h5 : bitsOf (encPar 7 5 (bd * 524288 + bs * 32768 + bc * 2048)) 29 3 = 7 := by simp only [bitsOf, encCtl, encVlt, encPar, encColumn, Nat.reducePow] <;> omega
  refine ⟨by simp only [encCtl, encVlt, encPar, encColumn, Nat.reducePow] <;> omega, ?_⟩
  simp_all [Instr.kind, decodeSlot, decodeX, guardWord, extOf, h0, h1, h2, h3, h4, h5]
theorem xstat (d : Nat) (sel : Nat) (port : Nat) : Statement (.xstat d sel port) := by
  intro hw w e hwe
  simp only [Instr.wf, wfCol, wfType, Bool.and_eq_true, Bool.or_eq_true, decide_eq_true_eq, beq_iff_eq] at hw
  obtain ⟨rfl, rfl⟩ := by simpa [encode] using hwe
  have h0 : bitsOf (encPar 7 6 (d * 131072 + sel * 8192 + port * 512)) 0 9 = 0 := by simp only [bitsOf, encCtl, encVlt, encPar, encColumn, Nat.reducePow] <;> omega
  have h1 : bitsOf (encPar 7 6 (d * 131072 + sel * 8192 + port * 512)) 9 4 = port := by simp only [bitsOf, encCtl, encVlt, encPar, encColumn, Nat.reducePow] <;> omega
  have h2 : bitsOf (encPar 7 6 (d * 131072 + sel * 8192 + port * 512)) 13 4 = sel := by simp only [bitsOf, encCtl, encVlt, encPar, encColumn, Nat.reducePow] <;> omega
  have h3 : bitsOf (encPar 7 6 (d * 131072 + sel * 8192 + port * 512)) 17 6 = d := by simp only [bitsOf, encCtl, encVlt, encPar, encColumn, Nat.reducePow] <;> omega
  have h4 : bitsOf (encPar 7 6 (d * 131072 + sel * 8192 + port * 512)) 23 6 = 6 := by simp only [bitsOf, encCtl, encVlt, encPar, encColumn, Nat.reducePow] <;> omega
  have h5 : bitsOf (encPar 7 6 (d * 131072 + sel * 8192 + port * 512)) 29 3 = 7 := by simp only [bitsOf, encCtl, encVlt, encPar, encColumn, Nat.reducePow] <;> omega
  refine ⟨by simp only [encCtl, encVlt, encPar, encColumn, Nat.reducePow] <;> omega, ?_⟩
  simp_all [Instr.kind, decodeSlot, decodeX, guardWord, extOf, h0, h1, h2, h3, h4, h5]
  omega
theorem vaultHalt (g : Nat) : Statement (.vaultHalt g) := by
  intro hw w e hwe
  simp only [Instr.wf, wfCol, wfType, Bool.and_eq_true, Bool.or_eq_true, decide_eq_true_eq, beq_iff_eq] at hw
  obtain ⟨rfl, rfl⟩ := by simpa [encode] using hwe
  have h0 : bitsOf (encVlt 0 g 0) 0 22 = 0 := by simp only [bitsOf, encCtl, encVlt, encPar, encColumn, Nat.reducePow] <;> omega
  have h1 : bitsOf (encVlt 0 g 0) 22 5 = g := by simp only [bitsOf, encCtl, encVlt, encPar, encColumn, Nat.reducePow] <;> omega
  have h2 : bitsOf (encVlt 0 g 0) 27 5 = 0 := by simp only [bitsOf, encCtl, encVlt, encPar, encColumn, Nat.reducePow] <;> omega
  refine ⟨by simp only [encCtl, encVlt, encPar, encColumn, Nat.reducePow] <;> omega, ?_⟩
  simp_all [Instr.kind, decodeVault, guardWord, extOf, h0, h1, h2]
theorem act (g : Nat) (pc : Nat) (bg : Nat) (bk : Nat) (row : Nat) : Statement (.act g pc bg bk row) := by
  intro hw w e hwe
  simp only [Instr.wf, wfCol, wfType, Bool.and_eq_true, Bool.or_eq_true, decide_eq_true_eq, beq_iff_eq] at hw
  obtain ⟨rfl, rfl⟩ := by simpa [encode] using hwe
  have h0 : bitsOf (encVlt 1 g (pc * 1048576 + bg * 262144 + bk * 65536 + row)) 0 15 = row := by simp only [bitsOf, encCtl, encVlt, encPar, encColumn, Nat.reducePow] <;> omega
  have h1 : bitsOf (encVlt 1 g (pc * 1048576 + bg * 262144 + bk * 65536 + row)) 15 1 = 0 := by simp only [bitsOf, encCtl, encVlt, encPar, encColumn, Nat.reducePow] <;> omega
  have h2 : bitsOf (encVlt 1 g (pc * 1048576 + bg * 262144 + bk * 65536 + row)) 16 2 = bk := by simp only [bitsOf, encCtl, encVlt, encPar, encColumn, Nat.reducePow] <;> omega
  have h3 : bitsOf (encVlt 1 g (pc * 1048576 + bg * 262144 + bk * 65536 + row)) 18 2 = bg := by simp only [bitsOf, encCtl, encVlt, encPar, encColumn, Nat.reducePow] <;> omega
  have h4 : bitsOf (encVlt 1 g (pc * 1048576 + bg * 262144 + bk * 65536 + row)) 20 2 = pc := by simp only [bitsOf, encCtl, encVlt, encPar, encColumn, Nat.reducePow] <;> omega
  have h5 : bitsOf (encVlt 1 g (pc * 1048576 + bg * 262144 + bk * 65536 + row)) 22 5 = g := by simp only [bitsOf, encCtl, encVlt, encPar, encColumn, Nat.reducePow] <;> omega
  have h6 : bitsOf (encVlt 1 g (pc * 1048576 + bg * 262144 + bk * 65536 + row)) 27 5 = 1 := by simp only [bitsOf, encCtl, encVlt, encPar, encColumn, Nat.reducePow] <;> omega
  refine ⟨by simp only [encCtl, encVlt, encPar, encColumn, Nat.reducePow] <;> omega, ?_⟩
  simp_all [Instr.kind, decodeVault, guardWord, extOf, h0, h1, h2, h3, h4, h5, h6]
theorem rd (g : Nat) (pc : Nat) (bg : Nat) (bk : Nat) (col : Nat) (pl : Nat) (u : Nat) : Statement (.rd g pc bg bk col pl u) := by
  intro hw w e hwe
  simp only [Instr.wf, wfCol, wfType, Bool.and_eq_true, Bool.or_eq_true, decide_eq_true_eq, beq_iff_eq] at hw
  obtain ⟨rfl, rfl⟩ := by simpa [encode] using hwe
  have h0 : bitsOf (encVlt 2 g (encColumn pc bg bk col pl u)) 0 9 = u := by simp only [bitsOf, encCtl, encVlt, encPar, encColumn, Nat.reducePow] <;> omega
  have h1 : bitsOf (encVlt 2 g (encColumn pc bg bk col pl u)) 9 3 = pl := by simp only [bitsOf, encCtl, encVlt, encPar, encColumn, Nat.reducePow] <;> omega
  have h2 : bitsOf (encVlt 2 g (encColumn pc bg bk col pl u)) 12 4 = col := by simp only [bitsOf, encCtl, encVlt, encPar, encColumn, Nat.reducePow] <;> omega
  have h3 : bitsOf (encVlt 2 g (encColumn pc bg bk col pl u)) 16 2 = bk := by simp only [bitsOf, encCtl, encVlt, encPar, encColumn, Nat.reducePow] <;> omega
  have h4 : bitsOf (encVlt 2 g (encColumn pc bg bk col pl u)) 18 2 = bg := by simp only [bitsOf, encCtl, encVlt, encPar, encColumn, Nat.reducePow] <;> omega
  have h5 : bitsOf (encVlt 2 g (encColumn pc bg bk col pl u)) 20 2 = pc := by simp only [bitsOf, encCtl, encVlt, encPar, encColumn, Nat.reducePow] <;> omega
  have h6 : bitsOf (encVlt 2 g (encColumn pc bg bk col pl u)) 22 5 = g := by simp only [bitsOf, encCtl, encVlt, encPar, encColumn, Nat.reducePow] <;> omega
  have h7 : bitsOf (encVlt 2 g (encColumn pc bg bk col pl u)) 27 5 = 2 := by simp only [bitsOf, encCtl, encVlt, encPar, encColumn, Nat.reducePow] <;> omega
  refine ⟨by simp only [encCtl, encVlt, encPar, encColumn, Nat.reducePow] <;> omega, ?_⟩
  simp_all [Instr.kind, decodeVault, guardWord, extOf, h0, h1, h2, h3, h4, h5, h6, h7]
theorem rda (g : Nat) (pc : Nat) (bg : Nat) (bk : Nat) (col : Nat) (pl : Nat) (u : Nat) : Statement (.rda g pc bg bk col pl u) := by
  intro hw w e hwe
  simp only [Instr.wf, wfCol, wfType, Bool.and_eq_true, Bool.or_eq_true, decide_eq_true_eq, beq_iff_eq] at hw
  obtain ⟨rfl, rfl⟩ := by simpa [encode] using hwe
  have h0 : bitsOf (encVlt 3 g (encColumn pc bg bk col pl u)) 0 9 = u := by simp only [bitsOf, encCtl, encVlt, encPar, encColumn, Nat.reducePow] <;> omega
  have h1 : bitsOf (encVlt 3 g (encColumn pc bg bk col pl u)) 9 3 = pl := by simp only [bitsOf, encCtl, encVlt, encPar, encColumn, Nat.reducePow] <;> omega
  have h2 : bitsOf (encVlt 3 g (encColumn pc bg bk col pl u)) 12 4 = col := by simp only [bitsOf, encCtl, encVlt, encPar, encColumn, Nat.reducePow] <;> omega
  have h3 : bitsOf (encVlt 3 g (encColumn pc bg bk col pl u)) 16 2 = bk := by simp only [bitsOf, encCtl, encVlt, encPar, encColumn, Nat.reducePow] <;> omega
  have h4 : bitsOf (encVlt 3 g (encColumn pc bg bk col pl u)) 18 2 = bg := by simp only [bitsOf, encCtl, encVlt, encPar, encColumn, Nat.reducePow] <;> omega
  have h5 : bitsOf (encVlt 3 g (encColumn pc bg bk col pl u)) 20 2 = pc := by simp only [bitsOf, encCtl, encVlt, encPar, encColumn, Nat.reducePow] <;> omega
  have h6 : bitsOf (encVlt 3 g (encColumn pc bg bk col pl u)) 22 5 = g := by simp only [bitsOf, encCtl, encVlt, encPar, encColumn, Nat.reducePow] <;> omega
  have h7 : bitsOf (encVlt 3 g (encColumn pc bg bk col pl u)) 27 5 = 3 := by simp only [bitsOf, encCtl, encVlt, encPar, encColumn, Nat.reducePow] <;> omega
  refine ⟨by simp only [encCtl, encVlt, encPar, encColumn, Nat.reducePow] <;> omega, ?_⟩
  simp_all [Instr.kind, decodeVault, guardWord, extOf, h0, h1, h2, h3, h4, h5, h6, h7]
theorem wr (g : Nat) (pc : Nat) (bg : Nat) (bk : Nat) (col : Nat) (pl : Nat) (u : Nat) : Statement (.wr g pc bg bk col pl u) := by
  intro hw w e hwe
  simp only [Instr.wf, wfCol, wfType, Bool.and_eq_true, Bool.or_eq_true, decide_eq_true_eq, beq_iff_eq] at hw
  obtain ⟨rfl, rfl⟩ := by simpa [encode] using hwe
  have h0 : bitsOf (encVlt 4 g (encColumn pc bg bk col pl u)) 0 9 = u := by simp only [bitsOf, encCtl, encVlt, encPar, encColumn, Nat.reducePow] <;> omega
  have h1 : bitsOf (encVlt 4 g (encColumn pc bg bk col pl u)) 9 3 = pl := by simp only [bitsOf, encCtl, encVlt, encPar, encColumn, Nat.reducePow] <;> omega
  have h2 : bitsOf (encVlt 4 g (encColumn pc bg bk col pl u)) 12 4 = col := by simp only [bitsOf, encCtl, encVlt, encPar, encColumn, Nat.reducePow] <;> omega
  have h3 : bitsOf (encVlt 4 g (encColumn pc bg bk col pl u)) 16 2 = bk := by simp only [bitsOf, encCtl, encVlt, encPar, encColumn, Nat.reducePow] <;> omega
  have h4 : bitsOf (encVlt 4 g (encColumn pc bg bk col pl u)) 18 2 = bg := by simp only [bitsOf, encCtl, encVlt, encPar, encColumn, Nat.reducePow] <;> omega
  have h5 : bitsOf (encVlt 4 g (encColumn pc bg bk col pl u)) 20 2 = pc := by simp only [bitsOf, encCtl, encVlt, encPar, encColumn, Nat.reducePow] <;> omega
  have h6 : bitsOf (encVlt 4 g (encColumn pc bg bk col pl u)) 22 5 = g := by simp only [bitsOf, encCtl, encVlt, encPar, encColumn, Nat.reducePow] <;> omega
  have h7 : bitsOf (encVlt 4 g (encColumn pc bg bk col pl u)) 27 5 = 4 := by simp only [bitsOf, encCtl, encVlt, encPar, encColumn, Nat.reducePow] <;> omega
  refine ⟨by simp only [encCtl, encVlt, encPar, encColumn, Nat.reducePow] <;> omega, ?_⟩
  simp_all [Instr.kind, decodeVault, guardWord, extOf, h0, h1, h2, h3, h4, h5, h6, h7]
theorem wra (g : Nat) (pc : Nat) (bg : Nat) (bk : Nat) (col : Nat) (pl : Nat) (u : Nat) : Statement (.wra g pc bg bk col pl u) := by
  intro hw w e hwe
  simp only [Instr.wf, wfCol, wfType, Bool.and_eq_true, Bool.or_eq_true, decide_eq_true_eq, beq_iff_eq] at hw
  obtain ⟨rfl, rfl⟩ := by simpa [encode] using hwe
  have h0 : bitsOf (encVlt 5 g (encColumn pc bg bk col pl u)) 0 9 = u := by simp only [bitsOf, encCtl, encVlt, encPar, encColumn, Nat.reducePow] <;> omega
  have h1 : bitsOf (encVlt 5 g (encColumn pc bg bk col pl u)) 9 3 = pl := by simp only [bitsOf, encCtl, encVlt, encPar, encColumn, Nat.reducePow] <;> omega
  have h2 : bitsOf (encVlt 5 g (encColumn pc bg bk col pl u)) 12 4 = col := by simp only [bitsOf, encCtl, encVlt, encPar, encColumn, Nat.reducePow] <;> omega
  have h3 : bitsOf (encVlt 5 g (encColumn pc bg bk col pl u)) 16 2 = bk := by simp only [bitsOf, encCtl, encVlt, encPar, encColumn, Nat.reducePow] <;> omega
  have h4 : bitsOf (encVlt 5 g (encColumn pc bg bk col pl u)) 18 2 = bg := by simp only [bitsOf, encCtl, encVlt, encPar, encColumn, Nat.reducePow] <;> omega
  have h5 : bitsOf (encVlt 5 g (encColumn pc bg bk col pl u)) 20 2 = pc := by simp only [bitsOf, encCtl, encVlt, encPar, encColumn, Nat.reducePow] <;> omega
  have h6 : bitsOf (encVlt 5 g (encColumn pc bg bk col pl u)) 22 5 = g := by simp only [bitsOf, encCtl, encVlt, encPar, encColumn, Nat.reducePow] <;> omega
  have h7 : bitsOf (encVlt 5 g (encColumn pc bg bk col pl u)) 27 5 = 5 := by simp only [bitsOf, encCtl, encVlt, encPar, encColumn, Nat.reducePow] <;> omega
  refine ⟨by simp only [encCtl, encVlt, encPar, encColumn, Nat.reducePow] <;> omega, ?_⟩
  simp_all [Instr.kind, decodeVault, guardWord, extOf, h0, h1, h2, h3, h4, h5, h6, h7]
theorem pre (g : Nat) (pc : Nat) (bg : Nat) (bk : Nat) : Statement (.pre g pc bg bk) := by
  intro hw w e hwe
  simp only [Instr.wf, wfCol, wfType, Bool.and_eq_true, Bool.or_eq_true, decide_eq_true_eq, beq_iff_eq] at hw
  obtain ⟨rfl, rfl⟩ := by simpa [encode] using hwe
  have h0 : bitsOf (encVlt 6 g (pc * 1048576 + bg * 262144 + bk * 65536)) 0 16 = 0 := by simp only [bitsOf, encCtl, encVlt, encPar, encColumn, Nat.reducePow] <;> omega
  have h1 : bitsOf (encVlt 6 g (pc * 1048576 + bg * 262144 + bk * 65536)) 16 2 = bk := by simp only [bitsOf, encCtl, encVlt, encPar, encColumn, Nat.reducePow] <;> omega
  have h2 : bitsOf (encVlt 6 g (pc * 1048576 + bg * 262144 + bk * 65536)) 18 2 = bg := by simp only [bitsOf, encCtl, encVlt, encPar, encColumn, Nat.reducePow] <;> omega
  have h3 : bitsOf (encVlt 6 g (pc * 1048576 + bg * 262144 + bk * 65536)) 20 2 = pc := by simp only [bitsOf, encCtl, encVlt, encPar, encColumn, Nat.reducePow] <;> omega
  have h4 : bitsOf (encVlt 6 g (pc * 1048576 + bg * 262144 + bk * 65536)) 22 5 = g := by simp only [bitsOf, encCtl, encVlt, encPar, encColumn, Nat.reducePow] <;> omega
  have h5 : bitsOf (encVlt 6 g (pc * 1048576 + bg * 262144 + bk * 65536)) 27 5 = 6 := by simp only [bitsOf, encCtl, encVlt, encPar, encColumn, Nat.reducePow] <;> omega
  refine ⟨by simp only [encCtl, encVlt, encPar, encColumn, Nat.reducePow] <;> omega, ?_⟩
  simp_all [Instr.kind, decodeVault, guardWord, extOf, h0, h1, h2, h3, h4, h5]
theorem prea (g : Nat) (pc : Nat) : Statement (.prea g pc) := by
  intro hw w e hwe
  simp only [Instr.wf, wfCol, wfType, Bool.and_eq_true, Bool.or_eq_true, decide_eq_true_eq, beq_iff_eq] at hw
  obtain ⟨rfl, rfl⟩ := by simpa [encode] using hwe
  have h0 : bitsOf (encVlt 7 g (pc * 1048576)) 0 20 = 0 := by simp only [bitsOf, encCtl, encVlt, encPar, encColumn, Nat.reducePow] <;> omega
  have h1 : bitsOf (encVlt 7 g (pc * 1048576)) 20 2 = pc := by simp only [bitsOf, encCtl, encVlt, encPar, encColumn, Nat.reducePow] <;> omega
  have h2 : bitsOf (encVlt 7 g (pc * 1048576)) 22 5 = g := by simp only [bitsOf, encCtl, encVlt, encPar, encColumn, Nat.reducePow] <;> omega
  have h3 : bitsOf (encVlt 7 g (pc * 1048576)) 27 5 = 7 := by simp only [bitsOf, encCtl, encVlt, encPar, encColumn, Nat.reducePow] <;> omega
  refine ⟨by simp only [encCtl, encVlt, encPar, encColumn, Nat.reducePow] <;> omega, ?_⟩
  simp_all [Instr.kind, decodeVault, guardWord, extOf, h0, h1, h2, h3]
theorem refpb (g : Nat) (pc : Nat) (bg : Nat) (bk : Nat) : Statement (.refpb g pc bg bk) := by
  intro hw w e hwe
  simp only [Instr.wf, wfCol, wfType, Bool.and_eq_true, Bool.or_eq_true, decide_eq_true_eq, beq_iff_eq] at hw
  obtain ⟨rfl, rfl⟩ := by simpa [encode] using hwe
  have h0 : bitsOf (encVlt 8 g (pc * 1048576 + bg * 262144 + bk * 65536)) 0 16 = 0 := by simp only [bitsOf, encCtl, encVlt, encPar, encColumn, Nat.reducePow] <;> omega
  have h1 : bitsOf (encVlt 8 g (pc * 1048576 + bg * 262144 + bk * 65536)) 16 2 = bk := by simp only [bitsOf, encCtl, encVlt, encPar, encColumn, Nat.reducePow] <;> omega
  have h2 : bitsOf (encVlt 8 g (pc * 1048576 + bg * 262144 + bk * 65536)) 18 2 = bg := by simp only [bitsOf, encCtl, encVlt, encPar, encColumn, Nat.reducePow] <;> omega
  have h3 : bitsOf (encVlt 8 g (pc * 1048576 + bg * 262144 + bk * 65536)) 20 2 = pc := by simp only [bitsOf, encCtl, encVlt, encPar, encColumn, Nat.reducePow] <;> omega
  have h4 : bitsOf (encVlt 8 g (pc * 1048576 + bg * 262144 + bk * 65536)) 22 5 = g := by simp only [bitsOf, encCtl, encVlt, encPar, encColumn, Nat.reducePow] <;> omega
  have h5 : bitsOf (encVlt 8 g (pc * 1048576 + bg * 262144 + bk * 65536)) 27 5 = 8 := by simp only [bitsOf, encCtl, encVlt, encPar, encColumn, Nat.reducePow] <;> omega
  refine ⟨by simp only [encCtl, encVlt, encPar, encColumn, Nat.reducePow] <;> omega, ?_⟩
  simp_all [Instr.kind, decodeVault, guardWord, extOf, h0, h1, h2, h3, h4, h5]
theorem refab (g : Nat) (pc : Nat) : Statement (.refab g pc) := by
  intro hw w e hwe
  simp only [Instr.wf, wfCol, wfType, Bool.and_eq_true, Bool.or_eq_true, decide_eq_true_eq, beq_iff_eq] at hw
  obtain ⟨rfl, rfl⟩ := by simpa [encode] using hwe
  have h0 : bitsOf (encVlt 9 g (pc * 1048576)) 0 20 = 0 := by simp only [bitsOf, encCtl, encVlt, encPar, encColumn, Nat.reducePow] <;> omega
  have h1 : bitsOf (encVlt 9 g (pc * 1048576)) 20 2 = pc := by simp only [bitsOf, encCtl, encVlt, encPar, encColumn, Nat.reducePow] <;> omega
  have h2 : bitsOf (encVlt 9 g (pc * 1048576)) 22 5 = g := by simp only [bitsOf, encCtl, encVlt, encPar, encColumn, Nat.reducePow] <;> omega
  have h3 : bitsOf (encVlt 9 g (pc * 1048576)) 27 5 = 9 := by simp only [bitsOf, encCtl, encVlt, encPar, encColumn, Nat.reducePow] <;> omega
  refine ⟨by simp only [encCtl, encVlt, encPar, encColumn, Nat.reducePow] <;> omega, ?_⟩
  simp_all [Instr.kind, decodeVault, guardWord, extOf, h0, h1, h2, h3]
theorem wait (g : Nat) (n : Nat) : Statement (.wait g n) := by
  intro hw w e hwe
  simp only [Instr.wf, wfCol, wfType, Bool.and_eq_true, Bool.or_eq_true, decide_eq_true_eq, beq_iff_eq] at hw
  obtain ⟨rfl, rfl⟩ := by simpa [encode] using hwe
  have h0 : bitsOf (encVlt 10 g n) 0 22 = n := by simp only [bitsOf, encCtl, encVlt, encPar, encColumn, Nat.reducePow] <;> omega
  have h1 : bitsOf (encVlt 10 g n) 22 5 = g := by simp only [bitsOf, encCtl, encVlt, encPar, encColumn, Nat.reducePow] <;> omega
  have h2 : bitsOf (encVlt 10 g n) 27 5 = 10 := by simp only [bitsOf, encCtl, encVlt, encPar, encColumn, Nat.reducePow] <;> omega
  refine ⟨by simp only [encCtl, encVlt, encPar, encColumn, Nat.reducePow] <;> omega, ?_⟩
  simp_all [Instr.kind, decodeVault, guardWord, extOf, h0, h1, h2]
theorem loop (g : Nat) (dist : Nat) (cnt : Nat) : Statement (.loop g dist cnt) := by
  intro hw w e hwe
  simp only [Instr.wf, wfCol, wfType, Bool.and_eq_true, Bool.or_eq_true, decide_eq_true_eq, beq_iff_eq] at hw
  obtain ⟨rfl, rfl⟩ := by simpa [encode] using hwe
  have h0 : bitsOf (encVlt 11 g (dist * 4096 + cnt)) 0 12 = cnt := by simp only [bitsOf, encCtl, encVlt, encPar, encColumn, Nat.reducePow] <;> omega
  have h1 : bitsOf (encVlt 11 g (dist * 4096 + cnt)) 12 10 = dist := by simp only [bitsOf, encCtl, encVlt, encPar, encColumn, Nat.reducePow] <;> omega
  have h2 : bitsOf (encVlt 11 g (dist * 4096 + cnt)) 22 5 = g := by simp only [bitsOf, encCtl, encVlt, encPar, encColumn, Nat.reducePow] <;> omega
  have h3 : bitsOf (encVlt 11 g (dist * 4096 + cnt)) 27 5 = 11 := by simp only [bitsOf, encCtl, encVlt, encPar, encColumn, Nat.reducePow] <;> omega
  refine ⟨by simp only [encCtl, encVlt, encPar, encColumn, Nat.reducePow] <;> omega, ?_⟩
  simp_all [Instr.kind, decodeVault, guardWord, extOf, h0, h1, h2, h3]
theorem jump (g : Nat) (tgt : Nat) : Statement (.jump g tgt) := by
  intro hw w e hwe
  simp only [Instr.wf, wfCol, wfType, Bool.and_eq_true, Bool.or_eq_true, decide_eq_true_eq, beq_iff_eq] at hw
  obtain ⟨rfl, rfl⟩ := by simpa [encode] using hwe
  have h0 : bitsOf (encVlt 12 g (tgt * 1024)) 0 10 = 0 := by simp only [bitsOf, encCtl, encVlt, encPar, encColumn, Nat.reducePow] <;> omega
  have h1 : bitsOf (encVlt 12 g (tgt * 1024)) 10 12 = tgt := by simp only [bitsOf, encCtl, encVlt, encPar, encColumn, Nat.reducePow] <;> omega
  have h2 : bitsOf (encVlt 12 g (tgt * 1024)) 22 5 = g := by simp only [bitsOf, encCtl, encVlt, encPar, encColumn, Nat.reducePow] <;> omega
  have h3 : bitsOf (encVlt 12 g (tgt * 1024)) 27 5 = 12 := by simp only [bitsOf, encCtl, encVlt, encPar, encColumn, Nat.reducePow] <;> omega
  refine ⟨by simp only [encCtl, encVlt, encPar, encColumn, Nat.reducePow] <;> omega, ?_⟩
  simp_all [Instr.kind, decodeVault, guardWord, extOf, h0, h1, h2, h3]
theorem start (g : Nat) (dt : Nat) : Statement (.start g dt) := by
  intro hw w e hwe
  simp only [Instr.wf, wfCol, wfType, Bool.and_eq_true, Bool.or_eq_true, decide_eq_true_eq, beq_iff_eq] at hw
  obtain ⟨rfl, rfl⟩ := by simpa [encode] using hwe
  have h0 : bitsOf (encVlt 13 g dt) 0 22 = dt := by simp only [bitsOf, encCtl, encVlt, encPar, encColumn, Nat.reducePow] <;> omega
  have h1 : bitsOf (encVlt 13 g dt) 22 5 = g := by simp only [bitsOf, encCtl, encVlt, encPar, encColumn, Nat.reducePow] <;> omega
  have h2 : bitsOf (encVlt 13 g dt) 27 5 = 13 := by simp only [bitsOf, encCtl, encVlt, encPar, encColumn, Nat.reducePow] <;> omega
  refine ⟨by simp only [encCtl, encVlt, encPar, encColumn, Nat.reducePow] <;> omega, ?_⟩
  simp_all [Instr.kind, decodeVault, guardWord, extOf, h0, h1, h2]
theorem vopen (g : Nat) (n : Nat) : Statement (.vopen g n) := by
  intro hw w e hwe
  simp only [Instr.wf, wfCol, wfType, Bool.and_eq_true, Bool.or_eq_true, decide_eq_true_eq, beq_iff_eq] at hw
  obtain ⟨rfl, rfl⟩ := by simpa [encode] using hwe
  have h0 : bitsOf (encVlt 14 g n) 0 22 = n := by simp only [bitsOf, encCtl, encVlt, encPar, encColumn, Nat.reducePow] <;> omega
  have h1 : bitsOf (encVlt 14 g n) 22 5 = g := by simp only [bitsOf, encCtl, encVlt, encPar, encColumn, Nat.reducePow] <;> omega
  have h2 : bitsOf (encVlt 14 g n) 27 5 = 14 := by simp only [bitsOf, encCtl, encVlt, encPar, encColumn, Nat.reducePow] <;> omega
  refine ⟨by simp only [encCtl, encVlt, encPar, encColumn, Nat.reducePow] <;> omega, ?_⟩
  simp_all [Instr.kind, decodeVault, guardWord, extOf, h0, h1, h2]
theorem tagw (g : Nat) (pl : Nat) (u : Nat) : Statement (.tagw g pl u) := by
  intro hw w e hwe
  simp only [Instr.wf, wfCol, wfType, Bool.and_eq_true, Bool.or_eq_true, decide_eq_true_eq, beq_iff_eq] at hw
  obtain ⟨rfl, rfl⟩ := by simpa [encode] using hwe
  have h0 : bitsOf (encVlt 15 g (pl * 524288 + u * 1024)) 0 10 = 0 := by simp only [bitsOf, encCtl, encVlt, encPar, encColumn, Nat.reducePow] <;> omega
  have h1 : bitsOf (encVlt 15 g (pl * 524288 + u * 1024)) 10 9 = u := by simp only [bitsOf, encCtl, encVlt, encPar, encColumn, Nat.reducePow] <;> omega
  have h2 : bitsOf (encVlt 15 g (pl * 524288 + u * 1024)) 19 3 = pl := by simp only [bitsOf, encCtl, encVlt, encPar, encColumn, Nat.reducePow] <;> omega
  have h3 : bitsOf (encVlt 15 g (pl * 524288 + u * 1024)) 22 5 = g := by simp only [bitsOf, encCtl, encVlt, encPar, encColumn, Nat.reducePow] <;> omega
  have h4 : bitsOf (encVlt 15 g (pl * 524288 + u * 1024)) 27 5 = 15 := by simp only [bitsOf, encCtl, encVlt, encPar, encColumn, Nat.reducePow] <;> omega
  refine ⟨by simp only [encCtl, encVlt, encPar, encColumn, Nat.reducePow] <;> omega, ?_⟩
  simp_all [Instr.kind, decodeVault, guardWord, extOf, h0, h1, h2, h3, h4]

/-! The immediate format (R44) and its header extension. -/

theorem encImm_fields {op d a : Nat} {i : Int} (ho : op < 64) (hd : d < 64) (ha : a < 128) (hi : wfImm i = true) :
    (encImm op d a i).1 < 2 ^ 32 ∧ bitsOf (encImm op d a i).1 29 3 = 1 ∧ bitsOf (encImm op d a i).1 23 6 = op ∧
    bitsOf (encImm op d a i).1 17 6 = d ∧ bitsOf (encImm op d a i).1 10 7 = a ∧
    immOf (encImm op d a i).1 (encImm op d a i).2 = i := by
  simp only [wfImm, Bool.and_eq_true, decide_eq_true_eq] at hi
  have e : (encImm op d a i).1 = 536870912 + op * 8388608 + (d * 131072 + a * 1024 + (i % 32768).toNat % 1024) := by
    simp [encImm, encPar, immBits]
  have h0 : bitsOf (encImm op d a i).1 0 10 = (i % 32768).toNat % 1024 := by
    rw [e]; simp only [bitsOf, Nat.reducePow]; omega
  refine ⟨by rw [e]; omega, by rw [e]; simp only [bitsOf, Nat.reducePow]; omega, by rw [e]; simp only [bitsOf, Nat.reducePow]; omega,
    by rw [e]; simp only [bitsOf, Nat.reducePow]; omega, by rw [e]; simp only [bitsOf, Nat.reducePow]; omega, ?_⟩
  by_cases hs : -512 ≤ i ∧ i < 512
  · have h2 : (encImm op d a i).2 = none := by simp [encImm, hs]
    rw [h2]
    simp only [immOf, h0, sextOf]
    split <;> omega
  · have h2 : (encImm op d a i).2 = some ((i % 32768).toNat / 1024) := by simp [encImm, immBits]; omega
    rw [h2]
    simp only [immOf, h0, sextOf]
    split <;> omega

theorem movi (d : Nat) (i : Int) : Statement (.movi d i) := by
  intro hw w e hwe
  simp only [Instr.wf, Bool.and_eq_true, decide_eq_true_eq] at hw
  obtain ⟨f1, f2, f3, f4, f5, f6⟩ := encImm_fields (op := 1) (a := 0) (by omega) hw.1 (by omega) hw.2
  simp only [encode, Option.some.injEq] at hwe
  rw [hwe] at f1 f2 f3 f4 f5 f6
  exact ⟨f1, by simp [Instr.kind, decodeSlot, decodeS, f2, f3, f5, f6, guardWord, regF, f4]⟩

theorem movhi (d : Nat) (i : Int) : Statement (.movhi d i) := by
  intro hw w e hwe
  simp only [Instr.wf, Bool.and_eq_true, decide_eq_true_eq] at hw
  obtain ⟨f1, f2, f3, f4, f5, f6⟩ := encImm_fields (op := 2) (a := 0) (by omega) hw.1 (by omega) hw.2
  simp only [encode, Option.some.injEq] at hwe
  rw [hwe] at f1 f2 f3 f4 f5 f6
  exact ⟨f1, by simp [Instr.kind, decodeSlot, decodeS, f2, f3, f5, f6, guardWord, regF, f4]⟩

theorem addi (d : Nat) (a : Src) (i : Int) : Statement (.addi d a i) := by
  intro hw w e hwe
  simp only [Instr.wf, Bool.and_eq_true, decide_eq_true_eq] at hw
  obtain ⟨f1, f2, f3, f4, f5, f6⟩ := encImm_fields (op := 4) (by omega) hw.1.1 (enc_lt hw.1.2) hw.2
  simp only [encode, Option.some.injEq] at hwe
  rw [hwe] at f1 f2 f3 f4 f5 f6
  exact ⟨f1, by simp [Instr.kind, decodeSlot, decodeS, f2, f3, f5, f6, guardWord, regF, f4, srcOf_enc hw.1.2]⟩

/-! Register-format words with checks of their own. -/

theorem fcvt (d : Nat) (nb : Bool) (a : Src) (s m : Nat) : Statement (.fcvt d nb a s m) := by
  intro hw w e hwe
  simp only [Instr.wf, wfReg, Bool.and_eq_true, Bool.or_eq_true, Bool.not_eq_true', decide_eq_true_eq, beq_iff_eq] at hw
  obtain ⟨rfl, rfl⟩ := by simpa [encode] using hwe
  have sa : a.wf = true := hw.1.1.2
  have ta := enc_lt sa
  obtain ⟨f1, f2, f3, f4, f5, f6, f7, f8, f9⟩ := encReg_fields (cls := 1) (op := 29) (d := d) (a := a.enc) (b := s) (m := m) nb
    (by omega) (by omega) (by omega) (by omega) (by omega) (by omega)
  refine ⟨f1, ?_⟩
  show decodeSlot _ _ = _
  simp [decodeSlot, decodeS, f2, f3, f4, f5, f6, f7, f8, f9, guardWord, RegF.destOk, srcOf_enc sa]
  repeat' split
  all_goals first
    | (exfalso; cases nb <;> simp_all <;> omega)
    | (exfalso; simp_all; done)
    | (simp; done)
    | omega
    | (cases nb <;> simp_all; done)
    | (simp; omega)

theorem vcmp (c p : Nat) (nb : Bool) (a b : Src) (w : Nat) : Statement (.vcmp c p nb a b w) := by
  intro hw w e hwe
  simp only [Instr.wf, wfReg, Bool.and_eq_true, Bool.or_eq_true, Bool.not_eq_true', decide_eq_true_eq, beq_iff_eq] at hw
  obtain ⟨rfl, rfl⟩ := by simpa [encode] using hwe
  have sa : a.wf = true := hw.1.1.2
  have ta := enc_lt sa
  have sb : b.wf = true := hw.1.2
  have tb := enc_lt sb
  obtain ⟨f1, f2, f3, f4, f5, f6, f7, f8, f9⟩ := encReg_fields (cls := 2) (op := 16) (d := c * 16 + p) (a := a.enc) (b := b.enc) (m := w) nb
    (by omega) (by omega) (by omega) (by omega) (by omega) (by omega)
  refine ⟨f1, ?_⟩
  show decodeSlot _ _ = _
  simp [decodeSlot, decodeV, two, f2, f3, f4, f5, f6, f7, f8, f9, guardWord, RegF.destOk, srcOf_enc sa, srcOf_enc sb]
  repeat' split
  all_goals first
    | (exfalso; cases nb <;> simp_all <;> omega)
    | (exfalso; simp_all; done)
    | (simp; done)
    | omega
    | (cases nb <;> simp_all; done)
    | (simp; omega)

theorem pand (d : Nat) (nb : Bool) (a b : Src) : Statement (.pand d nb a b) := by
  intro hw w e hwe
  simp only [Instr.wf, wfReg, Bool.and_eq_true, Bool.or_eq_true, Bool.not_eq_true', decide_eq_true_eq, beq_iff_eq] at hw
  obtain ⟨rfl, rfl⟩ := by simpa [encode] using hwe
  have pa : a.wfPred = true := hw.1.2
  have sa := wf_of_wfPred pa
  have ta := enc_lt sa
  have pb : b.wfPred = true := hw.2
  have sb := wf_of_wfPred pb
  have tb := enc_lt sb
  obtain ⟨f1, f2, f3, f4, f5, f6, f7, f8, f9⟩ := encReg_fields (cls := 2) (op := 38) (d := d) (a := a.enc) (b := b.enc) (m := 0) nb
    (by omega) (by omega) (by omega) (by omega) (by omega) (by omega)
  refine ⟨f1, ?_⟩
  show decodeSlot _ _ = _
  simp [decodeSlot, decodeV, twoPred, f2, f3, f4, f5, f6, f7, f8, f9, guardWord, RegF.destOk, predOf_enc pa, predOf_enc pb]
  repeat' split
  all_goals first
    | (exfalso; cases nb <;> simp_all <;> omega)
    | (exfalso; simp_all; done)
    | (simp; done)
    | omega
    | (cases nb <;> simp_all; done)
    | (simp; omega)

theorem por (d : Nat) (nb : Bool) (a b : Src) : Statement (.por d nb a b) := by
  intro hw w e hwe
  simp only [Instr.wf, wfReg, Bool.and_eq_true, Bool.or_eq_true, Bool.not_eq_true', decide_eq_true_eq, beq_iff_eq] at hw
  obtain ⟨rfl, rfl⟩ := by simpa [encode] using hwe
  have pa : a.wfPred = true := hw.1.2
  have sa := wf_of_wfPred pa
  have ta := enc_lt sa
  have pb : b.wfPred = true := hw.2
  have sb := wf_of_wfPred pb
  have tb := enc_lt sb
  obtain ⟨f1, f2, f3, f4, f5, f6, f7, f8, f9⟩ := encReg_fields (cls := 2) (op := 39) (d := d) (a := a.enc) (b := b.enc) (m := 0) nb
    (by omega) (by omega) (by omega) (by omega) (by omega) (by omega)
  refine ⟨f1, ?_⟩
  show decodeSlot _ _ = _
  simp [decodeSlot, decodeV, twoPred, f2, f3, f4, f5, f6, f7, f8, f9, guardWord, RegF.destOk, predOf_enc pa, predOf_enc pb]
  repeat' split
  all_goals first
    | (exfalso; cases nb <;> simp_all <;> omega)
    | (exfalso; simp_all; done)
    | (simp; done)
    | omega
    | (cases nb <;> simp_all; done)
    | (simp; omega)

theorem pxor (d : Nat) (nb : Bool) (a b : Src) : Statement (.pxor d nb a b) := by
  intro hw w e hwe
  simp only [Instr.wf, wfReg, Bool.and_eq_true, Bool.or_eq_true, Bool.not_eq_true', decide_eq_true_eq, beq_iff_eq] at hw
  obtain ⟨rfl, rfl⟩ := by simpa [encode] using hwe
  have pa : a.wfPred = true := hw.1.2
  have sa := wf_of_wfPred pa
  have ta := enc_lt sa
  have pb : b.wfPred = true := hw.2
  have sb := wf_of_wfPred pb
  have tb := enc_lt sb
  obtain ⟨f1, f2, f3, f4, f5, f6, f7, f8, f9⟩ := encReg_fields (cls := 2) (op := 40) (d := d) (a := a.enc) (b := b.enc) (m := 0) nb
    (by omega) (by omega) (by omega) (by omega) (by omega) (by omega)
  refine ⟨f1, ?_⟩
  show decodeSlot _ _ = _
  simp [decodeSlot, decodeV, twoPred, f2, f3, f4, f5, f6, f7, f8, f9, guardWord, RegF.destOk, predOf_enc pa, predOf_enc pb]
  repeat' split
  all_goals first
    | (exfalso; cases nb <;> simp_all <;> omega)
    | (exfalso; simp_all; done)
    | (simp; done)
    | omega
    | (cases nb <;> simp_all; done)
    | (simp; omega)

theorem pnot (d : Nat) (nb : Bool) (a : Src) : Statement (.pnot d nb a) := by
  intro hw w e hwe
  simp only [Instr.wf, wfReg, Bool.and_eq_true, Bool.or_eq_true, Bool.not_eq_true', decide_eq_true_eq, beq_iff_eq] at hw
  obtain ⟨rfl, rfl⟩ := by simpa [encode] using hwe
  have pa : a.wfPred = true := hw.2
  have sa := wf_of_wfPred pa
  have ta := enc_lt sa
  obtain ⟨f1, f2, f3, f4, f5, f6, f7, f8, f9⟩ := encReg_fields (cls := 2) (op := 41) (d := d) (a := a.enc) (b := 0) (m := 0) nb
    (by omega) (by omega) (by omega) (by omega) (by omega) (by omega)
  refine ⟨f1, ?_⟩
  show decodeSlot _ _ = _
  simp [decodeSlot, decodeV, f2, f3, f4, f5, f6, f7, f8, f9, guardWord, RegF.destOk, predOf_enc pa]
  repeat' split
  all_goals first
    | (exfalso; cases nb <;> simp_all <;> omega)
    | (exfalso; simp_all; done)
    | (simp; done)
    | omega
    | (cases nb <;> simp_all; done)
    | (simp; omega)

theorem pcnt (d : Nat) (nb : Bool) (a : Src) : Statement (.pcnt d nb a) := by
  intro hw w e hwe
  simp only [Instr.wf, wfReg, Bool.and_eq_true, Bool.or_eq_true, Bool.not_eq_true', decide_eq_true_eq, beq_iff_eq] at hw
  obtain ⟨rfl, rfl⟩ := by simpa [encode] using hwe
  have pa : a.wfPred = true := hw.2
  have sa := wf_of_wfPred pa
  have ta := enc_lt sa
  obtain ⟨f1, f2, f3, f4, f5, f6, f7, f8, f9⟩ := encReg_fields (cls := 2) (op := 42) (d := d) (a := a.enc) (b := 0) (m := 0) nb
    (by omega) (by omega) (by omega) (by omega) (by omega) (by omega)
  refine ⟨f1, ?_⟩
  show decodeSlot _ _ = _
  simp [decodeSlot, decodeV, f2, f3, f4, f5, f6, f7, f8, f9, guardWord, RegF.destOk, predOf_enc pa]
  repeat' split
  all_goals first
    | (exfalso; cases nb <;> simp_all <;> omega)
    | (exfalso; simp_all; done)
    | (simp; done)
    | omega
    | (cases nb <;> simp_all; done)
    | (simp; omega)

theorem pset (d : Nat) (nb : Bool) (c : Nat) : Statement (.pset d nb c) := by
  intro hw w e hwe
  simp only [Instr.wf, wfReg, Bool.and_eq_true, Bool.or_eq_true, Bool.not_eq_true', decide_eq_true_eq, beq_iff_eq] at hw
  obtain ⟨rfl, rfl⟩ := by simpa [encode] using hwe
  obtain ⟨f1, f2, f3, f4, f5, f6, f7, f8, f9⟩ := encReg_fields (cls := 2) (op := 43) (d := d) (a := c % 64) (b := c / 64) (m := 0) nb
    (by omega) (by omega) (by omega) (by omega) (by omega) (by omega)
  refine ⟨f1, ?_⟩
  show decodeSlot _ _ = _
  simp [decodeSlot, decodeV, f2, f3, f4, f5, f6, f7, f8, f9, guardWord, RegF.destOk]
  repeat' split
  all_goals first
    | (exfalso; cases nb <;> simp_all <;> omega)
    | (exfalso; simp_all; done)
    | (simp; done)
    | omega
    | (cases nb <;> simp_all; done)
    | (simp; omega)

theorem ld (d : Nat) (nb : Bool) (k c : Nat) : Statement (.ld d nb k c) := by
  intro hw w e hwe
  simp only [Instr.wf, wfReg, Bool.and_eq_true, Bool.or_eq_true, Bool.not_eq_true', decide_eq_true_eq, beq_iff_eq] at hw
  obtain ⟨rfl, rfl⟩ := by simpa [encode] using hwe
  obtain ⟨f1, f2, f3, f4, f5, f6, f7, f8, f9⟩ := encReg_fields (cls := 5) (op := 0) (d := d) (a := k) (b := c) (m := 0) nb
    (by omega) (by omega) (by omega) (by omega) (by omega) (by omega)
  refine ⟨f1, ?_⟩
  show decodeSlot _ _ = _
  simp [decodeSlot, decodeL, f2, f3, f4, f5, f6, f7, f8, f9, guardWord, RegF.destOk]
  repeat' split
  all_goals first
    | (exfalso; cases nb <;> simp_all <;> omega)
    | (exfalso; simp_all; done)
    | (simp; done)
    | omega
    | (cases nb <;> simp_all; done)
    | (simp; omega)

theorem ldt (d : Nat) (nb : Bool) (k c : Nat) : Statement (.ldt d nb k c) := by
  intro hw w e hwe
  simp only [Instr.wf, wfReg, Bool.and_eq_true, Bool.or_eq_true, Bool.not_eq_true', decide_eq_true_eq, beq_iff_eq] at hw
  obtain ⟨rfl, rfl⟩ := by simpa [encode] using hwe
  obtain ⟨f1, f2, f3, f4, f5, f6, f7, f8, f9⟩ := encReg_fields (cls := 5) (op := 6) (d := d) (a := k) (b := c) (m := 0) nb
    (by omega) (by omega) (by omega) (by omega) (by omega) (by omega)
  refine ⟨f1, ?_⟩
  show decodeSlot _ _ = _
  simp [decodeSlot, decodeL, f2, f3, f4, f5, f6, f7, f8, f9, guardWord, RegF.destOk]
  repeat' split
  all_goals first
    | (exfalso; cases nb <;> simp_all <;> omega)
    | (exfalso; simp_all; done)
    | (simp; done)
    | omega
    | (cases nb <;> simp_all; done)
    | (simp; omega)

theorem st (v k c : Nat) : Statement (.st v k c) := by
  intro hw w e hwe
  simp only [Instr.wf, wfReg, Bool.and_eq_true, Bool.or_eq_true, Bool.not_eq_true', decide_eq_true_eq, beq_iff_eq] at hw
  obtain ⟨rfl, rfl⟩ := by simpa [encode] using hwe
  obtain ⟨f1, f2, f3, f4, f5, f6, f7, f8, f9⟩ := encReg_fields (cls := 5) (op := 1) (d := v) (a := k) (b := c) (m := 0) false
    (by omega) (by omega) (by omega) (by omega) (by omega) (by omega)
  refine ⟨f1, ?_⟩
  show decodeSlot _ _ = _
  simp [decodeSlot, decodeL, f2, f3, f4, f5, f6, f7, f8, f9, guardWord, RegF.destOk]
  repeat' split
  all_goals first
    | (exfalso; omega)
    | (exfalso; simp_all <;> omega)
    | (exfalso; simp_all; done)
    | (simp; done)
    | omega
    | (cases nb <;> simp_all; done)
    | (simp; omega)

theorem vld (d : Nat) (nb : Bool) (k c w : Nat) : Statement (.vld d nb k c w) := by
  intro hw w e hwe
  simp only [Instr.wf, wfReg, Bool.and_eq_true, Bool.or_eq_true, Bool.not_eq_true', decide_eq_true_eq, beq_iff_eq] at hw
  obtain ⟨rfl, rfl⟩ := by simpa [encode] using hwe
  obtain ⟨f1, f2, f3, f4, f5, f6, f7, f8, f9⟩ := encReg_fields (cls := 5) (op := 2) (d := d) (a := k) (b := c) (m := w) nb
    (by omega) (by omega) (by omega) (by omega) (by omega) (by omega)
  refine ⟨f1, ?_⟩
  show decodeSlot _ _ = _
  simp [decodeSlot, decodeL, f2, f3, f4, f5, f6, f7, f8, f9, guardWord, RegF.destOk]
  repeat' split
  all_goals first
    | (exfalso; cases nb <;> simp_all <;> omega)
    | (exfalso; simp_all; done)
    | (simp; done)
    | omega
    | (cases nb <;> simp_all; done)
    | (simp; omega)

theorem vldt (d : Nat) (nb : Bool) (k c w : Nat) : Statement (.vldt d nb k c w) := by
  intro hw w e hwe
  simp only [Instr.wf, wfReg, Bool.and_eq_true, Bool.or_eq_true, Bool.not_eq_true', decide_eq_true_eq, beq_iff_eq] at hw
  obtain ⟨rfl, rfl⟩ := by simpa [encode] using hwe
  obtain ⟨f1, f2, f3, f4, f5, f6, f7, f8, f9⟩ := encReg_fields (cls := 5) (op := 7) (d := d) (a := k) (b := c) (m := w) nb
    (by omega) (by omega) (by omega) (by omega) (by omega) (by omega)
  refine ⟨f1, ?_⟩
  show decodeSlot _ _ = _
  simp [decodeSlot, decodeL, f2, f3, f4, f5, f6, f7, f8, f9, guardWord, RegF.destOk]
  repeat' split
  all_goals first
    | (exfalso; cases nb <;> simp_all <;> omega)
    | (exfalso; simp_all; done)
    | (simp; done)
    | omega
    | (cases nb <;> simp_all; done)
    | (simp; omega)

theorem vldz (d : Nat) (nb : Bool) (k c w : Nat) : Statement (.vldz d nb k c w) := by
  intro hw w e hwe
  simp only [Instr.wf, wfReg, Bool.and_eq_true, Bool.or_eq_true, Bool.not_eq_true', decide_eq_true_eq, beq_iff_eq] at hw
  obtain ⟨rfl, rfl⟩ := by simpa [encode] using hwe
  obtain ⟨f1, f2, f3, f4, f5, f6, f7, f8, f9⟩ := encReg_fields (cls := 5) (op := 8) (d := d) (a := k) (b := c) (m := w) nb
    (by omega) (by omega) (by omega) (by omega) (by omega) (by omega)
  refine ⟨f1, ?_⟩
  show decodeSlot _ _ = _
  simp [decodeSlot, decodeL, f2, f3, f4, f5, f6, f7, f8, f9, guardWord, RegF.destOk]
  repeat' split
  all_goals first
    | (exfalso; cases nb <;> simp_all <;> omega)
    | (exfalso; simp_all; done)
    | (simp; done)
    | omega
    | (cases nb <;> simp_all; done)
    | (simp; omega)

theorem vst (v k c w : Nat) : Statement (.vst v k c w) := by
  intro hw w e hwe
  simp only [Instr.wf, wfReg, Bool.and_eq_true, Bool.or_eq_true, Bool.not_eq_true', decide_eq_true_eq, beq_iff_eq] at hw
  obtain ⟨rfl, rfl⟩ := by simpa [encode] using hwe
  obtain ⟨f1, f2, f3, f4, f5, f6, f7, f8, f9⟩ := encReg_fields (cls := 5) (op := 3) (d := v) (a := k) (b := c) (m := w) false
    (by omega) (by omega) (by omega) (by omega) (by omega) (by omega)
  refine ⟨f1, ?_⟩
  show decodeSlot _ _ = _
  simp [decodeSlot, decodeL, f2, f3, f4, f5, f6, f7, f8, f9, guardWord, RegF.destOk]
  repeat' split
  all_goals first
    | (exfalso; omega)
    | (exfalso; simp_all <;> omega)
    | (exfalso; simp_all; done)
    | (simp; done)
    | omega
    | (cases nb <;> simp_all; done)
    | (simp; omega)

theorem vldx (d : Nat) (nb : Bool) (k : Nat) (i : Src) (w : Nat) : Statement (.vldx d nb k i w) := by
  intro hw w e hwe
  simp only [Instr.wf, wfReg, Bool.and_eq_true, Bool.or_eq_true, Bool.not_eq_true', decide_eq_true_eq, beq_iff_eq] at hw
  obtain ⟨rfl, rfl⟩ := by simpa [encode] using hwe
  have si : i.wf = true := hw.1.2
  have ti := enc_lt si
  obtain ⟨f1, f2, f3, f4, f5, f6, f7, f8, f9⟩ := encReg_fields (cls := 5) (op := 4) (d := d) (a := k) (b := i.enc) (m := w) nb
    (by omega) (by omega) (by omega) (by omega) (by omega) (by omega)
  refine ⟨f1, ?_⟩
  show decodeSlot _ _ = _
  simp [decodeSlot, decodeL, f2, f3, f4, f5, f6, f7, f8, f9, guardWord, RegF.destOk, srcOf_enc si]
  repeat' split
  all_goals first
    | (exfalso; cases nb <;> simp_all <;> omega)
    | (exfalso; simp_all; done)
    | (simp; done)
    | omega
    | (cases nb <;> simp_all; done)
    | (simp; omega)

theorem vstx (v k : Nat) (i : Src) (w : Nat) : Statement (.vstx v k i w) := by
  intro hw w e hwe
  simp only [Instr.wf, wfReg, Bool.and_eq_true, Bool.or_eq_true, Bool.not_eq_true', decide_eq_true_eq, beq_iff_eq] at hw
  obtain ⟨rfl, rfl⟩ := by simpa [encode] using hwe
  have si : i.wf = true := hw.1.2
  have ti := enc_lt si
  obtain ⟨f1, f2, f3, f4, f5, f6, f7, f8, f9⟩ := encReg_fields (cls := 5) (op := 5) (d := v) (a := k) (b := i.enc) (m := w) false
    (by omega) (by omega) (by omega) (by omega) (by omega) (by omega)
  refine ⟨f1, ?_⟩
  show decodeSlot _ _ = _
  simp [decodeSlot, decodeL, f2, f3, f4, f5, f6, f7, f8, f9, guardWord, RegF.destOk, srcOf_enc si]
  repeat' split
  all_goals first
    | (exfalso; omega)
    | (exfalso; simp_all <;> omega)
    | (exfalso; simp_all; done)
    | (simp; done)
    | omega
    | (cases nb <;> simp_all; done)
    | (simp; omega)

theorem boxsub (mm d p s c : Nat) : Statement (.boxsub mm d p s c) := by
  intro hw w e hwe
  simp only [Instr.wf, wfReg, Bool.and_eq_true, Bool.or_eq_true, Bool.not_eq_true', decide_eq_true_eq, beq_iff_eq] at hw
  obtain ⟨rfl, rfl⟩ := by simpa [encode] using hwe
  obtain ⟨f1, f2, f3, f4, f5, f6, f7, f8, f9⟩ := encReg_fields (cls := 5) (op := 9) (d := mm * 16 + d) (a := s) (b := c) (m := 0) (p == 1)
    (by omega) (by omega) (by omega) (by omega) (by omega) (by omega)
  refine ⟨f1, ?_⟩
  show decodeSlot _ _ = _
  simp [decodeSlot, decodeL, f2, f3, f4, f5, f6, f7, f8, f9, guardWord, RegF.destOk]
  repeat' split
  all_goals first
    | (exfalso; omega)
    | (exfalso; simp_all <;> omega)
    | (exfalso; simp_all; done)
    | (simp; done)
    | omega
    | (cases nb <;> simp_all; done)
    | (simp; omega)

theorem boxinf (d : Nat) (nb : Bool) (k sel : Nat) : Statement (.boxinf d nb k sel) := by
  intro hw w e hwe
  simp only [Instr.wf, wfReg, Bool.and_eq_true, Bool.or_eq_true, Bool.not_eq_true', decide_eq_true_eq, beq_iff_eq] at hw
  obtain ⟨rfl, rfl⟩ := by simpa [encode] using hwe
  obtain ⟨f1, f2, f3, f4, f5, f6, f7, f8, f9⟩ := encReg_fields (cls := 5) (op := 10) (d := d) (a := k) (b := sel) (m := 0) nb
    (by omega) (by omega) (by omega) (by omega) (by omega) (by omega)
  refine ⟨f1, ?_⟩
  show decodeSlot _ _ = _
  simp [decodeSlot, decodeL, f2, f3, f4, f5, f6, f7, f8, f9, guardWord, RegF.destOk]
  repeat' split
  all_goals first
    | (exfalso; cases nb <;> simp_all <;> omega)
    | (exfalso; simp_all; done)
    | (simp; done)
    | omega
    | (cases nb <;> simp_all; done)
    | (simp; omega)

theorem boxmov (d s : Nat) : Statement (.boxmov d s) := by
  intro hw w e hwe
  simp only [Instr.wf, wfReg, Bool.and_eq_true, Bool.or_eq_true, Bool.not_eq_true', decide_eq_true_eq, beq_iff_eq] at hw
  obtain ⟨rfl, rfl⟩ := by simpa [encode] using hwe
  obtain ⟨f1, f2, f3, f4, f5, f6, f7, f8, f9⟩ := encReg_fields (cls := 5) (op := 11) (d := d) (a := s) (b := 0) (m := 0) false
    (by omega) (by omega) (by omega) (by omega) (by omega) (by omega)
  refine ⟨f1, ?_⟩
  show decodeSlot _ _ = _
  simp [decodeSlot, decodeL, f2, f3, f4, f5, f6, f7, f8, f9, guardWord, RegF.destOk]
  repeat' split
  all_goals first
    | (exfalso; omega)
    | (exfalso; simp_all <;> omega)
    | (exfalso; simp_all; done)
    | (simp; done)
    | omega
    | (cases nb <;> simp_all; done)
    | (simp; omega)

theorem fence (scope m : Nat) : Statement (.fence scope m) := by
  intro hw w e hwe
  simp only [Instr.wf, wfReg, Bool.and_eq_true, Bool.or_eq_true, Bool.not_eq_true', decide_eq_true_eq, beq_iff_eq] at hw
  obtain ⟨rfl, rfl⟩ := by simpa [encode] using hwe
  obtain ⟨f1, f2, f3, f4, f5, f6, f7, f8, f9⟩ := encReg_fields (cls := 5) (op := 12) (d := 0) (a := scope) (b := 0) (m := m) false
    (by omega) (by omega) (by omega) (by omega) (by omega) (by omega)
  refine ⟨f1, ?_⟩
  show decodeSlot _ _ = _
  simp [decodeSlot, decodeL, f2, f3, f4, f5, f6, f7, f8, f9, guardWord, RegF.destOk]
  repeat' split
  all_goals first
    | (exfalso; omega)
    | (exfalso; simp_all <;> omega)
    | (exfalso; simp_all; done)
    | (simp; done)
    | omega
    | (cases nb <;> simp_all; done)
    | (simp; omega)

theorem pub (a : Src) : Statement (.pub a) := by
  intro hw w e hwe
  simp only [Instr.wf, wfReg, Bool.and_eq_true, Bool.or_eq_true, Bool.not_eq_true', decide_eq_true_eq, beq_iff_eq] at hw
  obtain ⟨rfl, rfl⟩ := by simpa [encode] using hwe
  have sa : a.wf = true := hw
  have ta := enc_lt sa
  obtain ⟨f1, f2, f3, f4, f5, f6, f7, f8, f9⟩ := encReg_fields (cls := 5) (op := 13) (d := 0) (a := a.enc) (b := 0) (m := 0) false
    (by omega) (by omega) (by omega) (by omega) (by omega) (by omega)
  refine ⟨f1, ?_⟩
  show decodeSlot _ _ = _
  simp [decodeSlot, decodeL, f2, f3, f4, f5, f6, f7, f8, f9, guardWord, RegF.destOk, srcOf_enc sa]

theorem recvop (ms peer b xc op rt : Nat) : Statement (.recvop ms peer b xc op rt) := by
  intro hw w e hwe
  simp only [Instr.wf, Bool.and_eq_true, Bool.or_eq_true, decide_eq_true_eq, beq_iff_eq] at hw
  obtain ⟨hw', rfl⟩ := by simpa [encode] using hwe
  have h : w = 3758096384 + 16777216 + ms * 4194304 + peer * 65536 + b * 4096 + xc * 64 + op * 4 + rt / 32 * 2 := by
    rw [← hw']; simp [encPar]; omega
  have h0 : bitsOf w 29 3 = 7 := by rw [h]; simp only [bitsOf, Nat.reducePow]; omega
  have h1 : bitsOf w 23 6 = 2 := by rw [h]; simp only [bitsOf, Nat.reducePow]; omega
  have h2 : bitsOf w 22 1 = ms := by rw [h]; simp only [bitsOf, Nat.reducePow]; omega
  have h3 : bitsOf w 16 6 = peer := by rw [h]; simp only [bitsOf, Nat.reducePow]; omega
  have h4 : bitsOf w 12 4 = b := by rw [h]; simp only [bitsOf, Nat.reducePow]; omega
  have h5 : bitsOf w 6 6 = xc := by rw [h]; simp only [bitsOf, Nat.reducePow]; omega
  have h6 : bitsOf w 2 4 = op := by rw [h]; simp only [bitsOf, Nat.reducePow]; omega
  have h7 : bitsOf w 1 1 = rt / 32 := by rw [h]; simp only [bitsOf, Nat.reducePow]; omega
  have h8 : bitsOf w 0 1 = 0 := by rw [h]; simp only [bitsOf, Nat.reducePow]; omega
  refine ⟨by rw [h]; omega, ?_⟩
  show decodeSlot _ _ = _
  by_cases h3' : op = 3
  · subst h3'
    simp [decodeSlot, decodeX, h0, h1, h2, h3, h4, h5, h6, h7, h8, guardWord]
    rw [if_neg (by omega)]
    simp; omega
  · simp [decodeSlot, decodeX, h0, h1, h2, h3, h4, h5, h6, h7, h8, guardWord, h3']
    rw [if_neg (by omega), if_neg (by omega)]
    simp; omega

theorem cpy (bd bs xt tr ch cmp asap rm : Nat) : Statement (.cpy bd bs xt tr ch cmp asap rm) := by
  intro hw w e hwe
  simp only [Instr.wf, Bool.and_eq_true, Bool.or_eq_true, decide_eq_true_eq, beq_iff_eq, bne_iff_ne] at hw
  simp only [encode, Option.some.injEq, Prod.mk.injEq] at hwe
  obtain ⟨rfl, rfl⟩ := hwe
  have h0 : bitsOf (encPar 6 0 (bd * 524288 + bs * 32768 + xt * 512 + tr * 32 + ch * 16 + cmp * 8 + asap * 4)) 0 2 = 0 := by simp only [bitsOf, encPar, Nat.reducePow]; omega
  have h1 : bitsOf (encPar 6 0 (bd * 524288 + bs * 32768 + xt * 512 + tr * 32 + ch * 16 + cmp * 8 + asap * 4)) 2 1 = asap := by simp only [bitsOf, encPar, Nat.reducePow]; omega
  have h2 : bitsOf (encPar 6 0 (bd * 524288 + bs * 32768 + xt * 512 + tr * 32 + ch * 16 + cmp * 8 + asap * 4)) 3 1 = cmp := by simp only [bitsOf, encPar, Nat.reducePow]; omega
  have h3 : bitsOf (encPar 6 0 (bd * 524288 + bs * 32768 + xt * 512 + tr * 32 + ch * 16 + cmp * 8 + asap * 4)) 4 1 = ch := by simp only [bitsOf, encPar, Nat.reducePow]; omega
  have h4 : bitsOf (encPar 6 0 (bd * 524288 + bs * 32768 + xt * 512 + tr * 32 + ch * 16 + cmp * 8 + asap * 4)) 5 4 = tr := by simp only [bitsOf, encPar, Nat.reducePow]; omega
  have h5 : bitsOf (encPar 6 0 (bd * 524288 + bs * 32768 + xt * 512 + tr * 32 + ch * 16 + cmp * 8 + asap * 4)) 9 6 = xt := by simp only [bitsOf, encPar, Nat.reducePow]; omega
  have h6 : bitsOf (encPar 6 0 (bd * 524288 + bs * 32768 + xt * 512 + tr * 32 + ch * 16 + cmp * 8 + asap * 4)) 15 4 = bs := by simp only [bitsOf, encPar, Nat.reducePow]; omega
  have h7 : bitsOf (encPar 6 0 (bd * 524288 + bs * 32768 + xt * 512 + tr * 32 + ch * 16 + cmp * 8 + asap * 4)) 19 4 = bd := by simp only [bitsOf, encPar, Nat.reducePow]; omega
  have h8 : bitsOf (encPar 6 0 (bd * 524288 + bs * 32768 + xt * 512 + tr * 32 + ch * 16 + cmp * 8 + asap * 4)) 23 6 = 0 := by simp only [bitsOf, encPar, Nat.reducePow]; omega
  have h9 : bitsOf (encPar 6 0 (bd * 524288 + bs * 32768 + xt * 512 + tr * 32 + ch * 16 + cmp * 8 + asap * 4)) 29 3 = 6 := by simp only [bitsOf, encPar, Nat.reducePow]; omega
  have g1 : (extOf rm).getD 0 = rm := by simp only [extOf]; split <;> simp_all
  have g2 : bitsOf rm 3 2 = 0 := by simp only [bitsOf, Nat.reducePow]; omega
  have g3 : bitsOf rm 0 3 = rm := by simp only [bitsOf, Nat.reducePow]; omega
  refine ⟨by simp only [encPar, Nat.reducePow]; omega, ?_⟩
  show decodeSlot _ _ = _
  simp [decodeSlot, decodeE, guardWord, h0, h1, h2, h3, h4, h5, h6, h7, h8, h9, g1, g2, g3]
  rw [if_neg (by omega), if_neg (by omega)]

theorem scan (bd bs dim rt v ex bc carry : Nat) : Statement (.scan bd bs dim rt v ex bc carry) := by
  intro hw w e hwe
  simp only [Instr.wf, Bool.and_eq_true, Bool.or_eq_true, decide_eq_true_eq, beq_iff_eq, bne_iff_ne] at hw
  simp only [encode, Option.some.injEq, Prod.mk.injEq] at hwe
  obtain ⟨rfl, rfl⟩ := hwe
  have h0 : bitsOf (encPar 6 4 (bd * 524288 + bs * 32768 + dim * 4096 + rt * 64 + v * 32 + ex * 16 + bc)) 0 4 = bc := by simp only [bitsOf, encPar, Nat.reducePow]; omega
  have h1 : bitsOf (encPar 6 4 (bd * 524288 + bs * 32768 + dim * 4096 + rt * 64 + v * 32 + ex * 16 + bc)) 4 1 = ex := by simp only [bitsOf, encPar, Nat.reducePow]; omega
  have h2 : bitsOf (encPar 6 4 (bd * 524288 + bs * 32768 + dim * 4096 + rt * 64 + v * 32 + ex * 16 + bc)) 5 1 = v := by simp only [bitsOf, encPar, Nat.reducePow]; omega
  have h3 : bitsOf (encPar 6 4 (bd * 524288 + bs * 32768 + dim * 4096 + rt * 64 + v * 32 + ex * 16 + bc)) 6 6 = rt := by simp only [bitsOf, encPar, Nat.reducePow]; omega
  have h4 : bitsOf (encPar 6 4 (bd * 524288 + bs * 32768 + dim * 4096 + rt * 64 + v * 32 + ex * 16 + bc)) 12 3 = dim := by simp only [bitsOf, encPar, Nat.reducePow]; omega
  have h5 : bitsOf (encPar 6 4 (bd * 524288 + bs * 32768 + dim * 4096 + rt * 64 + v * 32 + ex * 16 + bc)) 15 4 = bs := by simp only [bitsOf, encPar, Nat.reducePow]; omega
  have h6 : bitsOf (encPar 6 4 (bd * 524288 + bs * 32768 + dim * 4096 + rt * 64 + v * 32 + ex * 16 + bc)) 19 4 = bd := by simp only [bitsOf, encPar, Nat.reducePow]; omega
  have h7 : bitsOf (encPar 6 4 (bd * 524288 + bs * 32768 + dim * 4096 + rt * 64 + v * 32 + ex * 16 + bc)) 23 6 = 4 := by simp only [bitsOf, encPar, Nat.reducePow]; omega
  have h8 : bitsOf (encPar 6 4 (bd * 524288 + bs * 32768 + dim * 4096 + rt * 64 + v * 32 + ex * 16 + bc)) 29 3 = 6 := by simp only [bitsOf, encPar, Nat.reducePow]; omega
  have g1 : (extOf carry).getD 0 = carry := by simp only [extOf]; split <;> simp_all
  have g2 : bitsOf carry 1 4 = 0 := by simp only [bitsOf, Nat.reducePow]; omega
  have g3 : bitsOf carry 0 1 = carry := by simp only [bitsOf, Nat.reducePow]; omega
  refine ⟨by simp only [encPar, Nat.reducePow]; omega, ?_⟩
  show decodeSlot _ _ = _
  simp [decodeSlot, decodeE, guardWord, h0, h1, h2, h3, h4, h5, h6, h7, h8, g1, g2, g3]
  omega

theorem scac (bh bi bv r op bin : Nat) : Statement (.scac bh bi bv r op bin) := by
  intro hw w e hwe
  simp only [Instr.wf, Bool.and_eq_true, Bool.or_eq_true, decide_eq_true_eq, beq_iff_eq, bne_iff_ne] at hw
  simp only [encode, Option.some.injEq, Prod.mk.injEq] at hwe
  obtain ⟨rfl, rfl⟩ := hwe
  have h0 : bitsOf (encPar 6 2 (bh * 524288 + bi * 32768 + bv * 2048 + r * 32 + op * 4 + bin * 2)) 0 1 = 0 := by simp only [bitsOf, encPar, Nat.reducePow]; omega
  have h1 : bitsOf (encPar 6 2 (bh * 524288 + bi * 32768 + bv * 2048 + r * 32 + op * 4 + bin * 2)) 1 1 = bin := by simp only [bitsOf, encPar, Nat.reducePow]; omega
  have h2 : bitsOf (encPar 6 2 (bh * 524288 + bi * 32768 + bv * 2048 + r * 32 + op * 4 + bin * 2)) 2 3 = op := by simp only [bitsOf, encPar, Nat.reducePow]; omega
  have h3 : bitsOf (encPar 6 2 (bh * 524288 + bi * 32768 + bv * 2048 + r * 32 + op * 4 + bin * 2)) 5 6 = r := by simp only [bitsOf, encPar, Nat.reducePow]; omega
  have h4 : bitsOf (encPar 6 2 (bh * 524288 + bi * 32768 + bv * 2048 + r * 32 + op * 4 + bin * 2)) 11 4 = bv := by simp only [bitsOf, encPar, Nat.reducePow]; omega
  have h5 : bitsOf (encPar 6 2 (bh * 524288 + bi * 32768 + bv * 2048 + r * 32 + op * 4 + bin * 2)) 15 4 = bi := by simp only [bitsOf, encPar, Nat.reducePow]; omega
  have h6 : bitsOf (encPar 6 2 (bh * 524288 + bi * 32768 + bv * 2048 + r * 32 + op * 4 + bin * 2)) 19 4 = bh := by simp only [bitsOf, encPar, Nat.reducePow]; omega
  have h7 : bitsOf (encPar 6 2 (bh * 524288 + bi * 32768 + bv * 2048 + r * 32 + op * 4 + bin * 2)) 23 6 = 2 := by simp only [bitsOf, encPar, Nat.reducePow]; omega
  have h8 : bitsOf (encPar 6 2 (bh * 524288 + bi * 32768 + bv * 2048 + r * 32 + op * 4 + bin * 2)) 29 3 = 6 := by simp only [bitsOf, encPar, Nat.reducePow]; omega
  refine ⟨by simp only [encPar, Nat.reducePow]; omega, ?_⟩
  show decodeSlot _ _ = _
  simp [decodeSlot, decodeE, guardWord, h0, h1, h2, h3, h4, h5, h6, h7, h8]
  rw [if_neg (by omega), if_neg (by omega)]

end Sys2Proof.Laws.RoundTrip
end

