-- ==== Sys2Proof/Safety.lean ====
section
/-! DEFINITION. The terms claims are stated in: the invariants of the machine, what a step keeps, a result on its way and
the shapes results take. -/

namespace Sys2Proof.Machine

/-! ### Invariants -/

/-- The three memories are in canonical form. -/
def State.memOk (s : State) : Bool := Memory.wf s.spad && Memory.wf s.dram && Memory.wf s.hostm

/-- Items not before a cycle and phase, each not before the one ahead of it. -/
def agendaFrom (due ph : Nat) : List Item → Bool
  | [] => true
  | i :: r => (due < i.due || (due == i.due && ph ≤ i.ph)) && agendaFrom i.due i.ph r

/-- The agenda is in the order its events happen in. -/
def State.agendaOk (s : State) : Bool := agendaFrom 0 0 s.agenda

/-- Keys of a table rise strictly. -/
def risingFrom {α : Type} (lo : Nat) : Tab α → Bool
  | [] => true
  | (k, _) :: r => lo ≤ k && risingFrom (k + 1) r

/-- The register files, latches, tiles and system registers are tables in canonical order. -/
def State.regsOk (s : State) : Bool :=
  risingFrom 0 s.xreg && risingFrom 0 s.vreg && risingFrom 0 s.preg && risingFrom 0 s.breg && risingFrom 0 s.latch &&
    risingFrom 0 s.tile && risingFrom 0 s.sysreg

/-! ### What is left alone -/

/-- Every byte of every memory reads as before. -/
def SameMem (s t : State) : Prop := ∀ sp a, memGet (t.mem sp) a = memGet (s.mem sp) a

/-- Every general register, predicate, box register, latch and tile word of every core is as before. -/
def SameRegs (s t : State) : Prop :=
  (∀ n r, t.x n r = s.x n r) ∧ (∀ n r, t.v n r = s.v n r) ∧ (∀ n r, t.p n r = s.p n r) ∧ (∀ n r, t.b n r = s.b n r) ∧
    (∀ n k, t.l n k = s.l n k) ∧ (∀ n a r c, t.t n a r c = s.t n a r c)

/-- Every system register of every core and of the device is as before. -/
def SameSys (s t : State) : Prop := (∀ n r, t.sr n r = s.sr n r) ∧ t.dev = s.dev

/-- Nothing a program can see is changed at once: registers, system registers and memory. -/
def SameAll (s t : State) : Prop := SameRegs s t ∧ SameSys s t ∧ SameMem s t

/-! ### Results on their way (R51) -/

/-- The state with a result of core n on its way, and nothing else changed. -/
def State.queued (s : State) (n : Nat) (p : Pend) : State :=
  { s with cores := tput s.cores n { s.core n with pend := (s.core n).pend ++ [p] } }

/-- A result without flags: visible after `lat` cycles, its writes, and the slot's latch. -/
def PlainResult (s : State) (lat : Nat) (wr : List Wr) (latch : Option VWord) (p : Pend) : Prop :=
  p.vis = s.cycle + lat ∧ p.wr = wr ∧ p.lat = latch ∧ p.slot = s.slot ∧ p.flags = 0 ∧ p.flt = none

/-- A result that raises flags: an enabled one withholds the writes and names the arithmetic fault (R121, R122). -/
def FlagResult (s : State) (lat : Nat) (wr : List Wr) (latch : VWord) (flags : Nat) (p : Pend) : Prop :=
  p.vis = s.cycle + lat ∧ p.wr = wr ∧ p.lat = some latch ∧ p.slot = s.slot ∧ p.flags = flags ∧
    (p.flt.isSome ↔ flags &&& fmtEnb s.fmt ≠ 0) ∧ ∀ f, p.flt = some f → f.cause = 5 ∧ f.detail.head? = some flags

/-- A scalar value for x[d] and the latch, no write with nowb (R43). -/
def YieldsX (i : Instr) (s : State) (lat d : Nat) (nb : Bool) (v : Word) : Prop :=
  ∃ p, exec i s = .next (s.queued s.me p) ∧ PlainResult s lat (if nb then [] else [.x d v]) (some (v.setWidth 1024)) p

/-- A scalar floating-point value with its flags. -/
def YieldsF (i : Instr) (s : State) (lat d : Nat) (nb : Bool) (r : Nat × Nat) : Prop :=
  ∃ p, exec i s = .next (s.queued s.me p) ∧
    FlagResult s lat (if nb then [] else [.x d (BitVec.ofNat 64 r.1)]) ((BitVec.ofNat 64 r.1).setWidth 1024) r.2 p

/-- A vector value in the bits of a mask of v[d], with flags. -/
def YieldsV (i : Instr) (s : State) (lat d : Nat) (nb : Bool) (mask v flags : Nat) : Prop :=
  ∃ p, exec i s = .next (s.queued s.me p) ∧
    FlagResult s lat (if nb then [] else [.v (s.vp d) (BitVec.ofNat 1024 mask) (BitVec.ofNat 1024 v)]) (BitVec.ofNat 1024 v)
      flags p

/-- The state with the record of core n replaced, and nothing else changed. -/
def State.coreTo (s : State) (n : Nat) (c : Core) : State := { s with cores := tput s.cores n c }

/-- An operation that starts something: nothing a program can see changes at issue. -/
def Starts (i : Instr) (s t : State) : Prop := exec i s = .next t ∧ SameAll s t

/-- t is u but for the error events that a read of flipped words posts; with no word flipped it is u (R380). -/
def FindsErrors (u t : State) : Prop :=
  t = { u with agenda := t.agenda } ∧ (∀ e ∈ u.agenda, e ∈ t.agenda) ∧ (u.upsets = [] → t = u)

/-- A load's result: queued for its latency, with the errors its reading finds (R51, R380). -/
def YieldsRead (i : Instr) (s : State) (lat : Nat) (wr : List Wr) (latch : Option VWord) : Prop :=
  ∃ p t, exec i s = .next t ∧ FindsErrors (s.queued s.me p) t ∧ PlainResult s lat wr latch p

/-- The instruction answers a next state with a property. -/
def Leaves (i : Instr) (s : State) (P : State → Prop) : Prop := ∃ t, exec i s = .next t ∧ P t

/-- A fault of the bundle: in task mode the trap is taken, with nothing else done (R361, R363). -/
def FaultsWith (i : Instr) (s : State) (f : Flt) : Prop := exec i s = .next (applyAll (faultAt s.me f s) s)

/-! ### Lanes (R144, R145) -/

/-- Lanes of ETYPE in a vector of width code w. -/
def State.lanes (s : State) (w : Nat) : Nat := widthOf w / tySize s.ety

/-- Lane i of a vector source. -/
def State.laneOf (s : State) (a : Src) (i : Nat) : Nat := bitsOf (s.srcV a).toNat (tySize s.ety * i) (tySize s.ety)

/-- Lane i of the old destination. -/
def State.laneOld (s : State) (d : Nat) (i : Nat) : Nat := bitsOf (s.vn d).toNat (tySize s.ety * i) (tySize s.ety)

/-- Is lane i active: bit i·sE/8 of the selector's predicate. -/
def State.active (s : State) (i : Nat) : Bool := (s.pn s.selector.1).getLsbD (i * tySize s.ety / 8)

/-- The lanes of a lane-wise operation: computed where active, absent elsewhere (R149). -/
def State.laneList (s : State) (w : Nat) (f : Nat → Nat × Nat) : List LaneR :=
  (List.range (s.lanes w)).map (fun i => if s.active i then some (f i) else none)

/-- A lane-wise result: active lanes written, the others zeroed or left by the selector's mode (R145, R149). -/
def YieldsLanes (i : Instr) (s : State) (lat d : Nat) (nb : Bool) (w : Nat) (f : Nat → Nat × Nat) : Prop :=
  let l := s.laneList w f
  YieldsV i s lat d nb (laneMask (tySize s.ety) s.selector.2 l) (laneValue (tySize s.ety) l) (laneFlags l)

/-! ### Reductions, extremes and conversions (R154 to R160) -/

/-- Node j at level t of the reduction tree, absent where no lane below it is active, with the flags of the steps below it
(R154). -/
def treeNode (op : Nat → Nat → Nat × Nat) (leaf : Nat → Option Nat) : Nat → Nat → Option Nat × Nat
  | 0, j => (leaf j, 0)
  | t + 1, j =>
    let l := treeNode op leaf t (2 * j)
    let r := treeNode op leaf t (2 * j + 1)
    match l.1, r.1 with
    | some x, some y => (some (op x y).1, l.2 ||| r.2 ||| (op x y).2)
    | some x, none => (some x, l.2 ||| r.2)
    | none, y => (y, l.2 ||| r.2)

/-- The leaves of a reduction: the active lanes of the source (R154). -/
def State.leaf (s : State) (a : Src) (w j : Nat) : Option Nat :=
  if j < s.lanes w && s.active j then some (s.laneOf a j) else none

/-- Is lane value x below y in the order of R155: every NaN above every number, +0 above −0? -/
def valueBelow (o : LaneOp) (x y : Nat) : Bool :=
  if tyFloat o.ty then !(o.rd x).isNan && ((o.rd y).isNan || fCompareZ (o.rd x) (o.rd y) < 0)
  else o.int x < o.int y

/-- Lane i is the extreme active lane: no active lane lies beyond it, and of equals the lowest index (R155). -/
def State.extremeAt (s : State) (wantMax : Bool) (a : Src) (w i : Nat) : Prop :=
  i < s.lanes w ∧ s.active i = true ∧ ∀ j, j < s.lanes w → s.active j = true →
    let beyond := fun (x y : Nat) => if wantMax then valueBelow s.lop y x else valueBelow s.lop x y
    beyond (s.laneOf a j) (s.laneOf a i) = false ∧ (j < i → beyond (s.laneOf a i) (s.laneOf a j) = true)

/-- The lanes of a quantisation, read under FTZ with their random bits, absent where inactive (R157, R158). -/
def State.quantLanes (s : State) (a : Src) (w : Nat) : List (Option (FVal × Nat)) :=
  (List.range (s.lanes w)).map (fun i =>
    if s.active i then some (fRead s.ety s.ftz (s.laneOf a i), s.laneBits i) else none)

/-- Block k of 32 lanes quantised: its codes, its scale and its flags (R157). -/
def State.quantBlock (s : State) (a : Src) (w k : Nat) : List LaneR × Nat × Nat :=
  e8Block s.cty (fmtRnd s.fmt) (((s.quantLanes a w).drop (32 * k)).take 32)

/-- A conversion's value in the bits of a mask of v[d], with its flags and the random bits of n lanes consumed
(R124, R156). -/
def YieldsDrawn (i : Instr) (s : State) (lat d : Nat) (nb : Bool) (n mask v flags : Nat) : Prop :=
  ∃ p, exec i s = .next ((applyAll (drawU s.me (s.drawn n)) s).queued s.me p) ∧
    FlagResult s lat (if nb then [] else [.v (s.vp d) (BitVec.ofNat 1024 mask) (BitVec.ofNat 1024 v)]) (BitVec.ofNat 1024 v)
      flags p ∧ p.rbw = (s.drawn n).1

/-! ### Flits -/

/-- No injector is armed to alter what leaves by a port. -/
def State.quietPort (s : State) (port : Nat) : Prop := injectorsOf s 3 port = []

/-- One flit leaves by a port that is up, in its turn at 125 B a tick, sealed (R311, R358). -/
def FlitLeaves (s t : State) (port kind dst seq num : Nat) (names : List Nat) (bs : List Byte) : Prop :=
  (s.port port).mode ≠ 0 → s.quietPort port →
    t.dev.outbox = s.dev.outbox ++ [.flit port ((max (125 * s.cycle) (s.port port).busy + 256 + 124) / 125)
      (linkSeal s.dev port (flitBytes kind dst seq num names bs))]

/-! ### What engine operations write (R197, R240, R243, R245) -/

/-- No core has a result on its way: the scratchpads are as every engine reads them. -/
def State.still (s : State) : Prop := ∀ n, (s.core n).pend = [] ∧ (s.core n).img = none

/-- The byte at an offset of a scratchpad box. -/
def State.byteOf (s : State) (b : Box) (o : Int) : Byte :=
  let a := (b.org : Int) + o
  if 0 ≤ a ∧ a < 2 ^ 22 then memGet s.spad (skey b.home a.toNat) else 0

/-- The bits of an element of a scratchpad box. -/
def State.elemAt (s : State) (b : Box) (i : Int) : Nat :=
  b.bitsAt i ((List.range b.esize).map (fun (j : Nat) => s.byteOf b (b.offset i + (j : Int))))

/-- A scratchpad with one element written; of a byte that holds two .qc4 codes the other half stays. -/
def putElem (b : Box) (i : Int) (v : Nat) (g : Nat → Byte) (a : Nat) : Byte :=
  let o := (b.org : Int) + b.offset i
  let k := skey b.home o.toNat
  if 0 ≤ o ∧ o + b.esize ≤ 2 ^ 22 ∧ k ≤ a ∧ a < k + b.esize then
    (if b.fmt = 5 then BitVec.ofNat 8 (if i % 2 = 0 then (g a).toNat / 16 * 16 + v % 16 else (g a).toNat % 16 + v % 16 * 16)
     else (bytesOf b.esize v).getD (a - k) 0)
  else g a

/-- The same with bytes from an offset on. -/
def putRaw (b : Box) (o : Int) (bs : List Byte) (g : Nat → Byte) (a : Nat) : Byte :=
  (List.range bs.length).foldl (fun x (j : Nat) =>
    let q := (b.org : Int) + o + (j : Int)
    if 0 ≤ q ∧ q < 2 ^ 22 ∧ a = skey b.home q.toNat then bs.getD j 0 else x) (g a)

/-- The writes of a unit in order, to a first and a second box. -/
def putAll (b b2 : Box) (ws : List UW) (g : Nat → Byte) : Nat → Byte :=
  ws.foldl (fun g w => match w with
    | .elem i v => putElem b i v g
    | .elem2 i v => putElem b2 i v g
    | .raw o bs => putRaw b o bs g) g

/-- t's memories are those of s but for the writes in the scratchpads. -/
def WroteOnly (s t : State) (b b2 : Box) (ws : List UW) : Prop :=
  (∀ a, memGet t.spad a = putAll b b2 ws (memGet s.spad) a) ∧ (∀ a, memGet t.dram a = memGet s.dram a) ∧
    ∀ a, memGet t.hostm a = memGet s.hostm a

/-- Unit k of operation o makes these writes and no others. -/
def UnitWrites (s : State) (o k : Nat) (b b2 : Box) (ws : List UW) : Prop :=
  WroteOnly s (applyAll (applyUnit o k true s) s) b b2 ws

/-- Unit k of operation o writes nothing and leaves these working values. -/
def UnitReads (s : State) (o k : Nat) (acc : List Nat) : Prop :=
  let t := applyAll (applyUnit o k true s) s
  SameMem s t ∧ ∃ q, tfind t.ops o = some q ∧ q.acc = acc

/-- Pairs combined from the left, a last one alone kept (R154, R197). -/
def pairUp (g : List Nat → List Nat → List Nat) : List (List Nat) → List (List Nat)
  | x :: y :: r => g x y :: pairUp g r
  | l => l

/-- n levels of the tree. -/
def pairLevels (g : List Nat → List Nat → List Nat) : Nat → List (List Nat) → List (List Nat)
  | 0, l => l
  | n + 1, l => pairLevels g n (pairUp g l)

/-- The value of an ordered list: from the left on the vector routine path, in pairs level by level on the copy engine
(R197). -/
def valueOf (serial : Bool) (g : List Nat → List Nat → List Nat) (xs : List (List Nat)) : List Nat :=
  if serial then xs.tail.foldl g (xs.headD []) else (pairLevels g xs.length xs).headD []

end Sys2Proof.Machine
end

