-- ==== Sys2Proof/Certificates/Slice0/Obligations.lean ====
section
/-! DEFINITION. The statements for the provers, each one `def Obligations.<Name> : Prop`. -/

open Sys2Proof Sys2Proof.Machine

/-! ### The S and F classes -/

/-- The integer S operations of latency 1 and 3 (R137, R52): each queues its value for x[d] and the latch, for every
source form and every destination, and changes nothing else at issue. -/
def Obligations.IntegerScalarResults : Prop := ∀ (s : State) (d : Nat) (nb : Bool) (a b : Src) (i : Int),
  let x := s.srcX a
  let y := s.srcX b
  YieldsX (.mov d nb a) s 1 d nb x ∧
  YieldsX (.movi d i) s 1 d false (BitVec.ofInt 64 i) ∧
  YieldsX (.movhi d i) s 1 d false ((s.x s.me d <<< 15) ||| (BitVec.ofInt 64 i &&& 0x7FFF#64)) ∧
  YieldsX (.add d nb a b) s 1 d nb (x + y) ∧
  YieldsX (.addi d a i) s 1 d false (x + BitVec.ofInt 64 i) ∧
  YieldsX (.sub d nb a b) s 1 d nb (x - y) ∧
  YieldsX (.mul d nb a b) s 3 d nb (BitVec.ofNat 64 (x.toNat * y.toNat)) ∧
  YieldsX (.mulh d nb a b 0) s 3 d nb (BitVec.ofInt 64 (x.toInt * y.toInt / 2 ^ 64)) ∧
  YieldsX (.mulh d nb a b 1) s 3 d nb (BitVec.ofNat 64 (x.toNat * y.toNat / 2 ^ 64)) ∧
  YieldsX (.and d nb a b) s 1 d nb (x &&& y) ∧
  YieldsX (.or d nb a b) s 1 d nb (x ||| y) ∧
  YieldsX (.xor d nb a b) s 1 d nb (x ^^^ y) ∧
  YieldsX (.andn d nb a b) s 1 d nb (x &&& ~~~y) ∧
  YieldsX (.shl d nb a b) s 1 d nb (x <<< (y.toNat % 64)) ∧
  YieldsX (.shr d nb a b) s 1 d nb (x >>> (y.toNat % 64)) ∧
  YieldsX (.sar d nb a b) s 1 d nb (x.sshiftRight (y.toNat % 64)) ∧
  YieldsX (.sel d nb a b) s 1 d nb (if s.x s.me d = 0 then y else x)

/-- The comparing and counting S operations (R137): signed with mod 0, natural with mod 1.
BFX and BFI on the field that b names, bit by bit (R139). -/
def Obligations.CompareCountAndBitFieldResults : Prop :=
  (∀ (s : State) (d : Nat) (nb : Bool) (a b : Src),
  let x := s.srcX a
  let y := s.srcX b
  YieldsX (.min d nb a b 0) s 1 d nb (if x.toInt < y.toInt then x else y) ∧
  YieldsX (.min d nb a b 1) s 1 d nb (if x.toNat < y.toNat then x else y) ∧
  YieldsX (.max d nb a b 0) s 1 d nb (if x.toInt < y.toInt then y else x) ∧
  YieldsX (.max d nb a b 1) s 1 d nb (if x.toNat < y.toNat then y else x) ∧
  YieldsX (.cmp d nb a b 0) s 1 d nb (if x.toInt < y.toInt then -1#64 else if x = y then 0#64 else 1#64) ∧
  YieldsX (.cmp d nb a b 1) s 1 d nb (if x.toNat < y.toNat then -1#64 else if x = y then 0#64 else 1#64) ∧
  (∃ v : Word, YieldsX (.clz d nb a) s 1 d nb v ∧ v.toNat ≤ 64 ∧
    (∀ k, 64 - v.toNat ≤ k → k < 64 → x.getLsbD k = false) ∧ (v.toNat < 64 → x.getLsbD (63 - v.toNat) = true)) ∧
  (∃ v : Word, YieldsX (.popc d nb a) s 1 d nb v ∧ v.toNat = ((List.range 64).filter (fun k => x.getLsbD k)).length)) ∧
  (∀ (s : State) (d : Nat) (nb : Bool) (a b : Src) (m : Nat), m < 2 →
  let pos := (s.srcX b).toNat % 64
  let len := min ((s.srcX b).toNat / 256 % 128) 64
  let t := if m = 0 then (s.srcX a).sshiftRight pos else s.srcX a >>> pos
  (∃ v : Word, YieldsX (.bfx d nb a b m) s 1 d nb v ∧ (len = 0 → v = 0#64) ∧
    (∀ k, k < len → v.getLsbD k = t.getLsbD k) ∧
    (0 < len → ∀ k, len ≤ k → k < 64 → v.getLsbD k = (decide (m = 0) && t.getLsbD (len - 1)))) ∧
  (∃ v : Word, YieldsX (.bfi d nb a b) s 1 d nb v ∧
    ∀ k, k < 64 → v.getLsbD k = if pos ≤ k ∧ k < pos + len then (s.srcX a).getLsbD (k - pos) else (s.x s.me d).getLsbD k))

/-- DIV and REM never fault, and their values are those of R138 in both forms. -/
def Obligations.DivideNeverFaults : Prop := ∀ (s : State) (d : Nat) (nb : Bool) (a b : Src) (m : Nat), m < 2 →
  ∃ q r : Word, YieldsX (.div d nb a b m) s 18 d nb q ∧ YieldsX (.rem d nb a b m) s 18 d nb r ∧
    (s.srcX b = 0#64 → q = 0xFFFFFFFFFFFFFFFF#64 ∧ r = s.srcX a) ∧
    (m = 0 → s.srcX a = 0x8000000000000000#64 → s.srcX b = 0xFFFFFFFFFFFFFFFF#64 → q = 0x8000000000000000#64 ∧ r = 0#64) ∧
    (s.srcX b ≠ 0#64 → ¬(m = 0 ∧ s.srcX a = 0x8000000000000000#64 ∧ s.srcX b = 0xFFFFFFFFFFFFFFFF#64) →
      readW m (s.srcX a) = readW m q * readW m (s.srcX b) + readW m r ∧
      (readW m r).natAbs < (readW m (s.srcX b)).natAbs)

/-- The floating-point S operations, on the .f32 values of bits 31–0 under FTZ: exact value rounded once, flags raised,
an enabled flag withholding the result (R136, R140, R122). -/
def Obligations.FloatScalarResults : Prop := ∀ (s : State) (d : Nat) (nb : Bool) (a b : Src) (m : Nat),
  let x := fRead 0 s.ftz ((s.srcX a).toNat % 2 ^ 32)
  let y := fRead 0 s.ftz ((s.srcX b).toNat % 2 ^ 32)
  let z := fRead 0 s.ftz ((s.x s.me d).toNat % 2 ^ 32)
  YieldsF (.fadd d nb a b m) s 4 d nb (fAddV 0 x y m s.ftz) ∧
  YieldsF (.fmul d nb a b m) s 4 d nb (fMulV 0 x y m s.ftz) ∧
  YieldsF (.ffma d nb a b m) s 4 d nb (fFmaV 0 false x y z m s.ftz) ∧
  YieldsF (.fcmp d nb a b) s 2 d nb
    (if x.isNan || y.isNan then (2, snanFlag [x, y]) else ((BitVec.ofInt 64 (fCompare x y)).toNat, 0)) ∧
  (∀ sel, YieldsF (.fcvt d nb a sel m) s 3 d nb (fcvtR sel (s.srcX a) m s.ftz))

/-- The F class (R142, R143), at the latencies of R52. Reciprocal, roots and quotient are correctly rounded; that exp2, log2,
sine, cosine, tanh and sigmoid are the rounded series of spExp2, spLog2, spSin, spCos, spTanh and spSigm is the model's
choice (DEDUCED, log 12), in the first block alone.
The special operands of the F class give the results and flags of R143's table (FDIV's row apart). -/
def Obligations.SpecialFunctionResults : Prop :=
  (∀ (s : State) (d : Nat) (nb : Bool) (a b : Src),
  let x := fRead 0 s.ftz ((s.srcX a).toNat % 2 ^ 32)
  let y := fRead 0 s.ftz ((s.srcX b).toNat % 2 ^ 32)
  YieldsF (.fexp2 d nb a) s 6 d nb (spExp2 x s.ftz) ∧
  YieldsF (.flog2 d nb a) s 6 d nb (spLog2 x s.ftz) ∧
  YieldsF (.frcp d nb a) s 6 d nb (spRcp x s.ftz) ∧
  YieldsF (.frsq d nb a) s 6 d nb (spRsq x s.ftz) ∧
  YieldsF (.fsqrt d nb a) s 10 d nb (spSqrt x s.ftz) ∧
  YieldsF (.fsin d nb a) s 8 d nb (spSin x s.ftz) ∧
  YieldsF (.fcos d nb a) s 8 d nb (spCos x s.ftz) ∧
  YieldsF (.ftanh d nb a) s 8 d nb (spTanh x s.ftz) ∧
  YieldsF (.fsigm d nb a) s 8 d nb (spSigm x s.ftz) ∧
  YieldsF (.fdiv d nb a b) s 10 d nb (fDivV 0 x y 0 s.ftz)) ∧
  (∀ ftz : Bool,
  spExp2 (.inf true) ftz = (0, 0) ∧ spExp2 (.inf false) ftz = (0x7F800000, 0) ∧
  (∀ g k, spLog2 (.fin g 0 k) ftz = (0xFF800000, DZ)) ∧ spLog2 (.inf true) ftz = (0x7FC00000, NV) ∧
  spLog2 (.inf false) ftz = (0x7F800000, 0) ∧ (∀ m k, m ≠ 0 → spLog2 (.fin true m k) ftz = (0x7FC00000, NV)) ∧
  (∀ k, spRcp (.fin false 0 k) ftz = (0x7F800000, DZ)) ∧ (∀ k, spRcp (.fin true 0 k) ftz = (0xFF800000, DZ)) ∧
  spRcp (.inf false) ftz = (0, 0) ∧ spRcp (.inf true) ftz = (0x80000000, 0) ∧
  (∀ k, spRsq (.fin false 0 k) ftz = (0x7F800000, DZ)) ∧ (∀ k, spRsq (.fin true 0 k) ftz = (0xFF800000, DZ)) ∧
  (∀ m k, m ≠ 0 → spRsq (.fin true m k) ftz = (0x7FC00000, NV) ∧ spSqrt (.fin true m k) ftz = (0x7FC00000, NV)) ∧
  spRsq (.inf true) ftz = (0x7FC00000, NV) ∧ spSqrt (.inf true) ftz = (0x7FC00000, NV) ∧ spRsq (.inf false) ftz = (0, 0) ∧
  (∀ k, spSqrt (.fin false 0 k) ftz = (0, 0) ∧ spSqrt (.fin true 0 k) ftz = (0x80000000, 0)) ∧
  spSqrt (.inf false) ftz = (0x7F800000, 0) ∧
  (∀ g, spSin (.inf g) ftz = (0x7FC00000, NV) ∧ spCos (.inf g) ftz = (0x7FC00000, NV)) ∧
  (∀ k, spSin (.fin false 0 k) ftz = (0, 0) ∧ spSin (.fin true 0 k) ftz = (0x80000000, 0) ∧
    spTanh (.fin false 0 k) ftz = (0, 0) ∧ spTanh (.fin true 0 k) ftz = (0x80000000, 0)) ∧
  (∀ g k, spCos (.fin g 0 k) ftz = (0x3F800000, 0) ∧ spSigm (.fin g 0 k) ftz = (0x3F000000, 0)) ∧
  spTanh (.inf false) ftz = (0x3F800000, 0) ∧ spTanh (.inf true) ftz = (0xBF800000, 0) ∧
  spSigm (.inf true) ftz = (0, 0) ∧ spSigm (.inf false) ftz = (0x3F800000, 0))

/-! ### The V class -/

/-- The lane-wise V operations of R67's first row: each lane is the operation on the lanes of the sources and of the old
destination, active lanes only, at the latency of its type (R149, R150, R52). -/
def Obligations.ArithmeticLanes : Prop := ∀ (s : State) (d : Nat) (nb : Bool) (a b : Src) (w : Nat),
  w < 3 → tyArith s.ety = true →
  let o := s.lop
  let x := s.laneOf a
  let y := s.laneOf b
  let z := s.laneOld d
  let lat := if tyFloat s.ety then 3 else 1
  YieldsLanes (.vadd d nb a b w) s lat d nb w (fun i => o.add (x i) (y i)) ∧
  YieldsLanes (.vsub d nb a b w) s lat d nb w (fun i => o.sub (x i) (y i)) ∧
  YieldsLanes (.vmul d nb a b w) s 4 d nb w (fun i => o.mul (x i) (y i)) ∧
  YieldsLanes (.vfma d nb a b w) s 4 d nb w (fun i => o.fma false (x i) (y i) (z i)) ∧
  YieldsLanes (.vfnma d nb a b w) s 4 d nb w (fun i => o.fma true (x i) (y i) (z i)) ∧
  YieldsLanes (.vmin d nb a b w) s lat d nb w (fun i => o.minmax false (x i) (y i)) ∧
  YieldsLanes (.vmax d nb a b w) s lat d nb w (fun i => o.minmax true (x i) (y i)) ∧
  YieldsLanes (.vabs d nb a w) s lat d nb w (fun i => (o.abs (x i), 0)) ∧
  YieldsLanes (.vneg d nb a w) s lat d nb w (fun i => (o.neg (x i), 0)) ∧
  YieldsLanes (.vclamp d nb a b w) s 4 d nb w (fun i => o.clamp (x i) (y i) (z i))

/-- The lane-wise V operations of every type but .qc4 (R149, R150), and the shifts of integer lanes.
The predicate operations (R161, R52); a write of p0 is dropped when it becomes visible. -/
def Obligations.PlainLanesAndPredicates : Prop :=
  (∀ (s : State) (d : Nat) (nb : Bool) (a b : Src) (w : Nat),
  w < 3 → tyPlain s.ety = true →
  let sz := tySize s.ety
  let x := s.laneOf a
  let y := s.laneOf b
  YieldsLanes (.vand d nb a b w) s 1 d nb w (fun i => (x i &&& y i, 0)) ∧
  YieldsLanes (.vor d nb a b w) s 1 d nb w (fun i => (x i ||| y i, 0)) ∧
  YieldsLanes (.vxor d nb a b w) s 1 d nb w (fun i => (x i ^^^ y i, 0)) ∧
  YieldsLanes (.vandn d nb a b w) s 1 d nb w (fun i => (x i - (x i &&& y i), 0)) ∧
  YieldsLanes (.vmov d nb a w) s 1 d nb w (fun i => (x i, 0)) ∧
  YieldsLanes (.vbcast d nb a w) s 2 d nb w (fun _ => ((s.srcX a).toNat % 2 ^ sz, 0)) ∧
  YieldsLanes (.viota d nb a w) s 2 d nb w (fun i => s.lop.iota (s.srcX a).toInt i) ∧
  YieldsLanes (.vscale d nb a b w) s 4 d nb w (fun i => s.lop.scale (x i) (y i)) ∧
  YieldsLanes (.vrot d nb a b w) s 2 d nb w
    (fun i => (s.laneOf a ((i + s.lanes w - (s.srcX b).toNat % s.lanes w) % s.lanes w), 0)) ∧
  (tyInt s.ety = true →
    YieldsLanes (.vshl d nb a b w) s 1 d nb w (fun i => (x i * 2 ^ (y i % sz) % 2 ^ sz, 0)) ∧
    YieldsLanes (.vshr d nb a b w) s 1 d nb w (fun i => (x i / 2 ^ (y i % sz), 0)) ∧
    YieldsLanes (.vsar d nb a b w) s 1 d nb w (fun i => (s.lop.sar (x i) (y i), 0)))) ∧
  (∀ (s : State) (d : Nat) (nb : Bool) (a b : Src) (c : Nat),
  let x := s.srcP a
  let y := s.srcP b
  let yields := fun (i : Instr) (v : PWord) => ∃ p, exec i s = .next (s.queued s.me p) ∧
    PlainResult s 1 (if nb then [] else [.p (s.pp d) (BitVec.allOnes 128) v]) (some (v.setWidth 1024)) p
  yields (.pand d nb a b) (x &&& y) ∧ yields (.por d nb a b) (x ||| y) ∧ yields (.pxor d nb a b) (x ^^^ y) ∧
  yields (.pnot d nb a) (~~~x) ∧
  (c < 128 → ∃ v, yields (.pset d nb c) v ∧ ∀ k, v.getLsbD k = decide (k < c)) ∧
  (∃ v : Word, YieldsX (.pcnt d nb a) s 1 d nb v ∧ v.toNat = ((List.range 128).filter (fun k => x.getLsbD k)).length))

/-- VEXTR, VINS and VSEL take no part in the selector's writing mask, VCMP writes predicate bits under it, and the
gathers read under it (R150 to R153). -/
def Obligations.CrossLaneResults : Prop := ∀ (s : State) (d : Nat) (nb : Bool) (a b : Src) (w : Nat),
  w < 3 → tyPlain s.ety = true →
  let sz := tySize s.ety
  let n := s.lanes w
  let j := (s.srcX b).toNat % n
  YieldsX (.vextr d nb a b w) s 2 d nb
    (if tySigned s.ety then BitVec.ofInt 64 (sextOf sz (s.laneOf a j)) else BitVec.ofNat 64 (s.laneOf a j)) ∧
  YieldsV (.vins d nb a b w) s 2 d nb ((2 ^ sz - 1) * 2 ^ (sz * j)) ((s.srcX a).toNat % 2 ^ sz * 2 ^ (sz * j)) 0 ∧
  YieldsV (.vsel d nb a b w) s 1 d nb (2 ^ widthOf w - 1)
    (ofLanes sz ((List.range n).map (fun i => if s.active i then s.laneOf a i else s.laneOf b i))) 0 ∧
  (let fetch := fun i => s.laneOf b i < n && s.active (s.laneOf b i)
   let l := s.laneList w (fun i => (if fetch i then s.laneOf a (s.laneOf b i) else 0, 0))
   let wr := if nb then [] else
     [Wr.v (s.vp d) (BitVec.ofNat 1024 (laneMask sz s.selector.2 l)) (BitVec.ofNat 1024 (laneValue sz l))]
   let lv := some (BitVec.ofNat 1024 (laneValue sz l))
   (∃ p, exec (.vpermz d nb a b w) s = .next (s.queued s.me p) ∧ PlainResult s 2 wr lv p) ∧
   ((∀ i, i < n → s.active i = true → fetch i = true) →
     ∃ p, exec (.vperm d nb a b w) s = .next (s.queued s.me p) ∧ PlainResult s 2 wr lv p)) ∧
  (tyArith s.ety = true → ∀ c q, c < 4 →
    let g := sz / 8
    let l := s.laneList w (fun i =>
      let r := vcmpLane s.lop c (s.laneOf a i) (s.laneOf b i)
      (if r.1 then 2 ^ g - 1 else 0, r.2))
    ∃ p, exec (.vcmp c q nb a b w) s = .next (s.queued s.me p) ∧
      FlagResult s (if tyFloat s.ety then 3 else 1)
        (if nb then [] else [.p (s.pp q) (BitVec.ofNat 128 (laneMask g s.selector.2 l)) (BitVec.ofNat 128 (laneValue g l))])
        (BitVec.ofNat 1024 (laneValue g l)) (laneFlags l) p)

/-- A forbidden read of VPERM is the permute fault, naming the lowest lane at fault; nothing is written (R153).
A conversion that would pop more random words than the queue holds takes the random-bit underrun fault, with the counts
needed and present, in place of its effect (R127).
The matrix operations stop on the forms R165 to R179 exclude: a tile past the core's capacity (reason 4), and the
schedule faults, subcause 4 for SWPW and 2 or 3 for a fill.
A branch, ZLOOP or CLOSE in a delay bundle is illegal with reason 0xA; a branch whose delay bundles pass an active
level's END is a loop fault, as is a ZLOOP of a seventh level, an END not past pc or past an enclosing END, a body over 256
bundles, and a CLOSE outside the kernel or inside a level (R35, R281, R284). -/
def Obligations.OperationFaults : Prop :=
  (∀ (s : State) (d : Nat) (nb : Bool) (a b : Src) (w k : Nat),
  w < 3 → tyPlain s.ety = true → k < s.lanes w → s.active k = true →
  (s.laneOf b k < s.lanes w → s.active (s.laneOf b k) = false) →
  (∀ i, i < k → s.active i = true → s.laneOf b i < s.lanes w ∧ s.active (s.laneOf b i) = true) →
  ∃ p f, exec (.vperm d nb a b w) s = .next (s.queued s.me p) ∧ p.vis = s.cycle + 2 ∧ p.flt = some f ∧ f.cause = 6 ∧
    f.detail = [0, k + 2 ^ 32] ∧ f.opc = s.pcNow ∧ f.oslot = s.slot) ∧
  (∀ (s : State) (d : Nat) (nb : Bool) (a : Src) (w : Nat),
  tyPlain s.ety = true → tyPlain s.cty = true → (s.core s.me).rbq.length < s.popCount (vcvtLanes s w) →
  ∃ f, exec (.vcvt d nb a w) s = .next (applyAll (faultAt s.me f s) s) ∧ f.cause = 0x0B ∧
    f.detail = [s.popCount (vcvtLanes s w), (s.core s.me).rbq.length]) ∧
  (∀ (s : State) (tl xs v : Nat),
  let n := s.me
  (tilesOf s n ≤ tl → ∃ f, f.cause = 1 ∧ f.slots = slotCauses s.slot 4 ∧ FaultsWith (.trd tl xs v) s f ∧
    FaultsWith (.twr tl xs v) s f ∧ FaultsWith (.tzero tl) s f) ∧
  (s.cycle < (s.core n).fill → ∃ f, f.cause = 7 ∧ f.sub = 4 ∧ FaultsWith .swpw s f) ∧
  (∀ bw xc wt f, checkOf (.ldw bw xc wt) s = some f → FaultsWith (.ldw bw xc wt) s f ∧
    (f.cause = 7 → (f.sub = 2 ∧ s.cycle < (s.core n).fill) ∨
      (f.sub = 3 ∧ s.cycle ≤ (s.core n).useOf (s.core n).shadow)))) ∧
  (∀ (s : State) (d x c t e : Nat), c < 6 →
  let k := s.core s.me
  (k.dly ≠ 0 → ∃ f, f.cause = 1 ∧ f.slots = slotCauses s.slot 10 ∧ f.omask = 2 ^ s.slot ∧ FaultsWith (.br t) s f ∧
    FaultsWith (.brc x c t) s f ∧ FaultsWith (.brl d t) s f ∧ FaultsWith (.brx x) s f ∧ FaultsWith (.zloop x e) s f ∧
    FaultsWith .close s f) ∧
  (k.dly = 0 → (∃ l ∈ k.zl, s.pcNow ≤ l.last ∧ l.last < s.pcNow + 2) →
    ∃ f, f.cause = 18 ∧ FaultsWith (.br t) s f ∧ FaultsWith (.brc x c t) s f ∧ FaultsWith (.brl d t) s f ∧
      FaultsWith (.brx x) s f) ∧
  (k.dly = 0 → (6 ≤ k.zl.length ∨ e ≤ k.pc ∨ k.pc + 256 < e ∨ ∃ l ∈ k.zl, l.last < e) →
    ∃ f, f.cause = 18 ∧ FaultsWith (.zloop x e) s f) ∧
  (k.dly = 0 → ((s.sr s.me srTRIPC).getLsbD 32 = false ∨ k.zl ≠ []) → ∃ f, f.cause = 18 ∧ FaultsWith .close s f))

/-- The reductions combine the active lanes over the fixed tree of R154, and the extremes return the extreme active lane and
its index by the order of R155; every lane of the width is written, the result in lane 0, the index of VMAXI and VMINI in
lane 1, zeros above. -/
def Obligations.ReductionResults : Prop := ∀ (s : State) (d : Nat) (nb : Bool) (a : Src) (w : Nat),
  w < 3 → tyArith s.ety = true →
  let sz := tySize s.ety
  let reduces := fun (i : Instr) (op : Nat → Nat → Nat × Nat) (empty : Nat) =>
    let r := treeNode op (s.leaf a w) 7 0
    YieldsV i s 6 d nb (2 ^ widthOf w - 1) (r.1.getD empty) r.2
  let extreme := fun (i : Instr) (wantMax : Bool) =>
    ∃ v k fl, YieldsV i s 6 d nb (2 ^ widthOf w - 1) (ofLanes sz [v, k]) fl ∧
      ((∀ j, j < s.lanes w → s.active j = false) → v = s.lop.extreme (!wantMax) ∧ k = 2 ^ sz - 1 ∧ fl = 0) ∧
      ((∃ j, j < s.lanes w ∧ s.active j = true) → s.extremeAt wantMax a w k ∧
        v = (if tyFloat s.ety then fEncodeV s.ety (s.lop.rd (s.laneOf a k)) else s.laneOf a k)) ∧
      ((tyFloat s.ety = true ∧ ∃ j, j < s.lanes w ∧ s.active j = true ∧ snanFlag [s.lop.rd (s.laneOf a j)] ≠ 0) → fl = NV) ∧
      (¬(tyFloat s.ety = true ∧ ∃ j, j < s.lanes w ∧ s.active j = true ∧ snanFlag [s.lop.rd (s.laneOf a j)] ≠ 0) → fl = 0)
  reduces (.vredadd d nb a w) s.lop.add 0 ∧
  reduces (.vredmax d nb a w) (s.lop.minmax true) (s.lop.extreme false) ∧
  reduces (.vredmin d nb a w) (s.lop.minmax false) (s.lop.extreme true) ∧
  extreme (.vmaxi d nb a w) true ∧ extreme (.vmini d nb a w) false

/-- The conversions and packings, lane by lane (R156 to R160); VCVT and VQNT also consume the random bits their mode draws
(R124). What VUNPK gives where R160 states no exact value is the model's choice (log 71), and the scale of a block without
an active lane too (log 69). -/
def Obligations.ConversionResults : Prop := ∀ (s : State) (d : Nat) (nb : Bool) (a b : Src) (w : Nat), w < 3 →
  let e := s.ety
  let c := s.cty
  let n := s.lanes w
  (tyPlain e = true → tyPlain c = true → (s.core s.me).rbq.length ≥ s.popCount (vcvtLanes s w) →
    let l : List LaneR := (List.range (vcvtLanes s w)).map (fun i =>
      if s.active i then some (convertElem e c (s.laneOf a i) (fmtRnd s.fmt) (s.laneBits i) s.ftz) else none)
    YieldsDrawn (.vcvt d nb a w) s 4 d nb (vcvtLanes s w) (laneMask (tySize c) s.selector.2 l) (laneValue (tySize c) l)
      (laneFlags l)) ∧
  (quantOk e c w = true → c ≠ 5 → b = .reg 0 → (s.core s.me).rbq.length ≥ s.popCount n →
    let k := (n + 31) / 32
    let codes := (List.range k).flatMap (fun i => (s.quantBlock a w i).1)
    let scales := (List.range k).map (fun i => (s.quantBlock a w i).2.1)
    YieldsDrawn (.vqnt d nb a b w) s 4 d nb n (2 ^ (8 * (n + k)) - 1) (laneValue 8 codes + ofLanes 8 scales * 2 ^ (8 * n))
      (laneFlags codes ||| (List.range k).foldl (fun f i => f ||| (s.quantBlock a w i).2.2) 0)) ∧
  (quantOk e c w = true → c = 5 → (s.core s.me).rbq.length ≥ s.popCount n →
    let r := qc4Vqnt ((s.srcX b).toNat % 2 ^ 32) (fmtRnd s.fmt) s.ftz (s.quantLanes a w)
    YieldsDrawn (.vqnt d nb a b w) s 4 d nb n (2 ^ 264 - 1) (ofLanes 4 r.1 + r.2.1 * 2 ^ 256) r.2.2.1) ∧
  (quantOk e c w = true → (c = 5 ∨ b = .reg 0) →
    YieldsLanes (.vdqnt d nb a b w) s 4 d nb w
      (fun i => vdqntLane s.lop c ((s.srcX b).toNat % 2 ^ 32) (s.srcV a).toNat n i)) ∧
  (packOk e c = true →
    (let l : List LaneR := ((List.range n).map (s.laneOf a) ++ (List.range n).map (s.laneOf b)).map
       (fun x => some (convertElem e c x s.vrnd 0 s.ftz))
     YieldsV (.vpack d nb a b w) s 4 d nb (2 ^ widthOf w - 1) (laneValue (tySize c) l) (laneFlags l)) ∧
    (let l : List LaneR := (List.range n).map (fun i =>
       let x := bitsOf (s.srcV a).toNat (tySize c * (n * ((s.srcX b).toNat % 2) + i)) (tySize c)
       some (if tyFloat e then fConvert e (fRead c s.ftz x) 0 0 false else (wrapInt e (intOf c x), 0)))
     YieldsV (.vunpk d nb a b w) s 4 d nb (2 ^ widthOf w - 1) (laneValue (tySize e) l) (laneFlags l)))

/-! ### The M class -/

/-- MMA, MMAZ and OUTER start: no register, tile word or byte changes at issue; row i is read from c + 2 + p·i on, OUTER's
column operand at c + 1, and the tiles stay busy until c + 266 + p·(R − 1) (R173, R178, R195, R196).
LDW and LDWS fill the shadow plane, whose descriptor changes at once; the fill is complete F cycles after c + 2 (R166,
R167). The active plane is not touched. -/
def Obligations.MatrixOperationsAndFillsStart : Prop :=
  (∀ (s : State) (tl b bb xc xr ty : Nat) (bx by_ : Box),
  s.b s.me b = some bx → s.b s.me bb = some by_ →
  let n := s.me
  let r := rowsOf s xr
  let starts := fun (i : Instr) (kind first p : Nat) (tiles : List Nat) => checkOf i s = none →
    ∃ t m, Starts i s t ∧ (t.core n).mops = (s.core n).mops ++ [m] ∧ m.kind = kind ∧ m.rows = r ∧ m.next = 0 ∧
      m.ty = ty ∧ m.tile = tl ∧ (∀ k, m.readAt k = s.cycle + first + p * k) ∧
      (t.core n).entry = s.cycle + 1 + p * r ∧
      (∀ x ∈ tiles, ∀ c, c < s.cycle + 266 + p * (r - 1) → (t.core n).tileBusy x c = true) ∧
      ⟨s.cycle + 266 + p * (r - 1), 1, .tileBusyClear n⟩ ∈ t.agenda
  starts (.mma tl b xc xr ty) 2 2 (rowPeriod ty) (mmaTiles s tl) ∧
  starts (.mmaz tl b xc xr ty) 3 2 (rowPeriod ty) (mmaTiles s tl) ∧
  starts (.outer tl b bb xr ty) 4 1 1 [tl]) ∧
  (∀ (s : State) (bw br xc wt : Nat) (b : Box), s.b s.me bw = some b →
  let n := s.me
  let sh := (s.core n).shadow
  let starts := fun (i : Instr) (len : Nat) (sparse : Bool) => checkOf i s = none →
    ∃ t m, Starts i s t ∧ (t.core n).mops = (s.core n).mops ++ [m] ∧ m.plane = sh ∧ m.issue = s.cycle ∧
      (t.plane n sh).ty = wt ∧ (t.plane n sh).sparse = sparse ∧ t.plane n (s.core n).act = s.plane n (s.core n).act ∧
      (t.core n).fill = s.cycle + 2 + len ∧ ⟨s.cycle + 2 + len, 1, .weightFillComplete n⟩ ∈ t.agenda
  (s.core n).act < 2 →
  starts (.ldw bw xc wt) (if wt = 5 then 265 else if wt = 1 ∨ wt = 2 then 512 else 256) false ∧
  starts (.ldws bw br xc wt) (if wt = 1 ∨ wt = 2 then 768 else 512) true)

/-- SWPW exchanges the planes once every fill is complete, and TRD, TWR and TZERO move tile words (R168, R175, R177). That TWR
and TZERO write the words at issue, with the tile busy until the cycles R175 and R177 give, is the model's choice (DEDUCED,
log 63).
TST: row i of the tile is written at c + 2 + q·i and visible two cycles later, each word converted; the tile is busy
until c + 3 + q·(R − 1) (R176, R164). -/
def Obligations.TileMovesAndStore : Prop :=
  (∀ (s : State) (tl xs v : Nat),
  let n := s.me
  let k := s.core n
  let r := (s.x n xs).toNat % 128
  let b := (s.x n xs).toNat / 256 % 8
  ((k.fill ≤ s.cycle) → exec .swpw s = .next (s.coreTo n { k with act := 1 - k.act })) ∧
  (tl < tilesOf s n →
    (∃ t p, Starts (.trd tl xs v) s t ∧ (t.core n).pend = k.pend ++ [p] ∧ p.matrix = true ∧
      ∃ val, PlainResult s 3 [.v (s.vp v) (BitVec.allOnes 1024) val] (some val) p ∧
        ∀ j, j < 32 → val.extractLsb' (32 * j) 32 = s.t n tl r (32 * b + j)) ∧
    (∃ t, exec (.twr tl xs v) s = .next t ∧ SameMem s t ∧ SameSys s t ∧ (∀ m q, t.x m q = s.x m q) ∧
      (∀ m q, t.v m q = s.v m q) ∧ (∀ j, j < 32 → t.t n tl r (32 * b + j) = (s.vn v).extractLsb' (32 * j) 32) ∧
      (∀ m a i c, c < 256 → i < 128 → a < 8 → (m ≠ n ∨ a ≠ tl ∨ i ≠ r ∨ c / 32 ≠ b) → t.t m a i c = s.t m a i c)) ∧
    (∃ t, exec (.tzero tl) s = .next t ∧ SameMem s t ∧ SameSys s t ∧ (∀ m q, t.x m q = s.x m q) ∧
      (∀ i c, i < 128 → c < 256 → t.t n tl i c = 0) ∧
      (∀ m a i c, c < 256 → i < 128 → a < 8 → (m ≠ n ∨ a ≠ tl) → t.t m a i c = s.t m a i c)))) ∧
  (∀ (s : State) (tl b xc xr ty : Nat) (bx : Box), s.b s.me b = some bx →
  checkOf (.tst tl b xc xr ty) s = none →
  let n := s.me
  let r := rowsOf s xr
  let q := if tySize ty = 32 then 2 else 1
  let conv := fun (i j : Nat) => if tyFloat ty then (fConvert ty (fDecode 0 (s.t n tl i j).toNat) 0 0 false).1
    else satInt ty (intOf 8 (s.t n tl i j).toNat)
  ∃ t ps, Starts (.tst tl b xc xr ty) s t ∧ (t.core n).pend = (s.core n).pend ++ ps ∧ ps.length = r ∧
    (∀ c, c < s.cycle + 3 + q * (r - 1) → (t.core n).tileBusy tl c = true) ∧
    ∀ i p, ps[i]? = some p → p.vis = s.cycle + 4 + q * i ∧ p.lat = none ∧ p.flt = none ∧
      ∀ w, w ∈ p.wr ↔ ∃ (j : Nat) (e : Int) (sp : Space) (key : Nat), j < 256 ∧ bx.resolve [s.coord xc + i, s.coord (xc + 1) + j] = .elem e ∧
        bx.place s e false true = .at_ sp key ∧ w = .mem sp key (bytesOf bx.esize (conv i j)))

/-- One row of a matrix operation, dense or sparse: an integer tile word becomes wrap_int(.s32, old + Σ a·w); a floating-point
one the column sum of R172 over the pairs of R171, for 8-bit types with finite operands the exact sum rounded once; a QC4
plane fills two tiles, its blocks scaled (R163, R167, R170, R171, R172). OUTER reads its column operand, then each row gives
f(a[i], b[j]), with ACC f(old, g) (R195). An operation cut off from its plane keeps its copy of it (R179); for infinities of
both signs and the flags of the block scales see log 95 (the model's choice). -/
def Obligations.MatrixRows : Prop :=
  (∀ (s : State) (n : Nat) (m : MOp) (i : Nat), (m.kind = 2 ∨ m.kind = 3) → i < 128 →
  let p := m.kept.getD (s.plane n m.plane)
  let at_ := fun (r c : Nat) => if p.sparse then 4 * (r / 2) + tget 0 p.route (512 * r + c) else r
  let a := fun (k : Nat) => m.boxA.load s [m.c0 + i, m.c1 + (k : Int)]
  let w := fun (r c : Nat) => tget 0 p.w (512 * r + c)
  let t := applyAll (mmaRow n m i s) s
  let old := fun (tl c : Nat) => if m.kind = 2 then [fDecode 0 (s.t n tl i c).toNat] else []
  let pairs := fun (c : Nat) => (List.range 256).map (fun r => (fDecode m.ty (a (at_ r c)), fDecode p.ty (w r c)))
  let finite := fun (v : FVal) => v.isNan = false ∧ v.isInf = false
  (p.sparse = true → ∀ q, tget 0 p.route q < 4) →
  (tyFloat m.ty = false → p.ty ≠ 5 → ∀ c, c < 256 →
    t.t n m.tile i c = BitVec.ofInt 32 ((if m.kind = 2 then (s.t n m.tile i c).toInt else 0) +
      (List.range 256).foldl (fun x r => x + intOf m.ty (a (at_ r c)) * intOf p.ty (w r c)) 0)) ∧
  (tyFloat m.ty = true → p.ty ≠ 5 → ∀ c, c < 256 →
    t.t n m.tile i c = BitVec.ofNat 32 (columnSum (old m.tile c).head? (pairs c) [] (m.ty == 1 || m.ty == 2)).1 ∧
    (m.ty ≠ 1 → m.ty ≠ 2 → (∀ v ∈ old m.tile c, finite v) → (∀ q ∈ pairs c, finite q.1 ∧ finite q.2) →
      let l := old m.tile c ++ (pairs c).filterMap (fun q => prodV q.1 q.2)
      t.t n m.tile i c = BitVec.ofNat 32 (roundExact 0 (sumFin l) (l.all (fun v => v.isZero && v.sign)) 0 0 false).1)) ∧
  (tyFloat m.ty = true → p.ty = 5 → p.sparse = false → ∀ c, c < 512 →
    let level := fun (b : Nat) => FVal.fin (decide (qc4Level b < 0)) (qc4Level b).natAbs (-8)
    t.t n (m.tile + c / 256) i (c % 256) = BitVec.ofNat 32 (columnSum (old (m.tile + c / 256) (c % 256)).head?
      ((List.range 256).map (fun r => (fDecode m.ty (a r), level (w r c))))
      ((List.range 4).map (fun q => fDecode 0 (tget 0 p.scale (4 * c + q)))) (m.ty == 1 || m.ty == 2)).1)) ∧
  (∀ (s : State) (n : Nat) (m : MOp) (i : Nat), m.kind = 4 → i < 128 →
  let f := fun (x y : Nat) => (rtWords cellsEnv m.rtn [x, y]).q.getD 0 0
  (m ∈ (s.core n).mops → ∃ x ∈ ((applyAll (outerRow n m 0 s) s).core n).mops, x.next = 1 ∧
    x.col = (List.range 256).map (fun (j : Nat) => widenW m.ty (m.boxB.load s [(j : Int)]))) ∧
  ∀ j, j < 256 →
    let g := f (widenW m.ty (m.boxA.load s [(i : Int)])) (m.col.getD j 0)
    (applyAll (outerRow n m (i + 1) s) s).t n m.tile i j =
      BitVec.ofNat 32 (if m.c0 = 1 then f (s.t n m.tile i j).toNat g else g))

/-- TILE_BUSY_CLEAR and WEIGHT_FILL_COMPLETE end the operations that are over (R172, R173, R166): their reads of the cycles
before have been made, the busy bits of their tiles are clear, and FLG of their task takes their flags. -/
def Obligations.MatrixEventsComplete : Prop := ∀ (s : State) (n : Nat),
  let u := applyAll (readsDue n (s.cycle - 1) s) s
  let past := fun (e : MOp) => 2 ≤ e.kind ∧ e.reads ≤ e.next ∧ ∀ k ∈ e.tiles, tget 0 (u.core n).busy k ≤ s.cycle
  (∃ t, exec (.tileBusyClear n) s = .next t ∧ SameMem u t ∧ (∀ m r, t.x m r = u.x m r) ∧ (∀ m r, t.v m r = u.v m r) ∧
    (∀ m a r c, t.t m a r c = u.t m a r c) ∧
    (∀ e, e ∈ (t.core n).mops ↔ e ∈ (u.core n).mops ∧ ¬past e) ∧ (∀ e ∈ (t.core n).busy, s.cycle < e.2) ∧
    (∀ e ∈ (u.core n).mops, past e → (u.core n).task.getD e.task = e.task →
      ∀ k, (BitVec.ofNat 64 (e.flags * 2 ^ 16)).getLsbD k = true → (t.sr n srFMT).getLsbD k = true)) ∧
  (∃ t, exec (.weightFillComplete n) s = .next t ∧ SameAll u t ∧
    ∀ e, e ∈ (t.core n).mops ↔ e ∈ (u.core n).mops ∧ ¬(e.kind < 2 ∧ e.reads ≤ e.next))

/-! ### The L class -/

/-- Loads at T1 return the element's bytes as they stand at issue: LD and LDT after 4 cycles with the sign of the format,
VLD, VLDT and VLDX lane by lane, after 4, 4 and 6; nothing else changes, but that flipped bits met are reported (R226,
R227, R52, R380; log 26). -/
def Obligations.LocalLoads : Prop := ∀ (s : State) (d : Nat) (nb : Bool) (k c w : Nat) (i : Src) (b : Box),
  s.b s.me k = some b → b.tier = 1 →
  let one := hitVal s b (b.resolve (coordRegs s c b.rank))
  let x := if tySigned b.fmt then BitVec.ofInt 64 (sextOf (tySize b.fmt) one) else BitVec.ofNat 64 one
  let vec := fun (j : Instr) (lat : Nat) (f : Nat → Hit) => checkOf j s = none →
    let v := ofLanes (tySize b.fmt) ((List.range (widthOf w / tySize b.fmt)).map (fun q => hitVal s b (f q)))
    YieldsRead j s lat (if nb then [] else [.v (s.vp d) (BitVec.ofNat 1024 (2 ^ widthOf w - 1)) (BitVec.ofNat 1024 v)])
      (some (BitVec.ofNat 1024 v))
  let cs := coordRegs s c b.rank
  let along := fun (q : Nat) => b.resolve ((cs.headD 0 + (q : Int)) :: cs.tail)
  let byIndex := fun (q : Nat) => b.linear (sextOf 32 (bitsOf (s.srcV i).toNat (32 * q) 32))
  let scalar := fun (j : Instr) => checkOf j s = none →
    YieldsRead j s 4 (if nb then [] else [.x d x]) (some (x.setWidth 1024))
  scalar (.ld d nb k c) ∧ scalar (.ldt d nb k c) ∧
  vec (.vld d nb k c w) 4 along ∧ vec (.vldt d nb k c w) 4 along ∧ vec (.vldx d nb k i w) 6 byIndex

/-- Stores at T1 change nothing at issue and no latch; after two cycles they write, in lane order, the bytes of the elements
their lanes name and no others (R226, R227, R52).
A store's bytes, and a RECVOP's, land when the result becomes visible, and no other byte of any memory changes (R226, R51,
R315). -/
def Obligations.LocalStores : Prop :=
  (∀ (s : State) (v k c w : Nat) (i : Src) (b : Box),
  s.b s.me k = some b → b.tier = 1 →
  let cs := coordRegs s c b.rank
  let stores := fun (j : Instr) (n : Nat) (f : Nat → Hit) (val : Nat → Nat) => checkOf j s = none →
    ∃ p, exec j s = .next (s.queued s.me p) ∧ PlainResult s 2
      ((List.range n).filterMap (fun q => match f q with
        | .elem e => (match b.place s e false true with
          | .at_ sp key => some (Wr.mem sp key (bytesOf b.esize (val q)))
          | _ => none)
        | _ => none)) none p
  let lane := fun q => bitsOf (s.vn v).toNat (tySize b.fmt * q) (tySize b.fmt)
  let n := widthOf w / tySize b.fmt
  stores (.st v k c) 1 (fun _ => b.resolve cs) (fun _ => (s.x s.me v).toNat % 2 ^ tySize b.fmt) ∧
  stores (.vst v k c w) n (fun q => b.resolve ((cs.headD 0 + (q : Int)) :: cs.tail)) lane ∧
  stores (.vstx v k i w) n (fun q => b.linear (sextOf 32 (bitsOf (s.srcV i).toNat (32 * q) 32))) lane) ∧
  (∀ (s : State) (n : Nat) (p : Pend) (sp : Space) (a : Nat) (bs : List Byte),
  s.memOk = true → (s.core n).pend = [p] → p.vis ≤ s.cycle → p.flt = none → (p.again = .value ∨ p.again = .rmw) → p.wr = [.mem sp a bs] → p.lat = none →
  p.flags = 0 →
  ∃ t, exec (.resultWriteback n) s = .next t ∧ (t.core n).pend = [] ∧ SameRegs s t ∧ SameSys s t ∧
    (∀ j, j < bs.length → memGet (t.mem sp) (a + j) = bs.getD j 0) ∧
    (∀ q z, (q ≠ sp ∨ z < a ∨ a + bs.length ≤ z) → memGet (t.mem q) z = memGet (s.mem q) z))

/-- LD, ST and LDT on a box at T2 or T3 are far accesses: one request of the element's bytes goes out, and nothing a program
can see changes at issue (R228).
VLDZ expands one record: lanes where the mask word has ones, zeros elsewhere, and DZNEXT the element after it; a record
that fails its check writes nothing and raises the expansion fault (R231). -/
def Obligations.FarAccessesAndRecords : Prop :=
  (∀ (s : State) (d v : Nat) (nb : Bool) (k c key : Nat) (b : Box) (e : Int),
  s.b s.me k = some b → (b.tier = 2 ∨ b.tier = 3) → b.resolve (coordRegs s c b.rank) = .elem e →
  let sent := fun (i : Instr) (kind : Nat) (data : List Byte) => checkOf i s = none →
    ∃ t q, Starts i s t ∧ tfind t.reqs s.nid = some q ∧ q.kind = kind ∧ q.core = s.me ∧ q.op = none ∧
      q.vault = key / 2 ^ 31 ∧ q.addr = key % 2 ^ 31 ∧ q.len = b.esize ∧ q.data = data ∧ q.issue = s.cycle
  (b.place s e true false = .at_ .dram key → sent (.ld d nb k c) 0 [] ∧ sent (.ldt d nb k c) 0 []) ∧
  (b.place s e false true = .at_ .dram key →
    sent (.st v k c) 1 (bytesOf b.esize ((s.x s.me v).toNat % 2 ^ tySize b.fmt)))) ∧
  (∀ (s : State) (d : Nat) (nb : Bool) (k c w : Nat) (b : Box), w < 3 →
  s.b s.me k = some b → checkOf (.vldz d nb k c w) s = none →
  let n := widthOf w / 32
  let at_ := fun (q : Int) => hitVal s b (b.resolve [q])
  let i := s.coord c
  let cnt := fun j => ((List.range j).filter (fun q => (at_ i).testBit q)).length
  let ok := at_ i < 2 ^ n ∧ i < b.ext.headD 0 ∧ i + cnt 32 ≤ (b.ext.headD 0 : Int) - 1
  ∃ p u, exec (.vldz d nb k c w) s = .next u ∧ FindsErrors (s.queued s.me p) u ∧ p.vis = s.cycle + 5 ∧
    (ok → p.flt = none ∧ ∃ v : Nat, p.lat = some (BitVec.ofNat 1024 v) ∧
      p.wr = (if nb then [] else [.v (s.vp d) (BitVec.ofNat 1024 (2 ^ widthOf w - 1)) (BitVec.ofNat 1024 v)]) ++
        [.sr srDZNEXT (BitVec.ofInt 64 (i + 1 + cnt n))] ∧
      ∀ j, j < n → bitsOf v (32 * j) 32 = if (at_ i).testBit j then at_ (i + 1 + cnt j) % 2 ^ 32 else 0) ∧
    (¬ok → p.wr = [] ∧ p.lat = none ∧ ∃ f, p.flt = some f ∧ f.cause = 10))

/-- BOXSUB keeps or narrows a box and keeps or drops rights; it never moves the box outside the one it came from
(R338, R340). -/
def Obligations.BoxNarrowing : Prop := ∀ (s : State) (mm d p k c : Nat) (b : Box), s.b s.me k = some b → p < 2 →
  checkOf (.boxsub mm d p k c) s = none →
  let o := coordRegs s c b.rank
  let n := coordRegs s (c + b.rank) b.rank
  ∃ q t, exec (.boxsub mm d p k c) s = .next (s.queued s.me q) ∧ PlainResult s 2 [.b d (some t)] none q ∧
    t.tier = b.tier ∧ t.fmt = b.fmt ∧ t.str = b.str ∧ t.key = b.key ∧ t.home = b.home ∧ t.org = b.org ∧
    t.idx = b.idx + dot b.str o ∧ t.ext = n.map Int.toNat ∧ t.merge = mm ∧
    (t.rd = true → b.rd = true) ∧ (t.wr = true → b.wr = true) ∧
    ∀ j, j < b.rank → 0 ≤ o.getD j 0 ∧ 1 ≤ n.getD j 0 ∧ o.getD j 0 + n.getD j 0 ≤ (b.ext.getD j 0 : Int)

/-- BOXINF returns shape but never base, and BOXMOV, whose words R343 lays out, copies a box or none, an empty register
without a fault (R342, R343).
FENCE holds no issue and has no result: it only records what must be performed first and what it holds (R232). PUB
forks a publication (R233). -/
def Obligations.BoxReadingFenceAndPub : Prop :=
  (∀ (s : State) (d : Nat) (nb : Bool) (k sel : Nat),
  (d < 16 → k < 17 → decodeSlot (5 * 2 ^ 29 + 11 * 2 ^ 23 + d * 2 ^ 17 + k * 2 ^ 9) none = .ok (.boxmov d k)) ∧
  (∃ p, exec (.boxmov d k) s = .next (s.queued s.me p) ∧
    PlainResult s 2 [.b d (if k = 16 then none else s.b s.me k)] none p) ∧
  ((sel ≤ 6 ∨ (9 ≤ sel ∧ sel ≤ 14) ∨ sel = 16) →
    ∃ v, YieldsX (.boxinf d nb k sel) s 2 d nb v ∧ (s.b s.me k = none → v = 0) ∧
      ∀ b, s.b s.me k = some b →
        (1 ≤ sel → sel ≤ 6 → v = BitVec.ofNat 64 (b.ext.getD (sel - 1) 0)) ∧
        (9 ≤ sel → sel ≤ 14 → v = BitVec.ofInt 64 (b.str.getD (sel - 9) 0)) ∧
        (sel = 16 → v = BitVec.ofNat 64 (b.tb + b.key * 2 ^ 16)) ∧
        (sel = 0 → b.tier < 8 → b.fmt < 16 → b.rank < 8 → b.merge < 4 → b.oob < 4 → b.fop < 4 → b.rt < 64 →
          bitsOf v.toNat 0 3 = b.tier ∧ bitsOf v.toNat 3 4 = b.fmt ∧ bitsOf v.toNat 7 3 = b.rank ∧ v.getLsbD 10 = b.rd ∧
          v.getLsbD 11 = b.wr ∧ bitsOf v.toNat 12 2 = b.merge ∧ bitsOf v.toNat 14 2 = b.oob ∧
          bitsOf v.toNat 16 2 = b.fop ∧ bitsOf v.toNat 18 6 = b.rt ∧ bitsOf v.toNat 24 40 = 1)) ∧
  (¬(sel ≤ 6 ∨ (9 ≤ sel ∧ sel ≤ 14) ∨ sel = 16) → ∃ f, f.cause = 1 ∧ f.slots = slotCauses s.slot 2 ∧
    FaultsWith (.boxinf d nb k sel) s f)) ∧
  (∀ (s : State) (scope m : Nat) (a : Src),
  (∃ t, Starts (.fence scope m) s t ∧ t.reqs = s.reqs ∧ t.agenda = s.agenda ∧ (t.core s.me).pend = (s.core s.me).pend ∧
    (t.core s.me).nextAt = (s.core s.me).nextAt ∧ (t.core s.me).hold = (s.core s.me).hold ∧
    (fenceWaits s s.me scope m ≠ [] → ∃ f, (t.core s.me).fences = (s.core s.me).fences ++ [f] ∧
      (f.acq = true ↔ m ≠ 2) ∧ (f.rel = true ↔ m ≠ 1) ∧ f.waits = fenceWaits s s.me scope m)) ∧
  (checkOf (.pub a) s = none → ∃ t o, Starts (.pub a) s t ∧ tfind t.ops s.nid = some o ∧ o.kind = .pub ∧
    o.core = s.me ∧ o.par = [(s.srcX a).toNat % 64]))

/-! ### Control (R34 to R36, R115, R281 to R284) -/

/-- The branches, outside a branch's delay bundles and away from a level's END: nothing changes but the branch the sequencer
now holds, and BRL's link, pc + 3, one cycle later (R35). That an address wraps at the end of its store is the model's choice
(DEDUCED, log 51).
Two delay bundles issue after a branch, then the target; a branch not taken goes on behind them (R35). That the program
counter wraps to 0 at the end of the 16,384 bundles is the model's choice (DEDUCED, log 51). -/
def Obligations.BranchesAndDelayBundles : Prop :=
  (∀ (s : State) (d x t : Nat),
  let n := s.me
  let k := s.core n
  let v := s.x n x
  let goes := fun (a : Nat) (take : Bool) =>
    { k with dly := 3, tgt := if take then a else k.wrap (k.pc + 3), taken := take }
  k.dly = 0 → (∀ l ∈ k.zl, ¬(s.pcNow ≤ l.last ∧ l.last < s.pcNow + 2)) →
  exec (.br t) s = .next (s.coreTo n (goes t true)) ∧
  exec (.brx x) s = .next (s.coreTo n (goes (v.toNat % 2 ^ 14) true)) ∧
  exec (.brc x 0 t) s = .next (s.coreTo n (goes t (decide (v = 0)))) ∧
  exec (.brc x 1 t) s = .next (s.coreTo n (goes t (decide (v ≠ 0)))) ∧
  exec (.brc x 2 t) s = .next (s.coreTo n (goes t (decide (v.toInt < 0)))) ∧
  exec (.brc x 3 t) s = .next (s.coreTo n (goes t (decide (0 ≤ v.toInt)))) ∧
  exec (.brc x 4 t) s = .next (s.coreTo n (goes t (decide (0 < v.toInt)))) ∧
  exec (.brc x 5 t) s = .next (s.coreTo n (goes t (decide (v.toInt ≤ 0)))) ∧
  ∃ p, exec (.brl d t) s = .next (s.coreTo n { goes t true with pend := k.pend ++ [p] }) ∧
    PlainResult s 1 [.x d (BitVec.ofNat 64 (k.pc + 3))] none p) ∧
  (∀ (k : Core) (t u v a : Nat), k.sup = false → k.zl = [] → k.dly = 3 →
  k.tgt = a → k.pc < 16384 →
  let b := k.endBundle t
  let c := b.endBundle u
  let d := c.endBundle v
  b.dly = 2 ∧ b.pc = (k.pc + 1) % 16384 ∧ c.dly = 1 ∧ c.pc = (k.pc + 2) % 16384 ∧ d.dly = 0 ∧ d.taken = false ∧
    d.pc = (if k.taken then a % 16384 else (k.pc + 3) % 16384) ∧ t + 1 ≤ b.nextAt ∧ u + 1 ≤ c.nextAt ∧ v + 1 ≤ d.nextAt)

/-- ZLOOP opens a level over the bundles pc + 1 to END for x[xs] passes; a count of 0 continues behind END (R284).
At a level's END with passes to go the body replays; at its last pass the level is exhausted and issue goes on behind
END, where ZLOOP_LEVEL_EXIT ends it, or replays the level around it that has the same END (R284).
CLOSE turns the rotating bases, counts an iteration, and goes to KERN, to the epilogue, or on (R281). -/
def Obligations.LoopsTurn : Prop :=
  (∀ (s : State) (x e : Nat),
  let n := s.me
  let k := s.core n
  k.dly = 0 → k.zl.length < 6 → k.pc < e → e ≤ k.pc + 256 → (∀ l ∈ k.zl, e ≤ l.last) →
  exec (.zloop x e) s = .next (s.coreTo n { k with
    zl := ⟨k.pc + 1, e, (s.x n x).toNat⟩ :: k.zl
    pc := if s.x n x = 0 then e else k.pc })) ∧
  (∀ (s : State) (n : Nat) (l : ZLev) (r : List ZLev),
  let k := s.core n
  k.zl = l :: r →
  (l.last = k.pc → 2 ≤ l.left → k.advance = { k with pc := l.first, zl := { l with left := l.left - 1 } :: r }) ∧
  (l.last = k.pc → l.left ≤ 1 → k.advance = { k with pc := k.wrap (k.pc + 1), zl := { l with left := 0 } :: r }) ∧
  (l.last ≠ k.pc → k.advance = { k with pc := k.wrap (k.pc + 1) }) ∧
  (l.left = 0 → (∀ m q, r = m :: q → m.last ≠ l.last) →
    exec (.zloopLevelExit n) s = .next (s.coreTo n { k with zl := r })) ∧
  (l.left = 0 → ∀ m q, r = m :: q → m.last = l.last → 2 ≤ m.left →
    exec (.zloopLevelExit n) s = .next (s.coreTo n { k with pc := m.first, zl := { m with left := m.left - 1 } :: q }))) ∧
  (∀ s : State,
  let n := s.me
  let k := s.core n
  let left := (s.sr n srTRIPC).toNat % 2 ^ 32
  let rb := (s.sr n srROTB).toNat
  k.dly = 0 → (s.sr n srTRIPC).getLsbD 32 = true → k.zl = [] → 0 < left →
  ∃ t, exec .close s = .next t ∧ SameMem s t ∧ (∀ m r, t.x m r = s.x m r) ∧ (∀ m r, t.v m r = s.v m r) ∧
    (∀ m r, m ≠ n ∨ (r ≠ srROTB ∧ r ≠ srTRIPC) → r < 4096 → t.sr m r = s.sr m r) ∧
    (t.sr n srROTB).toNat = (rb % 64 + 47) % 48 + (rb / 256 % 8 + 7) % 8 * 256 ∧
    (1 < left → (t.sr n srTRIPC).toNat = left - 1 + 2 ^ 32 ∧
      ((t.core n).endBundle s.cycle).pc = (t.core n).wrap k.lrec.kern) ∧
    (left = 1 → t.sr n srTRIPC = 0 ∧
      ((t.core n).endBundle s.cycle).pc = (t.core n).wrap (if k.lrec.he then k.lrec.epi else k.pc + 1)))

/-- NOP and a header do nothing of their own; WAITC and WAITT hold issue until their cycle, and the hold ends then
(R36, R38, R283). -/
def Obligations.WaitsHoldIssue : Prop := ∀ (s : State) (x n m c v : Nat) (a b d e f g : Nat),
  let k := s.core s.me
  exec .nop s = .next s ∧ exec (.hdr a b d e f g) s = .next s ∧
  exec (.waitc x n) s = .next (s.coreTo s.me { k with hold := .until (s.cycle + 1 + (s.x s.me x).toNat % 2 ^ 32 + n) }) ∧
  exec (.waitt x) s = .next (s.coreTo s.me { k with hold := .ctime (s.x s.me x).toNat }) ∧
  ((s.core m).hold = .until c → c ≤ s.cycle → exec (.waitcExpiry m) s = .next (s.coreTo m { s.core m with hold := .none })) ∧
  ((s.core m).hold = .until c → s.cycle < c → exec (.waitcExpiry m) s = .next s) ∧
  ((s.core m).hold = .ctime v → v ≤ s.ctime → exec (.waittExpiry m) s = .next (s.coreTo m { s.core m with hold := .none }))

/-- SETFMT, and an MTS of FMT, govern four bundles later; SETMSK, and an MTS of MSKSEL, two bundles later; nothing else
changes (R114, R115, R147, R148).
At the end of its shadow the image replaces FMT, the flags of results visible in that cycle staying, and a selector
write replaces the selectors it does not keep (R115, R121, R147). -/
def Obligations.ShadowsBeginAndEnd : Prop :=
  (∀ (s : State) (x t m3 z3 m4 z4 m5 z5 keep : Nat),
  let n := s.me
  let k := s.core n
  let w := (s.x n x).toNat
  let img := if t = 15 then w else w / 16 * 16 + t
  (fmtBad img = false → exec (.setfmt x t) s = .next (s.coreTo n { k with
    fmtQ := k.fmtQ ++ [⟨4, BitVec.ofNat 64 img⟩] })) ∧
  (fmtBad img = true → ∃ f, f.cause = 1 ∧ f.slots = slotCauses s.slot 2 ∧ FaultsWith (.setfmt x t) s f) ∧
  exec (.setmsk m3 z3 m4 z4 m5 z5 keep) s = .next (s.coreTo n { k with
    mskQ := k.mskQ ++ [⟨2, m3 + z3 * 2 ^ 4 + m4 * 2 ^ 5 + z4 * 2 ^ 9 + m5 * 2 ^ 10 + z5 * 2 ^ 14, keep⟩] }) ∧
  (fmtBad w = false → exec (.mts x 1) s = .next (s.coreTo n { k with fmtQ := k.fmtQ ++ [⟨4, s.x n x⟩] })) ∧
  (w < 2 ^ 15 → exec (.mts x 2) s = .next (s.coreTo n { k with mskQ := k.mskQ ++ [⟨2, w, 0⟩] }))) ∧
  (∀ (s : State) (n : Nat) (img : Word) (q : List FmtP) (i keep : Nat) (r : List MskP),
  let k := s.core n
  (k.fmtQ = ⟨0, img⟩ :: q → ∃ t, exec (.fmtShadowEnd n) s = .next t ∧ (t.core n).fmtQ = q ∧ SameMem s t ∧
    (∀ m j, t.x m j = s.x m j) ∧ (∀ m j, m ≠ n ∨ j ≠ srFMT → j < 4096 → t.sr m j = s.sr m j) ∧
    t.sr n srFMT = img ||| BitVec.ofNat 64 ((if k.flagCyc = s.cycle then k.flagBits else 0) * 2 ^ 16)) ∧
  (k.mskQ = ⟨0, i, keep⟩ :: r → ∃ t, exec (.maskSelectorUpdate n) s = .next t ∧ (t.core n).mskQ = r ∧ SameMem s t ∧
    (∀ m j, t.x m j = s.x m j) ∧ (∀ m j, m ≠ n ∨ j ≠ srMSKSEL → j < 4096 → t.sr m j = s.sr m j) ∧
    ∀ j, j < 3 → (t.sr n srMSKSEL).toNat / 2 ^ (5 * j) % 32 =
      (if keep.testBit j then (s.sr n srMSKSEL).toNat else i) / 2 ^ (5 * j) % 32))

/-! ### System registers and modes (R344 to R348) -/

/-- MFS returns any assigned register its mode may read, two cycles later; MTS of any register its mode may write, other
than FMT and MSKSEL, writes it two cycles later; nothing else changes at issue (R346). For CTIME, which R346 excepts
and R309 gives no cycle, the two cycles are the model's choice (DEDUCED, log 55).
In task mode ERET, HALT and the supervisor's registers raise the privilege fault; in either mode an unassigned register
is illegal with reason 2 (R57, R344, R346, R348). -/
def Obligations.SystemRegisterMoves : Prop :=
  (∀ (s : State) (d x r : Nat) (tr tw sw : Bool), srView r = some (tr, tw, sw) →
  let n := s.me
  (((s.core n).sup = true ∨ tr = true) → ∃ p, exec (.mfs d r) s = .next (s.queued n p) ∧
    PlainResult s 2 [.x d (readSr s n r)] none p) ∧
  (r ≠ 1 → r ≠ 2 → r ≠ 4 → r ≠ 5 → sw = true → ((s.core n).sup = true ∨ tw = true) →
    mtsRefused s r (s.x n x).toNat = false → ∃ p, exec (.mts x r) s = .next (s.queued n p) ∧
      PlainResult s 2 [.ev (mtsEvent n r (s.x n x))] none p)) ∧
  (∀ (s : State) (d x r : Nat),
  let k := s.core s.me
  (k.sup = false → ∃ f, f.cause = 2 ∧ FaultsWith .eret s f ∧ FaultsWith .halt s f ∧
    (∀ tw sw, srView r = some (false, tw, sw) → FaultsWith (.mfs d r) s f) ∧
    (∀ tr, srView r = some (tr, false, true) → r ≠ 4 → r ≠ 5 → mtsRefused s r (s.x s.me x).toNat = false →
      FaultsWith (.mts x r) s f)) ∧
  (srView r = none → ∃ f, f.cause = 1 ∧ f.slots = slotCauses s.slot 2 ∧ FaultsWith (.mfs d r) s f ∧
    FaultsWith (.mts x r) s f))

/-- Taking a trap: the record, the trapping bundle in EPC bits 13–0, the latches cleared, the image saved, supervisor mode at
SVEC three cycles later; registers, memory and EPC's other bits stay (R363, R364, R367).
A fault in supervisor mode fences the core, which issues no more, and sends the control cores a fence event with the
core's trap record: the sixteen words above the core's number (R363). -/
def Obligations.TrapsAndDoubleTraps : Prop :=
  (∀ (s : State) (n : Nat) (f : Flt), (s.core n).sup = false →
  let k := s.core n
  let t := applyAll (faultAt n f s) s
  SameMem s t ∧ (∀ m r, t.x m r = s.x m r) ∧ (∀ m r, t.v m r = s.v m r) ∧ (∀ m r, t.p m r = s.p m r) ∧
  (∀ m r, t.b m r = s.b m r) ∧ (∀ j, j < 8 → t.l n j = 0) ∧
  (t.sr n srEPC).toNat % 2 ^ 14 = k.pc % 2 ^ 14 ∧ (t.sr n srEPC).toNat / 2 ^ 14 = (s.sr n srEPC).toNat / 2 ^ 14 ∧
  (t.sr n srTREC0).toNat % 2 ^ 14 = k.pc % 2 ^ 14 ∧
  (f.cause < 2 ^ 16 → k.pc < 2 ^ 14 → (t.sr n srTREC0).toNat / 2 ^ 16 % 2 ^ 16 = f.cause) ∧
  t.sr n (srTREC0 + 2) = BitVec.ofNat 64 s.ctime ∧ (t.core n).sup = true ∧
  (t.core n).pc = (s.sr n srSVEC).toNat % 2 ^ 14 ∧ (t.core n).nextAt = s.cycle + 3 ∧
  ∃ img, (t.core n).img = some img ∧ img.dly = k.dly ∧ img.tgt = k.tgt ∧ img.taken = k.taken ∧ img.fmtQ = k.fmtQ ∧
    img.mskQ = k.mskQ ∧ img.zl = k.zl ∧
    ∀ q ∈ k.pend, s.cycle < q.vis → q.matrix = false → q.away s.cycle ∈ img.pend) ∧
  (∀ (s : State) (n : Nat) (f : Flt), (s.core n).sup = true → n < 160 →
  let t := applyAll (faultAt n f s) s
  SameMem s t ∧ (∀ m r, t.x m r = s.x m r) ∧ (t.core n).run = .fenced ∧ coreFenced t n = true ∧
    (f.cause < 2 ^ 16 → (s.core n).pc < 2 ^ 14 → (t.sr n srTREC0).toNat / 2 ^ 16 % 2 ^ 16 = f.cause) ∧
    (evFence, n + 2 ^ 8 * (List.range 16).foldl (fun a k => a + (t.sr n (srTREC0 + k)).toNat * 2 ^ (64 * k)) 0) ∈
      t.dev.supEvents)

/-- SVC ends its bundle, then enters supervisor mode with the address that would issue next in EPC bits 13–0, behind the
levels that end at the bundle, and its number in SVCN; TRAP is the program trap (R347, R371).
ERET in supervisor mode returns to task mode at EPC three cycles later with the branch, shadow and loop state of the
image, its results as long after it as they were after the trap, its latches zero, or fails the task; HALT stops the
sequencer (R348, R368, R374, R36). That a resumed result writes no latch and the return clears all of them (DEDUCED, log 18),
and that the image keeps the hold it was taken in (DEDUCED, log 46), are the model's choices. -/
def Obligations.ServiceCallAndReturn : Prop :=
  (∀ (s : State) (k : Nat),
  let n := s.me
  let c := s.core n
  (c.dly = 0 → c.sup = false → ∃ t, exec (.svc k) s = .next t ∧ SameMem s t ∧ (∀ m r, t.x m r = s.x m r) ∧
    (∀ m r, t.v m r = s.v m r) ∧
    (t.sr n srEPC).toNat % 2 ^ 14 = (c.endBundle s.cycle).leaveLevels.pc % 2 ^ 14 ∧
    (t.sr n srEPC).toNat / 2 ^ 14 = (s.sr n srEPC).toNat / 2 ^ 14 ∧ t.sr n srSVCN = BitVec.ofNat 64 k ∧ (c.pc < 2 ^ 14 → (t.sr n srTREC0).toNat / 2 ^ 16 % 2 ^ 16 = 0x1E) ∧
    (∀ j, j < 8 → t.l n j = 0) ∧ (t.core n).sup = true ∧ (t.core n).pc = (s.sr n srSVEC).toNat % 2 ^ 14 ∧
    (t.core n).nextAt = s.cycle + 3) ∧
  (c.dly ≠ 0 → ∃ f, f.cause = 1 ∧ f.slots = slotCauses s.slot 10 ∧ FaultsWith (.svc k) s f) ∧
  (∃ f, f.cause = 0x1F ∧ f.detail = [k] ∧ FaultsWith (.trap k) s f)) ∧
  (∀ s : State,
  let n := s.me
  let c := s.core n
  let cause := (s.sr n srTREC0).toNat / 2 ^ 16 % 2 ^ 16
  c.sup = true →
  exec .halt s = .next (s.coreTo n { c with run := .idle }) ∧
  (∀ img, (s.sr n srEPC).getLsbD 63 = false → cause ≠ 0x13 → cause ≠ 8 → c.img = some img → img.replay = [] →
    ∃ t, exec .eret s = .next t ∧ SameMem s t ∧ (∀ m r, t.x m r = s.x m r) ∧ (∀ m r, t.v m r = s.v m r) ∧
      (∀ m j, j < 8 → t.l m j = if m = n then 0 else s.l m j) ∧ (t.core n).sup = false ∧ (t.core n).img = none ∧
      (t.core n).pc = (s.sr n srEPC).toNat % 2 ^ 14 ∧ (t.core n).nextAt = s.cycle + 3 ∧ (t.core n).dly = img.dly ∧
      (t.core n).tgt = img.tgt ∧ (t.core n).taken = img.taken ∧ (t.core n).fmtQ = img.fmtQ ∧
      (t.core n).mskQ = img.mskQ ∧ (t.core n).zl = img.zl ∧ (t.core n).hold = img.hold ∧
      (t.core n).pend = c.pend ++ img.pend.map (fun p => { p with vis := s.cycle + 3 + p.vis, lat := none }) ∧
      (cause ≠ 0x1E → (t.sr n srFSUM).toNat % 2 ^ 16 = cause)) ∧
  (∀ k, (s.sr n srEPC).getLsbD 63 = true → c.task = some k →
    ∃ t, exec .eret s = .next t ∧ SameMem s t ∧ (t.core n).sup = false ∧ (t.core n).hold = .failed ∧
      ⟨s.cycle, 3, .taskFailure k ((s.sr n srEPC).toNat / 2 ^ 32 % 2 ^ 16)⟩ ∈ t.agenda))

/-! ### Between bundles -/

/-- A result becomes visible: its register, under the mask of a vector or predicate write, and its slot's latch; writes of x0
and p0 are discarded, and nothing else changes (R43, R47, R49, R51). -/
def Obligations.ResultsBecomeVisible : Prop := ∀ (s : State) (n : Nat) (p : Pend) (lv : VWord),
  (s.core n).pend = [p] → p.vis ≤ s.cycle → p.flt = none → p.again = .value → p.flags = 0 → p.lat = some lv → n < 164 →
  (∀ w ∈ p.wr, (∃ d v, w = .x d v) ∨ (∃ d m v, w = .v d m v) ∨ (∃ d m v, w = .p d m v) ∨ ∃ d b, w = .b d b) →
  ∃ t, exec (.resultWriteback n) s = .next t ∧ (t.core n).pend = [] ∧ SameMem s t ∧ SameSys s t ∧
    (∀ j, j < 8 → t.l n j = if j = p.slot ∧ j ≠ 0 then lv else s.l n j) ∧
    (∀ d v, p.wr = [.x d v] → d < 64 → ∀ r, r < 64 → t.x n r = if r = d ∧ d ≠ 0 then v else s.x n r) ∧
    (∀ d m v, p.wr = [.v d m v] → d < 64 → ∀ r, r < 64 →
      t.v n r = if r = d then (s.v n d &&& ~~~m) ||| (v &&& m) else s.v n r) ∧
    (∀ d m v, p.wr = [.p d m v] → d < 16 → ∀ r, r < 16 →
      t.p n r = if r = d ∧ d ≠ 0 then (s.p n d &&& ~~~m) ||| (v &&& m) else s.p n r) ∧
    (∀ d b, p.wr = [.b d b] → d < 16 → t.b n d = b) ∧
    (p.wr = [] → ∀ r, t.x n r = s.x n r ∧ t.v n r = s.v n r ∧ t.p n r = s.p n r)

/-- An enabled flag withholds the result: FLG takes the flags, no register, latch or byte changes, and the fault is due
(R121, R122, R361).
TRAP_ENTRY takes the due fault of the lowest code; OVERRUN_FAULT takes cause 0x13 where a bound has passed; with none
due neither does anything (R282, R361, R363). -/
def Obligations.DeferredFaults : Prop :=
  (∀ (s : State) (n : Nat) (p : Pend) (f : Flt),
  (s.core n).pend = [p] → p.vis ≤ s.cycle → p.flt = some f →
  ∃ t, exec (.resultWriteback n) s = .next t ∧ SameMem s t ∧ SameRegs s t ∧
    t.sr n srFMT = s.sr n srFMT ||| BitVec.ofNat 64 (p.flags * 2 ^ 16) ∧
    (t.core n).due = (s.core n).due ++ [⟨s.cycle, f, some p, p.sup⟩]) ∧
  (∀ (s : State) (n : Nat),
  let c := s.core n
  (∀ d, c.run = .issuing → firstDue s n = some d → d.sup = false → c.sup = false →
    (∀ p e, d.rep = some p → p.rbs = some e → e.1 < 4) →
    (∀ e ∈ c.due, e.since ≤ s.cycle → d.flt.cause ≤ e.flt.cause) ∧
    ∃ t, exec (.trapEntry n) s = .next t ∧ SameMem s t ∧ (∀ m r, t.x m r = s.x m r) ∧ (t.core n).sup = true ∧
      (t.core n).due = c.due.erase d ∧ (t.sr n srEPC).toNat % 2 ^ 14 = c.pc % 2 ^ 14 ∧
      (t.sr n srEPC).toNat / 2 ^ 14 = (s.sr n srEPC).toNat / 2 ^ 14 ∧
      (d.flt.cause < 2 ^ 16 → c.pc < 2 ^ 14 → (t.sr n srTREC0).toNat / 2 ^ 16 % 2 ^ 16 = d.flt.cause)) ∧
  (firstDue s n = none → exec (.trapEntry n) s = .next s) ∧
  (overran s n = true → ∃ t, exec (.overrunFault n) s = .next t ∧ SameMem s t ∧ (t.core n).sup = true ∧
    (c.pc < 2 ^ 14 → (t.sr n srTREC0).toNat / 2 ^ 16 % 2 ^ 16 = 0x13)) ∧
  (overran s n = false → exec (.overrunFault n) s = .next s))

/-! ### The E class and far accesses -/

/-- An engine operation joins its engine's queue as a thread of its own; nothing a program can see changes at issue, but the
counters an .sr copy and RBFILL advance (R216, R234, R237, R243, R244, R190, R249, R252, R255). That RBCTR takes its
new value at the issue of RBFILL is the model's choice (DEDUCED, log 61). -/
def Obligations.EngineOperationsIssue : Prop := ∀ (s : State) (d a i : Nat) (bd ba bi : Box) (x y z u w q e : Nat),
  s.b s.me d = some bd → s.b s.me a = some ba → s.b s.me i = some bi →
  let n := s.me
  let forks := fun (j : Instr) (k : OpK) (boxes : Op → Prop) => checkOf j s = none →
    Leaves j s (fun t => SameAll s t ∧ ∃ o, tfind t.ops s.nid = some o ∧ o.kind = k ∧ o.core = n ∧ o.issue = s.cycle ∧
      o.st = .waiting ∧ o.pc = s.pcNow ∧ o.slot = s.slot ∧ boxes o)
  forks (.gath d a i) .gath (fun o => o.boxes = [bd, ba, bi] ∧ o.total = bi.count) ∧
  forks (.scac d a i x y z) .scac (fun o => o.boxes.take 3 = [bd, ba, bi]) ∧
  forks (.fold d a x y z u) .fold (fun o => o.boxes = [bd, ba]) ∧
  forks (.scan d a x y z u w q) .scan (fun o => o.boxes.take 2 = [bd, ba]) ∧
  forks (.zip d a i y z) .zip (fun o => o.boxes.take 2 = [bd, ba]) ∧
  forks (.vrun d x y) .vrun (fun o => o.boxes = [bd]) ∧
  (checkOf (.vstop d) s = none → Leaves (.vstop d) s (fun t => SameAll s t ∧
    ⟨s.cycle + 4 + coreVault n bd.home, 3, .vstopArrival bd.home (n + 256 * (s.core n).ctx)⟩ ∈ t.agenda)) ∧
  (checkOf (.cpy d a x y z u w q) s = none → Leaves (.cpy d a x y z u w q) s (fun t => SameMem s t ∧ SameRegs s t ∧
    (∀ m r, r < 4096 → (m ≠ n ∨ r ≠ srRBSEQ ∨ q ≠ 4) → t.sr m r = s.sr m r) ∧
    (q = 4 → t.sr n srRBSEQ = s.sr n srRBSEQ + 1) ∧ s.nid ∈ (t.core n).board ∧
    ∃ o, tfind t.ops s.nid = some o ∧ o.kind = .cpy ∧ o.boxes = [ba, bd] ∧ o.tr = y ∧ o.st = .waiting)) ∧
  Leaves (.rbfill e) s (fun t => SameMem s t ∧ SameRegs s t ∧
    (let k := min e (16 - (s.core n).rbq.length - (s.core n).rbPend)
     (t.core n).rbPend = (s.core n).rbPend + k ∧
     (t.sr n srRBCTR0).toNat + (t.sr n (srRBCTR0 + 1)).toNat * 2 ^ 64 =
       ((s.sr n srRBCTR0).toNat + (s.sr n (srRBCTR0 + 1)).toNat * 2 ^ 64 + 16 * k) % 2 ^ 128 ∧
     ∃ o, tfind t.ops s.nid = some o ∧ o.kind = .rbfill ∧ o.total = k))

/-- DLVSET writes the four words of a counter record as a store does, at a T3 home as a far write; DLVWAIT holds issue, and
its hold ends when every valid record has what it expects, with a delivery fault where a flag is set, or at its deadline
with the deadline fault; a delivery adds its bytes to the record of its producer, and flags a count past what is expected or,
in record 0, a producer that no record names (R247, R248). -/
def Obligations.CountedDelivery : Prop := ∀ (s : State) (bc xe xp xn n reg dl : Nat) (b c : Box),
  s.b s.me bc = some b →
  let r := 4 * (s.x s.me xe).toNat
  let val := fun (j : Nat) => [(s.x s.me xp).toNat % 2 ^ 28 + 2 ^ 31, (s.x s.me xn).toNat, 0, 0].getD j 0
  let goes := fun (j : Nat) (pl : Place) => ∃ i, b.elemIdx (r + j) = some i ∧ b.place s i true true = pl
  let sent := fun (t : State) (key : Nat) (under : List Nat) (j off : Nat) => ∃ e ∈ t.reqs, e.2.kind = 1 ∧ e.2.core = s.me ∧
    e.2.op = none ∧ e.2.issue = s.cycle ∧ e.2.sealed = under ∧ e.2.vault * 2 ^ 31 + e.2.addr + off = key ∧
    (e.2.data.drop off).take 4 = bytesOf 4 (val j)
  (b.tier = 1 → checkOf (.dlvset bc xe xp xn) s = none → ∃ p, exec (.dlvset bc xe xp xn) s = .next (s.queued s.me p) ∧
    p.vis = s.cycle + 2 ∧ p.lat = none ∧ p.flt = none ∧
    ∀ x, x ∈ p.wr ↔ ∃ j sp k, j < 4 ∧ goes j (.at_ sp k) ∧ x = .mem sp k (bytesOf 4 (val j))) ∧
  (b.tier ≠ 1 → checkOf (.dlvset bc xe xp xn) s = none → Leaves (.dlvset bc xe xp xn) s (fun t => SameAll s t ∧
    (∀ j k, j < 4 → goes j (.at_ .dram k) → ∃ off, sent t k [] j off) ∧
    (∀ j k u ph sh bs, j < 4 → goes j (.sealed k u ph sh bs) → sent t (2 ^ 31 * 160) [k, u, ph, sh, bs] j 0))) ∧
  (checkOf (.dlvwait bc xe) s = none → Leaves (.dlvwait bc xe) s (fun t => SameAll s t ∧
    let d := (s.x s.me xe).toNat
    (t.core s.me).hold = .dlv b bc d ∧ (d ≠ 0 → ⟨if d ≤ s.ctime then s.cycle + 1 else s.cycle + (d - s.ctime), 3,
      .dlvwaitDeadline s.me⟩ ∈ t.agenda))) ∧
  ((s.core n).held = .dlv c reg dl → (s.core n).sup = false →
    let faults := fun (i : Instr) (cause : Nat) => Leaves i s (fun t => SameMem s t ∧ SameRegs s t ∧
      (t.core n).hold = .none ∧ ∃ d ∈ (t.core n).due, d.flt.cause = cause ∧ d.since = s.cycle)
    (dlvFlagged s c = true → faults (.dlvwaitRelease n) 0x0E) ∧
    (dlvFlagged s c = false → dlvDone s c = true →
      exec (.dlvwaitRelease n) s = .next (s.coreTo n ((s.core n).release s.cycle))) ∧
    (dlvFlagged s c = false → dlvDone s c = false → exec (.dlvwaitRelease n) s = .next s) ∧
    (dl ≠ 0 → dl ≤ s.ctime → dlvDone s c = false → dlvFlagged s c = false → faults (.dlvwaitDeadline n) 0x0F) ∧
    (dlvDone s c = true ∨ dlvFlagged s c = true → exec (.dlvwaitDeadline n) s = .next s)) ∧
  (∀ w producer bytes rec, c.tier = 1 → c.rank = 1 → c.fmt = 11 → c.str = [1] → c.ext = [w] → 0 ≤ c.idx →
    c.org + 4 * (c.idx.toNat + w) ≤ 2 ^ 22 → s.memOk = true → s.still →
    let t := applyAll (deliver none c producer bytes none s) s
    let word := fun (u : State) (j : Nat) => (counterWord u c j : Nat)
    let names := fun (k : Nat) => word s (4 * k) = producer + 2 ^ 31
    (4 * rec + 3 < w → names rec → (∀ k, k < rec → ¬names k) → ∀ j, j < w → word t j =
      if j = 4 * rec + 2 then (word s j + bytes) % 2 ^ 32
      else if j = 4 * rec + 3 ∧ word s (4 * rec + 1) < word s (4 * rec + 2) + bytes then word s j ||| 1 else word s j) ∧
    ((∀ k, k < w / 4 → ¬names k) → 3 < w → ∀ j, j < w → word t j = if j = 3 then word s j ||| 2 else word s j))

/-- The events of an engine operation: it starts when its engine is idle, a copy departs from the head of the board, and the
operation is over when its last unit has been moved: its flags go into FLG and its thread joins (R121, R234, R238, R243,
R245, R198, R408).
RBFILL_WORD_WRITE puts the next word of the generator at the queue's end; PUB_VERSION_WRITE writes the window's
incremented version to the host (R249, R224, R233). -/
def Obligations.EngineEventsComplete : Prop :=
  (∀ (s : State) (o : Nat) (p : Op), tfind s.ops o = some p →
  let n := p.core
  let joined := fun (i : Instr) => Leaves i s (fun t => tfind t.ops o = none ∧ SameMem s t ∧ SameRegs s t ∧
    ((s.core n).task.getD p.task = p.task → ∀ k, (BitVec.ofNat 64 (p.flags * 2 ^ 16)).getLsbD k = true →
      (t.sr n srFMT).getLsbD k = true))
  let ended := p.st = .running ∧ p.fin ≤ s.cycle ∧ p.next = p.total ∧ p.flt = none ∧ p.bad = none ∧ p.reqs = 0 ∧ p.outs = [] ∧
    p.gather = [] ∧ p.busy = none
  ((p.kind = .gath ∨ p.kind = .fold ∨ p.kind = .scan ∨ p.kind = .zip) → p.st = .waiting → p.phase ≠ 9 →
    engineBusy s p o = false → Leaves (.engineOpStart o) s (fun t => SameAll s t ∧ ∃ q, tfind t.ops o = some q ∧
      q.st = .running ∧ q.start = s.cycle ∧ (p.kind = .gath → q.fin = s.cycle + 8 + p.total ∧
        ⟨s.cycle + 8 + p.total, 2, .gathCompletion o⟩ ∈ t.agenda))) ∧
  (p.kind = .cpy → p.st = .waiting → p.phase ≠ 9 → p.dueAt s ≤ s.cycle → (s.core n).board.head? = some o →
    (s.core n).depFree ≤ s.cycle → cpyBar s p = none → Leaves (.cpyDeparture o) s (fun t => SameMem s t ∧ SameRegs s t ∧
      o ∉ (t.core n).board ∧ (t.core n).depFree = s.cycle + 1 ∧ ∃ q, tfind t.ops o = some q ∧ q.st = .running)) ∧
  (p.kind = .cpy → p.phase = 5 → p.tend ≤ s.cycle → p.src.remote (p.view s) = false → p.dst.remote (p.view s) = false →
    (p.tr ≠ 7 → exec (.cpyTransferEnd o) s = .next s) ∧
    (p.tr = 7 → p.next = p.total → Leaves (.cpyTransferEnd o) s (fun t => SameAll s t ∧
      (t.core n).crc = p.acc.getD 3 0))) ∧
  (p.kind = .cpy → p.phase = 5 → p.src.remote (p.view s) = false → p.dst.remote (p.view s) = false → ended → p.tr ≠ 7 →
    joined (.cpyCompletion o)) ∧
  (p.kind = .gath → ended → joined (.gathCompletion o)) ∧
  (p.kind = .scac → p.farHome (p.view s) = false → ended → joined (.scacCompletion o)) ∧
  (p.kind = .fold ∨ p.kind = .scan ∨ p.kind = .zip → ended → joined (.routineOpCompletion o))) ∧
  (∀ (s : State) (n o : Nat) (p : Op) (x : Win),
  (s.ops = [(o, p)] → p.core = n → p.kind = .rbfill → p.st = .running → p.start + 12 + 2 * p.next ≤ s.cycle →
    Leaves (.rbfillWordWrite n) s (fun t => SameMem s t ∧ SameRegs s t ∧
      (let c := (p.par.getD 0 0 % 2 ^ 64 + p.par.getD 1 0 % 2 ^ 64 * 2 ^ 64 + 16 * p.next) % 2 ^ 128
       (t.core n).rbq = (s.core n).rbq ++
         [rbWord p.key0 p.key1 (BitVec.ofNat 64 (c % 2 ^ 64)) (BitVec.ofNat 64 (c / 2 ^ 64))]) ∧
      (t.core n).rbPend = (s.core n).rbPend - 1)) ∧
  (s.memOk = true → tfind s.ops o = some p → p.kind = .pub → p.st = .running →
    tfind (s.ctx p.ctx).wins (p.par.headD 0) = some x → Leaves (.pubVersionWrite o) s (fun t => SameRegs s t ∧ SameSys s t ∧
      tfind t.ops o = none ∧ t.bytes .host x.vaddr 8 = bytesOf 8 (x.version + 1) ∧
      (∀ sp a, (sp ≠ .host ∨ a < x.vaddr ∨ x.vaddr + 8 ≤ a) → memGet (t.mem sp) a = memGet (s.mem sp) a) ∧
      ∃ y, tfind (t.ctx p.ctx).wins (p.par.headD 0) = some y ∧ y.version = x.version + 1)))

/-- What CPY and GATH write, between scratchpads and with no injector armed: unit k writes its elements and no other byte.
CPY copies, converts, transposes, quantises, expands, compresses and unpacks as its transform says, or runs its routine; GATH
puts the element its index names, 0 outside under ZERO, and stops at one outside under FAULT (R132, R133, R193, R240, R242,
R243). At the completion the units that are left have all been moved, in order (R216, R238). -/
def Obligations.CopiesAndGathersWrite : Prop := ∀ (s : State) (o k : Nat) (p : Op), tfind s.ops o = some p →
  s.memOk = true → s.still →
  (p.kind = .gath → ∀ b a i, p.boxes = [b, a, i] → b.tier = 1 → a.tier = 1 → i.tier = 1 →
    let hit := a.linear (sextOf 32 (s.elemAt i (i.at k)))
    (∀ e, hit = .elem e → UnitWrites s o k b b [.elem (b.at k) (s.elemAt a e)]) ∧
    (hit = .zero → UnitWrites s o k b b [.elem (b.at k) 0]) ∧
    (hit = .fault → p.flt = none → UnitWrites s o k b b [] ∧ ∃ q f, tfind (applyAll (applyUnit o k true s) s).ops o = some q ∧
      q.flt = some f ∧ f.cause = 3)) ∧
  (p.kind = .cpy → ∀ a b, p.boxes = [a, b] → a.tier = 1 → b.tier = 1 → (∀ d n, injBits (p.par.drop 5) d n = 0) →
    let x := fun (l : Nat) => s.elemAt a (a.at l)
    let e0 := a.ext.headD 0
    let block := (e0 + 31) / 32
    let sized := min 32 (e0 - 32 * (k % block))
    let at_ := k / block * e0 + 32 * (k % block)
    let into := k / block * b.ext.headD 0 + 33 * (k % block)
    let coded := k / b.ext.headD 1 * e0 + 33 * (k % b.ext.headD 1 / 32)
    let pos := p.acc.getD 0 0
    ((p.tr = 0 ∨ p.tr = 7) → UnitWrites s o k b b [.elem (b.at k) (x k)]) ∧
    (p.tr = 1 → UnitWrites s o k b b [.elem (b.at k) (convertElem a.fmt b.fmt (x k) p.rm (engBits p 1 k) false).1]) ∧
    (p.tr = 2 → b.fmt ≠ 5 →
      let r := e8Block b.fmt p.rm ((List.range sized).map (fun j => some (fDecode a.fmt (x (at_ + j)), engBits p 1 (at_ + j))))
      UnitWrites s o k b b ((List.range sized).map (fun j => UW.elem (b.at (into + j)) ((r.1.getD j none).getD (0, 0)).1) ++
        [.elem (b.at (into + 32)) r.2.1])) ∧
    (p.tr = 2 → b.fmt = 5 → UnitWrites s o k b b [.raw (recOff b k) (qc4Group p.rm
      ((List.range 16384).map (fun j => fDecode a.fmt (x (16384 * k + j)))) (fun j => engBits p 1 (16384 * k + j))).1]) ∧
    (p.tr = 3 → a.fmt ≠ 5 →
      let scale := x (coded + 32)
      let code := fDecode a.fmt (x (coded + k % b.ext.headD 1 % 32))
      (scale = 0xFF → UnitWrites s o k b b [.elem (b.at k) (defaultNan b.fmt)]) ∧
      (scale ≠ 0xFF → ∀ sg m e, code = .fin sg m e →
        UnitWrites s o k b b [.elem (b.at k) (fConvert b.fmt (.fin sg m (e + scale - 127)) 0 0 false).1]) ∧
      (scale ≠ 0xFF → (∀ sg m e, code ≠ .fin sg m e) →
        UnitWrites s o k b b [.elem (b.at k) (fConvert b.fmt code 0 0 false).1])) ∧
    (p.tr = 3 → a.fmt = 5 →
      let byte := fun (j : Nat) => (s.byteOf a (recOff a (k / 16384) + (j : Int))).toNat
      let j := k % 16384
      UnitWrites s o k b b [.elem (b.at k) (qc4Decode b.fmt (byte 0 + byte 1 * 2 ^ 8 + byte 2 * 2 ^ 16 + byte 3 * 2 ^ 24)
        (byte (4 + j / 64)) (byte (260 + j / 2) / (if j % 2 = 0 then 1 else 16) % 16) false).1]) ∧
    (p.tr = 4 →
      let ws := (List.range (min 32 (a.count - 32 * k))).map (fun j => x (32 * k + j))
      let record := (List.range ws.length).foldl (fun m j => if ws.getD j 0 ≠ 0 then m + 2 ^ j else m) 0 :: ws.filter (· ≠ 0)
      UnitWrites s o k b b ((List.range record.length).map (fun j =>
        UW.elem (b.at (p.acc.getD 1 0 + j)) (record.getD j 0)))) ∧
    (p.tr = 5 →
      let m := if k % 32 = 0 then (if pos < a.count then x pos else 0) else p.acc.getD 4 0
      let ones := ((List.range 32).filter (fun i => m.testBit i)).length
      let bad := k % 32 = 0 ∧ (a.count ≤ pos ∨ m / 2 ^ min 32 (b.count - k) ≠ 0 ∨ a.count < pos + 1 + ones)
      (¬bad → UnitWrites s o k b b [.elem (b.at k)
        (if m.testBit (k % 32) then x (if k % 32 = 0 then pos + 1 else pos) else 0)]) ∧
      (bad → p.flt = none → UnitWrites s o k b b [] ∧ ∃ q f, tfind (applyAll (applyUnit o k true s) s).ops o = some q ∧
        q.flt = some f ∧ f.cause = 0x0A)) ∧
    (p.tr = 6 → UnitWrites s o k b b [.elem (b.at (k / a.ext.getD 0 1 + a.ext.getD 1 1 * (k % a.ext.getD 0 1))) (x k)]) ∧
    (p.tr = 8 → p.repl = [] → rtComps p.rtn = 1 →
      let r := rtApply ⟨false, p.enb, false⟩ p.rtn [x k]
      (r.why = 0 → UnitWrites s o k b b [.elem (b.at k) (r.q.getD 0 0)]) ∧ (r.why ≠ 0 → UnitWrites s o k b b []))) ∧
  (p.st = .running → p.reqs = 0 → p.outs = [] → p.gather = [] → p.busy = none → p.flt = none → p.fin ≤ s.cycle →
    (∀ b ∈ p.boxes, b.tier = 1) → p.boxes ≠ [] →
    let v := p.view s
    let u := applyAll (moveUnits o (p.total - p.next) v) v
    ∀ q, tfind u.ops o = some q → q.flt = none → q.bad = none →
      (p.kind = .gath → Leaves (.gathCompletion o) s (fun t => SameMem u t ∧ tfind t.ops o = none)) ∧
      (p.kind = .scac → Leaves (.scacCompletion o) s (fun t => SameMem u t ∧ tfind t.ops o = none)) ∧
      ((p.kind = .fold ∨ p.kind = .scan ∨ p.kind = .zip) → Leaves (.routineOpCompletion o) s (fun t => SameMem u t ∧
        tfind t.ops o = none)) ∧
      (p.kind = .cpy → p.phase = 5 → Leaves (.cpyCompletion o) s (fun t => SameMem u t ∧ tfind t.ops o = none))) ∧
  (∀ n, unitReady s p = true → let u := applyAll (applyUnit o p.next true s) s
    applyAll (moveUnits o (n + 1) s) s = applyAll (moveUnits o n u) u)

/-- What SCAC, FOLD, SCAN and ZIP write, between scratchpads: unit k writes its elements and no other byte. xchg and cas give
each position its old value; add, max, min and a routine merge the duplicates of a window in index order and then update each
home once; .bin sums each home's values at once (R245). FOLD gives the value of each fiber, SCAN its prefixes, with the carry
on the left, ZIP the routine's value of each pair of elements (R190, R192, R197, R200); where no application faults. -/
def Obligations.CombiningOperationsWrite : Prop := ∀ (s : State) (o k : Nat) (p : Op), tfind s.ops o = some p →
  s.memOk = true → s.still → p.skip = 0 → p.repl = [] → (∀ b ∈ p.boxes, b.tier = 1) →
  let op := p.par.getD 0 0
  let serial := p.par.getD 1 0 == 1
  let c := p.comps
  let comps := fun (b : Box) (f i : Nat) => (List.range c).map (fun j =>
    s.elemAt b (b.atC (fiberCoords op (c == 2) b.ext 0 f i j)))
  let puts := fun (b : Box) (f i : Nat) (v : List Nat) => (List.range c).map (fun j =>
    UW.elem (b.atC (fiberCoords op (c == 2) b.ext 0 f i j)) (v.getD j 0))
  let g := fun (x y : List Nat) => (rtApply (rtEnv p) p.rtn (x ++ y)).q
  let clean := ∀ x y, (rtApply (rtEnv p) p.rtn (x ++ y)).why = 0
  (p.kind = .scac → ∀ h i v, p.boxes.take 3 = [h, i, v] →
    let hit := fun (j : Nat) => h.linear (sextOf 32 (s.elemAt i (i.at j)))
    let val := fun (j : Nat) => s.elemAt v (v.at j)
    (∀ x e r, (op = 3 ∨ op = 4) → p.par.getD 1 0 ≠ 1 → p.boxes = [h, i, v, x] → hit k = .elem e → e ≠ noHome → x.linear k = .elem r →
      let old := s.elemAt h e
      UnitWrites s o k h x [.elem e (if op = 3 then val k else if old = val (2 * k) then val (2 * k + 1) else old),
        .elem2 r old]) ∧
    (∀ x r, (op = 3 ∨ op = 4) → p.par.getD 1 0 ≠ 1 → p.boxes = [h, i, v, x] → hit k = .zero → x.linear k = .elem r →
      UnitWrites s o k h x [.elem2 r 0]) ∧
    (p.boxes = [h, i, v] → op ≤ 2 → p.par.getD 1 0 ≠ 1 → p.acc = [] →
      let pos := (List.range (min 64 (i.count - 64 * k))).map (fun j => 64 * k + j)
      (∀ j ∈ pos, hit j ≠ .fault) → ∃ l, UnitReads s o (65 * k) (encWin l) ∧
        l.map (·.1) = (pos.filterMap (fun j => match hit j with
          | .elem e => some e
          | _ => none)).eraseDups ∧
        ∀ e y n q, (e, y, n, q) ∈ l → ∃ r, pos.filter (fun j => hit j = .elem e) = q :: r ∧ n = r.length + 1 ∧
          y = r.foldl (fun u j => (combine op h.fmt u (val j)).1) (val q)) ∧
    (p.boxes = [h, i, v] → p.par.getD 1 0 ≠ 1 → ∀ j e x n q, k % 65 = j + 1 → (decWin p.acc)[j]? = some (e, x, n, q) →
      (op ≤ 2 → UnitWrites s o k h h [.elem e (combine op h.fmt (s.elemAt h e) x).1]) ∧
      (op = 5 → let r := rtApply ⟨false, p.enb, false⟩ p.rtn [s.elemAt h e, x]
        r.why = 0 → UnitWrites s o k h h [.elem e (r.q.headD 0)])) ∧
    (p.boxes = [h, i, v] → p.par.getD 1 0 = 1 → (∀ y ∈ decWin p.acc, y.1 ≠ noHome) →
      let homes := ((decWin p.acc).map (·.1)).eraseDups
      (k < i.count → ∀ e, hit k = .elem e →
        UnitReads s o k (p.acc ++ [encIdx e, if op = 4 then val (2 * k) else val k, 0, k])) ∧
      (∀ j e, k = i.count + j → homes[j]? = some e → UnitWrites s o k h h [.elem e (binSum (fDecode 0 (s.elemAt h e) ::
        ((decWin p.acc).filter (fun y => y.1 = e)).map (fun y => fDecode v.fmt y.2.1))).1]))) ∧
  (p.kind = .fold → ∀ b a, p.boxes = [b, a] →
    let n := a.ext.getD op 1
    let f := k / (n + 1)
    let i := k % (n + 1)
    (i < n → UnitReads s o k (p.acc ++ comps a f i)) ∧
    (i = n → p.par.getD 2 0 = 1 → UnitWrites s o k b b (puts b f 0 [(binSum (p.acc.map (fDecode a.fmt))).1])) ∧
    (i = n → p.par.getD 2 0 ≠ 1 → clean → UnitWrites s o k b b (puts b f 0 (valueOf serial g (chunk c n p.acc))))) ∧
  (p.kind = .scan → ∀ b a cb, p.boxes.take 2 = [b, a] → p.boxes.getD 2 b = cb → clean →
    let n := a.ext.getD op 1
    let m := fiberCount a.ext op (c == 2)
    let carry := p.par.getD 3 0 == 1
    let base := if carry then c * min m (k / (2 * n)) else 0
    let cur := p.acc.drop base
    let xs := chunk c n (if carry then cur.drop c else cur)
    let withCarry := fun (l : List (List Nat)) => if carry then (if l = [] then cur.take c else
        if serial then l.foldl g (cur.take c) else g (cur.take c) (valueOf false g l))
      else if l = [] then rtIdent p.rtn else valueOf serial g l
    let prefix_ := fun (j : Nat) => withCarry (xs.take (if p.par.getD 2 0 = 1 then j else j + 1))
    0 < n → p.boxes.length = (if carry then 3 else 2) →
    (k < m * (2 * n) →
      let f := k / (2 * n)
      let i := k % (2 * n)
      (i < n → UnitReads s o k (p.acc ++ (if i = 0 ∧ carry = true then comps cb f 0 else []) ++ comps a f i)) ∧
      (i = n → UnitWrites s o k b cb (puts b f 0 (prefix_ 0)) ∧
        ∃ q, tfind (applyAll (applyUnit o k true s) s).ops o = some q ∧ q.acc = p.acc.take base ++
          (if carry then withCarry xs else []) ++ (if n = 1 then [] else ((List.range n).map prefix_).flatten)) ∧
      (n < i → UnitWrites s o k b cb (puts b f (i - n)
        (((p.acc.drop (if carry then base + c else base)).drop (c * (i - n))).take c)))) ∧
    (m * (2 * n) ≤ k →
      let f := k - m * (2 * n)
      UnitWrites s o k b cb ((List.range c).map (fun j =>
        UW.elem2 (cb.atC (fiberCoords op (c == 2) cb.ext 0 f 0 j)) (p.acc.getD (c * f + j) 0))))) ∧
  (p.kind = .zip → ∀ d a, p.boxes.take 2 = [d, a] →
    let e := a.count / c
    let two := p.boxes.length == 3
    let w := if two then 2 * c else c
    let part := fun (b : Box) => (List.range c).map (fun j => s.elemAt b (b.at (c * k + j)))
    (k < e → UnitReads s o k (p.acc ++ part a ++ (if two then part (p.boxes.getD 2 d) else []))) ∧
    (e ≤ k → let r := rtApply (rtEnv p) p.rtn ((p.acc.drop (w * (k - e))).take w)
      r.why = 0 → UnitWrites s o k d d ((List.range c).map (fun j => UW.elem (d.at (c * (k - e) + j)) (r.q.getD j 0)))))

/-- A far request waits at its station in order of arrival, a full queue refuses it with a fault, and a served one is
performed: a write's bytes land and no others, in the back half of a window whose front they were sent to, and a read's
bytes come back; those of a task in a trap wait in its image (R23, R228, R233, R268, R269, R367, R415). One to sealed host
memory is performed at the hub, where every unit it lies in must open (R356, R359). That a write sent to a window's front
half before a swap lands in the half that is then the back is the model's choice (DEDUCED, log 90). -/
def Obligations.FarRequestEvents : Prop := ∀ (s : State) (r : Nat) (q : Req), tfind s.reqs r = some q → q.op = none →
  let v := q.vault
  let arrived := q.st = 1 ∧ q.arrive ≤ s.cycle
  let opened := fun (j : Nat) => t4Open s (q.sealed.getD 0 0) (q.sealed.getD 1 0) (q.sealed.getD 4 0) (q.sealed.getD 3 0) (q.unit j).1
  (arrived → q.sealed = [] → vaultFenced s v = false → (s.vault v).waiting.length < 256 →
    Leaves (.farRequestArrival r) s (fun t => SameAll s t ∧ (t.vault v).waiting = (s.vault v).waiting ++ [r])) ∧
  (arrived → q.sealed = [] → vaultFenced s v = false → 256 ≤ (s.vault v).waiting.length →
    (s.core q.core).task = some q.task → Leaves (.farRequestArrival r) s (fun t => SameAll s t ∧ tfind t.reqs r = none ∧
      ∃ d ∈ (t.core q.core).due, d.flt.cause = 0x10)) ∧
  (arrived → q.sealed ≠ [] → q.kind = 0 → (∀ j, j < q.len → opened j ≠ none) →
    Leaves (.farRequestArrival r) s (fun t => SameAll s t ∧ ∃ z, tfind t.reqs r = some z ∧ z.st = 3 ∧
      z.data = (List.range q.len).map (fun j => ((opened j).getD []).getD (q.unit j).2 0) ∧
      ⟨s.cycle + q.way s, 8, .farLdReply r⟩ ∈ t.agenda)) ∧
  (arrived → q.sealed ≠ [] → q.kind = 1 → (∀ j, j < q.len → opened j ≠ none) →
    Leaves (.farRequestArrival r) s (fun t => SameRegs s t ∧ SameSys s t ∧ tfind t.reqs r = none ∧
      ∀ a, memGet (t.mem .spad) a = memGet (s.mem .spad) a)) ∧
  (arrived → q.sealed ≠ [] → (∃ j, j < q.len ∧ opened j = none) → (s.core q.core).task = some q.task →
    Leaves (.farRequestArrival r) s (fun t => SameMem s t ∧ SameRegs s t ∧ tfind t.reqs r = none ∧
      ∃ d ∈ (t.core q.core).due, d.flt.cause = 0x22)) ∧
  (∀ pa ra pc, (s.vault v).serve = some (r, pa, ra, pc) → pc / 2 ≤ s.cycle → s.memOk = true → q.kind = 1 →
    let key := if q.page = 4 then backKey s (vkey v q.addr) else vkey v q.addr
    Leaves (.foreignRequestService v) s (fun t => SameRegs s t ∧ tfind t.reqs r = none ∧
      t.bytes .dram key q.data.length = q.data ∧
      ∀ sp a, (sp ≠ .dram ∨ a < key ∨ key + q.data.length ≤ a) → memGet (t.mem sp) a = memGet (s.mem sp) a)) ∧
  (∀ pa ra pc, (s.vault v).serve = some (r, pa, ra, pc) → pc / 2 ≤ s.cycle → q.kind = 0 →
    Leaves (.foreignRequestService v) s (fun t => SameAll s t ∧
      ∃ z, tfind t.reqs r = some z ∧ z.st = 3 ∧ z.data = s.bytes .dram (vkey v q.addr) q.len)) ∧
  (q.st = 3 → (s.core q.core).task = some q.task → (s.core q.core).run ≠ .fenced → q.reg < 64 → q.slot < 8 →
    let last := tget (0, 0) (s.core q.core).latAt q.slot
    let held := (s.core q.core).sup = true ∧ q.sup = false
    (∀ img, held → (s.core q.core).img = some img → Leaves (.farLdReply r) s (fun t => SameMem s t ∧ SameRegs s t ∧
      tfind t.reqs r = none ∧ ∃ img', (t.core q.core).img = some img' ∧
        (q.nb = true → img'.pend = img.pend) ∧ (q.nb = false → ∃ p, img'.pend = img.pend ++ [p] ∧
          p.vis = s.cycle - img.since ∧ p.lat = none ∧ p.flt = none ∧
          p.wr = [.x q.reg (if q.sgn then BitVec.ofInt 64 (sextOf q.size (natOf q.data)) else BitVec.ofNat 64 (natOf q.data))]))) ∧
    (¬(held ∧ (s.core q.core).img.isSome = true) → Leaves (.farLdReply r) s (fun t => SameMem s t ∧ tfind t.reqs r = none ∧
      (let w := if q.sgn then BitVec.ofInt 64 (sextOf q.size (natOf q.data)) else BitVec.ofNat 64 (natOf q.data)
       (¬(last.1 = s.cycle ∧ q.issue < last.2) → t.l q.core q.slot = BitVec.setWidth 1024 w) ∧
       (last.1 = s.cycle → q.issue < last.2 → t.l q.core q.slot = s.l q.core q.slot) ∧
       ∀ m j, m < 164 → j < 64 → t.x m j =
         if m = q.core ∧ j = q.reg ∧ q.nb = false ∧ j ≠ 0 then w else s.x m j))))

/-! ### The signal box (R250 to R275) -/

/-- The bank and column commands of a vault program, where the interlock passes them: the bank's new state at the command's
real CK, a read's 64 bytes on their way to the owner's platform, a write's 64 bytes in the open row; the program goes on
behind the command (R254, R258, R259, R262, R271, R272). A default-generator program's commands act on the banks alone and
are never refused (R275); which commands such a program has is the model's choice (DESIGN CHOICE, log 23).
The commands that only move the program: WAIT, LOOP, JUMP and START set the next command and the CK its gap counts from,
OPEN opens a window of N CK, TAGW sends a stamp, HALT closes the program (R260, R268, R273, R255). -/
def Obligations.VaultCommands : Prop :=
  (∀ (s : State) (p : VProg) (g pc bg bk row col pl u : Nat), s.memOk = true →
  let v := s.iss.vault
  let t := s.vault v
  let ck := p.cur.pos + g
  let r := ckReal s ck
  let k := bkey pc bg bk
  let passes := fun (i : Instr) (P : State → Prop) => Leaves i s (fun u => SameRegs s u ∧ SameSys s u ∧ P u ∧
    ∃ q, (u.vault v).prog = some q ∧ q.issued = p.issued + 1 ∧ q.cur = ⟨p.cur.idx + 1, ck, p.cur.lc, p.cur.li⟩)
  let data := match p.units with
    | b :: _ => b
    | [] => memGets s.spad (skey p.req.owner (unitByte (platOf s p pl) (u + p.req.uoff))) 64
  let at_ := vkey v (colAddr t pc bg bk col)
  let wrote := fun (u : State) => u.bytes .dram at_ data.length = data ∧ SameMem { s with dram := memSets s.dram at_ data } u
  let readOut := fun (u : State) => SameMem s u ∧ ∃ x, tfind u.pkts s.nid = some x ∧ x.data = s.bytes .dram at_ 64 ∧
    x.dst = p.req.owner ∧ x.addr = unitByte (platOf s p pl) (row + p.req.uoff)
  let generates := fun (i : Instr) (P : Bank → Prop) (on : List Nat) => Leaves i s (fun u => SameAll s u ∧
    (∀ m, u.core m = s.core m) ∧ (∀ j ∈ on, P ((u.vault v).bank j)) ∧ ∃ q, (u.vault v).prog = some q ∧ q.issued = p.issued + 1)
  t.prog = some p → pc < 4 → bg < 4 → bk < 4 →
  (p.req.kind = 1 → generates (.act g pc bg bk row) (fun b => b.row = some row) [k] ∧
    generates (.rda g pc bg bk col pl u) (fun b => b.row = none) [k] ∧
    generates (.wra g pc bg bk col pl u) (fun b => b.row = none) [k]) ∧
  (p.req.kind ≠ 1 →
  ((t.bank k).row = none → row + p.req.roff < p.req.nrows → violated r (actCons t k) = none →
    passes (.act g pc bg bk row) (fun u => SameMem s u ∧ ((u.vault v).bank k).row = some (p.req.row0 + p.req.roff + row) ∧
      ((u.vault v).bank k).act = r + 1)) ∧
  ((t.bank k).row.isSome = true → p.req.rd = true → platBad s p pl = false → violated r (colCons t k false) = none →
    passes (.rd g pc bg bk col pl row) (fun u => readOut u ∧ ((u.vault v).bank k).row = (t.bank k).row) ∧
    passes (.rda g pc bg bk col pl row) (fun u => readOut u ∧ ((u.vault v).bank k).row = none)) ∧
  ((t.bank k).row.isSome = true → p.req.wr = true → platBad s p pl = false → violated r (colCons t k true) = none →
    passes (.wr g pc bg bk col pl u) (fun z => wrote z ∧ ((z.vault v).bank k).row = (t.bank k).row) ∧
    passes (.wra g pc bg bk col pl u) (fun z => wrote z ∧ ((z.vault v).bank k).row = none)) ∧
  (violated r (preCons t k) = none → passes (.pre g pc bg bk) (fun u => SameMem s u ∧ ((u.vault v).bank k).row = none)) ∧
  (violated r ((banksOf pc).flatMap (preCons t)) = none → passes (.prea g pc) (fun u => SameMem s u ∧
    ∀ j ∈ banksOf pc, ((u.vault v).bank j).row = none)) ∧
  ((t.bank k).row = none → -8 < (t.bank k).debt → violated r ((2, (t.bank k).pre, 24) :: rrdCons t pc bg ++ refCons t k) = none →
    passes (.refpb g pc bg bk) (fun u => SameMem s u ∧ ((u.vault v).bank k).debt = (t.bank k).debt - 1)) ∧
  (t.anyOpen (banksOf pc) = false → (∀ j ∈ banksOf pc, -8 < (t.bank j).debt) →
    violated r ((banksOf pc).flatMap (fun j => (2, (t.bank j).pre, 24) :: refCons t j)) = none →
    passes (.refab g pc) (fun u => SameMem s u ∧ ∀ j ∈ banksOf pc, ((u.vault v).bank j).debt = (t.bank j).debt - 1)))) ∧
  (∀ (s : State) (p : VProg) (g n dist cnt tgt dt pl u : Nat),
  let v := s.iss.vault
  let t := s.vault v
  let ck := p.cur.pos + g
  let c := p.cur
  let passes := fun (i : Instr) (w : VCur) (P : State → Prop) => Leaves i s (fun u => SameAll s u ∧ P u ∧
    ∃ q, (u.vault v).prog = some q ∧ q.issued = p.issued + 1 ∧ q.cur = w)
  let always := fun (_ : State) => True
  t.prog = some p → p.req.kind ≠ 1 →
  passes (.wait g n) ⟨c.idx + 1, ck + n, c.lc, c.li⟩ always ∧
  passes (.start g dt) ⟨c.idx + 1, max ck (2 * tickCycle s (p.req.tbase + dt)), c.lc, c.li⟩ always ∧
  ((vaultWord s p.req tgt).isSome = true → passes (.jump g tgt) ⟨tgt, ck, c.lc, c.li⟩ always) ∧
  (dist ≤ c.idx → c.lc = 0 → passes (.loop g dist cnt)
    (if cnt = 0 then ⟨c.idx + 1, ck, 0, c.idx⟩ else ⟨c.idx - dist, ck, cnt, c.idx⟩) always) ∧
  (dist ≤ c.idx → c.lc ≠ 0 → c.li = c.idx → passes (.loop g dist cnt)
    (if c.lc = 1 then ⟨c.idx + 1, ck, 0, c.idx⟩ else ⟨c.idx - dist, ck, c.lc - 1, c.idx⟩) always) ∧
  (0 < n → t.anyOpen (List.range 64) = false → passes (.vopen g n) ⟨c.idx + 1, ck + n, c.lc, c.li⟩
    (fun u => (u.vault v).window = some (ck, ck + n))) ∧
  (platBad s p pl = false → passes (.tagw g pl u) ⟨c.idx + 1, ck, c.lc, c.li⟩ (fun z => ∃ x, tfind z.pkts s.nid = some x ∧
    x.data = [] ∧ x.dst = p.req.owner ∧ x.addr = unitByte (platOf s p pl) (u + p.req.uoff) ∧
    x.tag = some ((platOf s p pl).toNat / 2 ^ 32 % 2 ^ 16))) ∧
  (p.ends = none → Leaves (.vaultHalt g) s (fun u => SameAll s u ∧ (u.vault v).window = none ∧
    (∀ k, k < 64 → ((u.vault v).bank k).row = none) ∧ ∃ q, (u.vault v).prog = some q ∧ q.ends.isSome = true)))

/-- The interlock: a command before its timing distance, on a bank in the wrong state, on a row outside the box, or without
the right does not act; the program ends and its task has an interlock fault (R263, R264). -/
def Obligations.InterlockRefuses : Prop := ∀ (s : State) (p : VProg) (g pc bg bk row col pl u : Nat),
  let v := s.iss.vault
  let t := s.vault v
  let r := ckReal s (p.cur.pos + g)
  let k := bkey pc bg bk
  let refuses := fun (i : Instr) => Leaves i s (fun z => SameAll s z ∧ (∃ q, (z.vault v).prog = some q ∧ q.ends.isSome = true) ∧
    ∃ d ∈ (z.core p.req.issuer).due, d.flt.cause = 0x11)
  t.prog = some p → p.req.kind ≠ 1 → p.ends = none → (s.core p.req.issuer).task = some p.req.task →
  ((t.bank k).row.isSome = true ∨ p.req.nrows ≤ row + p.req.roff ∨ (violated r (actCons t k)).isSome = true →
    refuses (.act g pc bg bk row)) ∧
  ((t.bank k).row = none ∨ p.req.rd = false ∨ platBad s p pl = true ∨ (violated r (colCons t k false)).isSome = true →
    refuses (.rd g pc bg bk col pl u) ∧ refuses (.rda g pc bg bk col pl u)) ∧
  ((t.bank k).row = none ∨ p.req.wr = false ∨ platBad s p pl = true ∨ (violated r (colCons t k true)).isSome = true →
    refuses (.wr g pc bg bk col pl u) ∧ refuses (.wra g pc bg bk col pl u)) ∧
  ((violated r (preCons t k)).isSome = true → refuses (.pre g pc bg bk)) ∧
  ((t.bank k).row.isSome = true ∨ (t.bank k).debt ≤ -8 → refuses (.refpb g pc bg bk)) ∧
  (t.anyOpen (banksOf pc) = true → refuses (.refab g pc)) ∧
  (platBad s p pl = true → refuses (.tagw g pl u)) ∧
  refuses (.illegalCommand v)

/-- Vault programs start in order on a settled box, read their WR units ahead, stop at a VSTOP, and end; deliveries into a
platform write the owner's scratchpad, then its tag (R253 to R255, R271, R272, R403). That a VSTOP leaves default-generator
programs alone is the model's choice (DEDUCED, log 91).
Refresh: each period every bank of a pseudo-channel gains one debt, up to 8; a forced or inserted REFAB takes one from
each (R265 to R267). When an inserted REFAB comes first, and that the debt stops at −8, are the model's choices (DEDUCED, log
36). -/
def Obligations.VaultEventsComplete : Prop :=
  (∀ (s : State) (v n o : Nat),
  let t := s.vault v
  (∀ p b r, tfind s.ops o = some p → p.kind = .vrun → p.st = .waiting → p.boxes = b :: r → b.home = v →
    p.behindHeld s = false → vaultOff s v = false → t.queue.length < 4 → Leaves (.vrunArrival o) s (fun z => SameAll s z ∧
      ∃ q r, (z.vault v).queue = t.queue ++ [q] ++ r ∧ (∀ x ∈ r, x ∈ t.gens) ∧ q.op = o ∧ q.issuer = p.core ∧ q.row0 = b.org ∧ q.nrows = b.rows ∧
        q.rd = b.rd ∧ q.wr = b.wr)) ∧
  (∀ q rest, t.prog = none → t.serve = none → t.queue = q :: rest → (∀ pc, pc < 4 → (t.chan pc).forced = false) →
    aheadOfStart s t = [] → t.anyOpen (List.range 64) = false → settleCycle s t ≤ s.cycle → Leaves (.vaultProgramStart v) s (fun z => SameAll s z ∧
      (∃ r, (z.vault v).queue = rest ++ r ∧ ∀ x ∈ r, x ∈ t.gens) ∧
      ∃ p, (z.vault v).prog = some p ∧ p.req = q ∧ p.cur.idx = 0 ∧ p.issued = 0 ∧
        p.cur.pos = 2 * max (q.issue + 6 + coreVault q.issuer v) s.cycle)) ∧
  (∀ p, n < 4096 → t.prog = some p → p.req.ctx = n / 256 → p.req.kind ≠ 1 → p.ends = none → t.window = none →
    Leaves (.vstopArrival v n) s (fun z => SameAll s z ∧ (∀ q ∈ (z.vault v).queue, q.ctx ≠ n / 256 ∨ q.kind = 1 ∨ q ∈ t.gens) ∧
      ∃ q, (z.vault v).prog = some q ∧ q.ends.isSome = true)) ∧
  (∀ p e, t.prog = some p → p.ends = some e → e ≤ s.cycle → Leaves (.vaultProgramEnd v) s (fun z => SameAll s z ∧
    (z.vault v).prog = none ∧ (z.vault v).window = none ∧ (z.vault v).settled = s.cycle + 1)) ∧
  (∀ p c, t.prog = some p → aheadNext s p.req 256 p.ahead = some (none, c) → Leaves (.wrUnitRead v) s (fun z => SameAll s z ∧
    (z.vault v).prog = some { p with ahead := c })) ∧
  (∀ p ck pl u c, t.prog = some p → aheadNext s p.req 256 p.ahead = some (some (ck, pl, u), c) →
    let due := ck / 2 - 4 - coreVault p.req.owner v
    let key := skey p.req.owner (unitByte (platOf s p pl) (u + p.req.uoff))
    due ≤ s.cycle → Leaves (.wrUnitRead v) s (fun z => SameAll s z ∧ ∃ q d, (z.vault v).prog = some q ∧ q.ahead = c ∧
      q.units = p.units ++ [d] ∧ d = (List.range 64).map (fun j => s.pastByte (key + j) due) ∧
      ((∀ m, (s.core m).before = []) → d = s.bytes .spad key 64))) ∧
  (∀ k, tfind s.pkts o = some k → k.kind = 3 → k.arrive ≤ s.cycle →
    (k.data ≠ [] → s.memOk = true → Leaves (.platformDelivery o) s (fun z => SameRegs s z ∧ SameSys s z ∧
      z.bytes .spad (skey k.dst k.addr) k.data.length = k.data ∧
      SameMem { s with spad := memSets s.spad (skey k.dst k.addr) k.data } z)) ∧
    (∀ tb, k.data = [] → k.tag = some tb → Leaves (.platformDelivery o) s (fun z => SameAll s z ∧ tfind z.pkts o = none ∧
      z.tag k.dst (k.addr / 1024) = BitVec.ofNat 16 tb)))) ∧
  (∀ (s : State) (v pc : Nat), pc < 4 →
  let t := s.vault v
  let r := refabAt s t pc
  ((t.chan pc).accrue ≤ ckReal s (2 * s.cycle + 1) → Leaves (.refreshAccrual v pc) s (fun z => SameAll s z ∧
    (∀ j ∈ banksOf pc, ((z.vault v).bank j).debt = min ((t.bank j).debt + 1) 8) ∧
    ((z.vault v).chan pc).accrue = (t.chan pc).accrue + 6240)) ∧
  ((t.chan pc).forced = true → t.serve = none → t.anyOpen (banksOf pc) = false → r ≤ ckReal s (2 * s.cycle + 1) → Leaves (.forcedRefresh v pc) s (fun z =>
    SameAll s z ∧ ∀ j ∈ banksOf pc, ((z.vault v).bank j).debt = max ((t.bank j).debt - 1) (-8))) ∧
  (t.prog = none → t.queue = [] → t.serve = none → (t.chan pc).forced = false →
    (∃ j ∈ banksOf pc, 1 ≤ (t.bank j).debt) → t.anyOpen (banksOf pc) = false → r ≤ ckReal s (2 * s.cycle + 1) →
    Leaves (.insertedRefresh v pc) s (fun z => SameAll s z ∧
      ∀ j ∈ banksOf pc, ((z.vault v).bank j).debt = max ((t.bank j).debt - 1) (-8))))

/-! ### The X class, barriers and links (R305 to R331) -/

/-- The communication slot and SYNCD: a SEND's bytes leave as a load of its cycle reads them and
arrive at R315's cycle, or later where an exchange packet issued earlier asks for a link in the same cycle, and behind a fence it
waits (R232); a RECV of the arrival's cycle
takes them, RECVOP reads two cycles later and combines three later, lane by lane, its bytes landing then as a store's, TTARM arms its entries, LSEND and COLL queue, XSTAT
reads, SYNCD holds issue (R15, R306, R315, R320, R325, R330, R331). -/
def Obligations.ExchangeOperations : Prop := ∀ (s : State) (ms peer b xc op rt k d sel port xb tt bd bs bc sc bin rm l : Nat)
    (bx by_ bz : Box) (pk : Pkt), s.b s.me b = some bx → s.b s.me bd = some bx → s.b s.me bs = some by_ → s.b s.me bc = some bz →
  let n := s.me
  let p := peerOf s ms peer
  let least := if ms = 0 then s.cycle + 6 else s.cycle + 8 + 2 * hops (coreStn n) (coreStn p)
  let a := (sendArrival s ms p).1
  (checkOf (.send ms peer b xc) s = none → Leaves (.send ms peer b xc) s (fun t => SameAll s t ∧
    ∃ x, tfind t.pkts s.nid = some x ∧ x.src = n ∧ x.dst = p ∧
      x.data = (laneHits s bx xc 2).flatMap (fun e => bytesOf bx.esize (hitVal s bx e.2)) ∧
      (forkBlocked s n = false → x.arrive = a ∧ ⟨a, 7, .exchangeArrival s.nid⟩ ∈ t.agenda) ∧
      (forkBlocked s n = true → (s.upsets = [] → t.agenda = s.agenda) ∧ s.nid ∈ (t.core n).heldPkt))) ∧
  (least ≤ a ∧ (ms = 0 ∨ (∀ e ∈ s.pkts, meets s n p e.2 = (false, false)) → a = least) ∧
    (ms ≠ 0 → (∃ e ∈ s.pkts, (meets s n p e.2).2 = true) → least < a)) ∧
  (checkOf (.recv ms peer b xc) s = none → arrivalFor s ms peer = some (k, pk) → Leaves (.recv ms peer b xc) s (fun t =>
    SameAll s t ∧ tfind t.pkts k = none ∧ ∃ q, (t.core n).pend = (s.core n).pend ++ [q] ∧ PlainResult s 2
      (storeWrs s bx (laneHits s bx xc 2) (lanesOf (tySize bx.fmt) (1024 / tySize bx.fmt) (natOf pk.data))) none q)) ∧
  (checkOf (.recvop ms peer b xc op rt) s = none → arrivalFor s ms peer = some (k, pk) →
    Leaves (.recvop ms peer b xc op rt) s (fun t => SameAll s t ∧ tfind t.pkts k = none ∧
      ∃ q, (t.core n).pend = (s.core n).pend ++ [q] ∧ q.vis = s.cycle + 2 ∧ q.wr = [] ∧ q.lat = none ∧ q.flt = none ∧
        q.again = .recvop op rt bx.fmt (lanesOf (tySize bx.fmt) (1024 / tySize bx.fmt) (natOf pk.data)) (laneKeys s bx xc) []
          (routineOf s (s.core n).ctx rt))) ∧
  (∀ m q f lanes keys r, (s.core m).pend = [q] → q.vis ≤ s.cycle → q.flt = none →
    q.again = .recvop op rt f lanes keys [] r →
    let cell := fun (i : Nat) => keys.getD i 0
    let old := fun (i : Nat) => s.turnNat .spad (cell i - 1) (tySize f / 8)
    let apply := fun (u v : Nat) => rtApply ⟨false, q.flags, false⟩ r [u, v]
    let comb := fun (u v : Nat) => if op = 3 then (apply u v).q.getD 0 0 else (combine op f u v).1
    let before := fun (i : Nat) => ((List.range i).filter (fun j => cell j = cell i)).foldl (fun u j => comb u (lanes.getD j 0)) (old i)
    let bad := fun (i : Nat) => cell i ≠ 0 ∧ (if op = 3 then (apply (before i) (lanes.getD i 0)).why ≠ 0
      else (combine op f (before i) (lanes.getD i 0)).2 &&& q.flags ≠ 0)
    Leaves (.resultWriteback m) s (fun t => SameAll s t ∧ ∃ z, (t.core m).pend = [z] ∧ z.vis = s.cycle + 3 ∧
      ((∀ i, i < lanes.length → ¬bad i) → z.flt = none ∧ z.again = .rmw ∧
        ∀ w, w ∈ z.wr ↔ ∃ i, i < lanes.length ∧ cell i ≠ 0 ∧ (∀ j, i < j → j < lanes.length → cell j ≠ cell i) ∧
          w = .mem .spad (cell i - 1) (bytesOf (tySize f / 8) (comb (before i) (lanes.getD i 0)))) ∧
      ((∃ i, i < lanes.length ∧ bad i) → z.wr = [] ∧ ∃ e, z.flt = some e ∧ e.cause = if op = 3 then 8 else 5))) ∧
  (sel < 4 → (sel = 3 ∨ port = 0) → YieldsX (.xstat d sel port) s 2 d false (xstatWord s sel port)) ∧
  (scopeLevel l ≤ domLvl s n → exec (.syncd l) s = .next (s.coreTo n { s.core n with hold := .syncd (scopeLevel l) })) ∧
  (checkOf (.ttarm xb tt) s = none → Leaves (.ttarm xb tt) s (fun t => SameAll s t ∧ (t.core n).ttDone = 0 ∧
    (t.core n).ttLate = 0 ∧ (t.core n).ttMiss = 0 ∧ (t.core n).ttStray = 0 ∧
    (t.core n).tt = some ⟨(s.x n xb).toNat, (ttWords s (s.core n).ctx tt).map ttEntry, issuePos s.cycle s.slot⟩)) ∧
  (checkOf (.lsend bd bs bc) s = none → Leaves (.lsend bd bs bc) s (fun t => SameAll s t ∧
    (t.core n).lsOut = (s.core n).lsOut + 1 ∧ ∃ o, tfind t.ops s.nid = some o ∧ o.kind = .lsend ∧ o.boxes = [bx, by_, bz])) ∧
  (checkOf (.coll bd bs bc sc bin rm) s = none → Leaves (.coll bd bs bc sc bin rm) s (fun t => SameMem s t ∧ SameRegs s t ∧
    (t.core n).collQ = (s.core n).collQ + 1 ∧ tget 0 (t.core n).collSeq sc = tget 0 (s.core n).collSeq sc + 1 ∧
    ∃ o, tfind t.ops s.nid = some o ∧ o.kind = .coll ∧ o.boxes.take 2 = [bx, by_] ∧ o.st = .waiting))

/-- A complete barrier releases its members and counts one; an arrival no receive takes is a timing fault and its data is
discarded; timetable entries read units, a flit leaving as its four are read, land flits, and are marked late, missing and over
(R306, R316, R321 to R323). That an unsatisfied fence before the TTARM holds them is the model's choice (DEDUCED, log 81), and
that a flit leaves with its fourth unit another (DEDUCED, log 99). -/
def Obligations.ExchangeEvents : Prop := ∀ (s : State) (n level i k : Nat) (p : Pkt) (c : TTab) (e : TEnt),
  let w := (s.sr n srSYNCCNT).toNat
  let plat := fun (e : TEnt) => s.sr n (srPLAT0 + e.pl)
  let entry := fun (t : State) => (t.core n).tt.bind (fun c => c.ents[i]?)
  ((s.core n).hold = .syncd level → (s.core n).sup = false → level < 4 → Leaves (.barrierResume n level) s (fun t =>
    SameMem s t ∧ SameRegs s t ∧ (t.core n).hold = .none ∧
    ∀ j, j < 4 → (t.sr n srSYNCCNT).toNat / 2 ^ (16 * j) % 2 ^ 16 =
      if j = level then (w / 2 ^ (16 * j) % 2 ^ 16 + 1) % 2 ^ 16 else w / 2 ^ (16 * j) % 2 ^ 16)) ∧
  (tfind s.pkts k = some p → p.kind = 0 → p.issue < p.arrive → p.arrive ≤ s.cycle → Leaves (.exchangeArrival k) s (fun t => SameAll s t ∧
    tfind t.pkts k = none ∧ ∃ d ∈ (t.core p.dst).due, d.flt.cause = 0x1B ∧ d.flt.sub = 1 ∧ d.since = s.cycle + 1)) ∧
  ((s.core n).tt = some c → c.ents[i]? = some e →
    (let u := e.got.length / 64
     let got := e.got ++ (s.bytes .spad (skey n (unitByte (plat e) (e.u + u))) 64).map BitVec.toNat
     let flit := fun (t : State) => FlitLeaves s t e.port 1 (e.pcore + e.peer * 2 ^ 8) e.seq (u / 4) []
       (((got.drop (256 * (u / 4))).take 256).map (BitVec.ofNat 8))
     e.dirIn = false → e.mark = 0 → ttCycle s (c.tbase + e.dt + u) ≤ s.cycle →
      (fenceBlocks (s.core n) false 0 c.pos = true → Leaves (.ttOutEntry n i) s (fun t => SameAll s t ∧ entry t = some e ∧
        ⟨s.cycle + 1, 6, .ttOutEntry n i⟩ ∈ t.agenda)) ∧
      (fenceBlocks (s.core n) false 0 c.pos = false →
      (u + 1 < 4 * e.nf → Leaves (.ttOutEntry n i) s (fun t => SameMem s t ∧ SameRegs s t ∧
        entry t = some { e with got := got } ∧ (u % 4 ≠ 3 → SameAll s t) ∧ (u % 4 = 3 → flit t))) ∧
      (u + 1 = 4 * e.nf → Leaves (.ttOutEntry n i) s (fun t => SameMem s t ∧ SameRegs s t ∧
        entry t = some { e with got := [], mark := 1 } ∧ (t.core n).ttDone = (s.core n).ttDone + 1 ∧ flit t)))) ∧
    (e.dirIn = true → e.mark = 0 → c.tbase + e.dt ≤ s.ctime → Leaves (.ttEntryLate n i) s (fun t => SameAll s t ∧
      entry t = some { e with mark := 2 } ∧ (t.core n).ttLate = (s.core n).ttLate + 1)) ∧
    (e.dirIn = true → (e.mark = 0 ∨ e.mark = 2) → c.tbase + e.dt + 65536 ≤ s.ctime → Leaves (.ttEntryMissing n i) s
      (fun t => SameAll s t ∧ entry t = some { e with mark := 4 } ∧ (t.core n).ttMiss = (s.core n).ttMiss + 1))) ∧
  ((s.core n).tt = some c → (∀ e ∈ c.ents, e.mark = 1) → (s.core n).ttStray = 0 → Leaves (.ttEnd n) s (fun t =>
    SameAll s t ∧ (t.core n).tt = none ∧ (t.core n).due = (s.core n).due)) ∧
  ((s.core n).tt = some c → (∀ e ∈ c.ents, e.mark = 1 ∨ 3 ≤ e.mark) → (∃ e ∈ c.ents, e.mark = 4) → Leaves (.ttEnd n) s
    (fun t => SameAll s t ∧ (t.core n).tt = none ∧ ∃ d ∈ (t.core n).due, d.flt.cause = 0x1C)) ∧
  (tfind s.pkts k = some p → p.kind = 1 → p.dst = n → s.memOk = true → p.data.length = 256 →
    ((s.core n).tt = some ⟨c.tbase, [e], c.pos⟩ → i = 0 → e.dirIn = true → e.mark = 0 → e.pcore + e.peer * 2 ^ 8 = p.src →
      e.port = p.port → e.seq = p.seq → p.num < e.nf → e.got = [] → Leaves (.ttFlitArrival k) s (fun t => SameRegs s t ∧
        SameSys s t ∧ tfind t.pkts k = none ∧ entry t = some { e with got := [p.num], mark := if e.nf = 1 then 1 else 0 } ∧
        t.bytes .spad (skey n (unitByte (plat e) (e.u + 4 * p.num + 3))) 64 = p.data.drop 192)) ∧
    ((s.core n).tt = none → Leaves (.ttFlitArrival k) s (fun t => SameAll s t ∧ tfind t.pkts k = none ∧
      (t.core n).ttStray = min ((s.core n).ttStray + 1) 0xFFFF)))

/-- Counted sends and links: a source is read and its flits leave, each with its bytes; at its home a flit's elements are
gathered for their places, written and counted by the requests of the landing, and acknowledged, and the last one retires its
LSEND; a short-reach flit that fails its check is resent once, then dropped, its LSEND staying outstanding; a long-haul frame
that fails is counted and its flit resent; a collective's delivery ends its COLL, an enabled flag withholding it (R122); clock
messages and losses reach TSTAT and the supervisor (R307, R309, R311, R312, R325, R326, R330). That the flags of a collective's
combination are those of every member is the model's choice (DEDUCED, log 43). -/
def Obligations.LinkEvents : Prop := ∀ (s : State) (o k port t1 t2 t3 t4 : Nat) (p : Op) (x : Pkt),
  (∀ d a c, tfind s.ops o = some p → p.kind = .lsend → p.st = .running → p.fin ≤ s.cycle → p.boxes = [d, a, c] →
    let bytes := elemBytes s p a 0 a.count
    let nf := (bytes.length + 255) / 256
    let by_ := portTo s d.home
    Leaves (.lsendReadCompletion o) s (fun t => SameMem s t ∧ SameRegs s t ∧ (∃ q, tfind t.ops o = some q ∧ q.st = .done) ∧
      (∀ f, f < nf → ∃ x, tfind t.pkts (s.nid + f) = some x ∧ x.kind = 2 ∧ x.op = o ∧ x.num = f ∧ x.dst = d.home ∧
        x.boxes = [d, c] ∧ x.port = by_ ∧ x.prod = s.dev.ident + p.core * 2 ^ 20 ∧
        x.data = (bytes.drop (256 * f)).take 256 ∧
        (d.home = s.dev.ident → ∃ e ∈ t.agenda, e.ev = .lsendFlitDelivery (s.nid + f))) ∧
      (d.home ≠ s.dev.ident → s.quietPort by_ →
        ((s.port by_).mode = 1 ∨ ((s.port by_).mode = 2 ∧ (s.port by_).retry.length + nf ≤ 2 ^ 20)) →
        t.dev.outbox.length = s.dev.outbox.length + nf) ∧ (nf = 0 → ⟨s.cycle, 2, .lsendRetire o⟩ ∈ t.agenda))) ∧
  (tfind s.ops o = some p → p.kind = .lsend → p.st = .done → s.pkts = [] → (s.core p.core).task = some p.task →
    Leaves (.lsendRetire o) s (fun t => SameAll s t ∧ tfind t.ops o = none ∧
      (t.core p.core).lsOut = (s.core p.core).lsOut - 1 ∧ (t.core p.core).lsDone = (s.core p.core).lsDone + 1)) ∧
  (tfind s.pkts k = some x → x.kind = 2 → x.dst = s.dev.ident →
    let landing := s.ops.find? (fun e => e.2.kind == .land && e.2.par == [0, k])
    (landing = none → Leaves (.lsendFlitDelivery k) s (fun t => SameRegs s t ∧ tfind t.pkts k = some x ∧
      ∃ q, tfind t.ops s.nid = some q ∧ q.kind = .land ∧ q.par = [0, k] ∧
        (∀ d c, x.boxes = [d, c] → d.fmt ≠ 5 →
          let z := d.landed
          let per := 256 / d.esize
          let key := fun (j : Nat) => z.placeOff s (z.offset (z.at (per * x.num + j))) z.esize false true
          let count := min per (z.count - per * x.num)
          z.remote s = true → (∀ j, j < count → ∃ g, key j = .at_ .dram g) →
          (∀ i j, i < j → j < count → ∀ g h, key i = .at_ .dram g → key j = .at_ .dram h → g + z.esize ≤ h ∨ h + z.esize ≤ g) →
          ∀ j, j < count → ∀ g, key j = .at_ .dram g → ∀ b, b < z.esize → (x.data.drop (j * d.esize + b)).head?.isSome = true →
            tfind q.ovl (g + b) = (x.data.drop (j * d.esize + b)).head?))) ∧
    (∀ q, landing = some (o, q) → tfind s.ops o = some q → q.reqs = 0 → q.outs = [] →
      (q.phase = 0 → 1 < x.boxes.length → Leaves (.lsendFlitDelivery k) s (fun t => SameMem s t ∧ SameRegs s t ∧
        ∃ z, tfind t.ops o = some z ∧ z.phase = 1)) ∧
      (q.phase ≠ 0 ∨ x.boxes.length ≤ 1 → Leaves (.lsendFlitDelivery k) s (fun t => SameMem s t ∧ SameRegs s t ∧
        tfind t.pkts k = none ∧ tfind t.ops o = none ∧
        (x.prod % 2 ^ 20 = s.dev.ident → s.pkts = [(k, x)] → ⟨s.cycle, 2, .lsendRetire x.op⟩ ∈ t.agenda) ∧
        (x.prod % 2 ^ 20 ≠ s.dev.ident → FlitLeaves s t x.port 4 (x.prod % 2 ^ 20) x.op x.num [] []))))) ∧
  (∀ r z pa ra pc b, tfind s.reqs r = some z → r < s.nid → z.op = some o → tfind s.ops o = some p → p.kind = .land →
    p.par = [0, b] → p.refused = [] → (s.vault z.vault).serve = some (r, pa, ra, pc) → pc / 2 ≤ s.cycle → s.memOk = true →
    let at_ := vkey z.vault z.addr
    let key := if p.dst.tier = 3 then backKey s at_ else at_
    let u := applyAll (deliver (some p.task) p.dst (natOf (z.data.take 4)) (natOf (z.data.drop 4)) none s) s
    (z.kind = 1 → Leaves (.foreignRequestService z.vault) s (fun t => SameRegs s t ∧ tfind t.reqs r = none ∧
      t.bytes .dram key z.data.length = z.data ∧
      ∀ sp g, (sp ≠ .dram ∨ g < key ∨ key + z.data.length ≤ g) → memGet (t.mem sp) g = memGet (s.mem sp) g)) ∧
    (z.kind = 3 → Leaves (.foreignRequestService z.vault) s (fun t => SameMem u t ∧ tfind t.reqs r = none))) ∧
  (tfind s.pkts k = some x → x.kind = 2 → x.port = port → x.dst ≠ s.dev.ident → x.mesh = true →
    exec (.farEndAcknowledgement port k) s = .next s) ∧
  (tfind s.pkts k = some x → x.kind = 2 → x.port = port → x.dst ≠ s.dev.ident → x.mesh = false →
    Leaves (.farEndAcknowledgement port k) s (fun t => SameMem s t ∧ SameRegs s t ∧ tfind t.pkts k = none ∧
      ((s.port port).waits = [] → k ∉ (t.port port).retry))) ∧
  (tfind s.pkts k = some x → x.kind = 6 → x.port = port →
    Leaves (.farEndAcknowledgement port k) s (fun t => SameAll s t ∧ tfind t.pkts k = none)) ∧
  (tfind s.pkts k = some x → (x.kind = 6 ∨ (x.kind = 2 ∧ x.dst ≠ s.dev.ident)) → x.port = port →
    ((s.port port).mode = 1 → Leaves (.linkFlitResend port k) s (fun t => SameMem s t ∧ SameRegs s t ∧
      (t.port port).resends = (s.port port).resends + 1 ∧ (x.tries = 0 → tfind t.pkts k = some { x with tries := 1 } ∧
        t.dev.outbox.length = s.dev.outbox.length + 1) ∧ (x.tries ≠ 0 → x.kind = 6 → tfind t.pkts k = none) ∧
      (x.tries ≠ 0 → x.kind = 2 → tfind t.pkts k = some { x with mesh := true } ∧ (evLink, port) ∈ t.dev.supEvents))) ∧
    ((s.port port).mode = 2 → s.quietPort port → Leaves (.frameRetry port k) s (fun t => SameMem s t ∧ SameRegs s t ∧
      (t.port port).resends = (s.port port).resends + 1 ∧ tfind t.pkts k = some { x with tries := x.tries + 1 } ∧
      t.dev.outbox.length = s.dev.outbox.length + 1))) ∧
  ((s.port port).mode ≠ 1 → exec (.linkFlitResend port k) s = .next s) ∧
  ((s.port port).mode ≠ 2 → exec (.frameRetry port k) s = .next s) ∧
  Leaves (.linkEvent port) s (fun t => SameMem s t ∧ SameRegs s t ∧ (evLink, port) ∈ t.dev.supEvents) ∧
  (tfind s.ops o = some p → p.kind = .coll → p.st = .running → p.flt = none → p.phase = 2 → p.reqs = 0 →
    let fl := (collOut p).foldl (fun f x => f ||| elF x) p.flags
    let ends := fun (t : State) => SameRegs s t ∧ tfind t.ops o = none ∧
      (t.core p.core).collQ = (s.core p.core).collQ - 1 ∧ (t.core p.core).collDone = (s.core p.core).collDone + 1
    (fl &&& p.enb = 0 → p.residual = none → Leaves (.collDelivery o) s ends) ∧
    (fl &&& p.enb ≠ 0 → (s.core p.core).task = some p.task → Leaves (.collDelivery o) s (fun t => ends t ∧ SameMem s t ∧
      ∃ d ∈ (t.core p.core).due, d.flt.cause = 5))) ∧
  Leaves (.ptpMessage port t1 t2 t3 t4) s (fun t => SameMem s t ∧ SameRegs s t ∧ t.dev.toff = s.dev.toff ∧
    (t.dsr 0x151).toNat / 2 ^ 32 = ((((t2 : Int) - t1) - ((t4 : Int) - t3)) / 2 % 2 ^ 32).toNat ∧
    (s.dev.lock = true → (t.dsr 0x151).getLsbD 0 = true)) ∧
  Leaves .lockLoss s (fun t => SameMem s t ∧ SameRegs s t ∧ t.dev.lock = false ∧ (t.dsr 0x151).getLsbD 0 = false ∧
    (evTime, 0) ∈ t.dev.supEvents)

/-! ### Tasks (R276 to R301) -/

/-- Calls, spawns, scopes and returns at issue: FINOPEN opens a scope and returns its handle, FINWAIT of a freed handle does
nothing and of an unfinished scope holds issue, TCALL queues its members with the caller's values, SPAWN starts a sibling
four cycles later, TRET ends issue; memory stays, but for what a finished scope merges (R285, R289 to R291, R288). -/
def Obligations.TaskOperations : Prop := ∀ (s : State) (d f q e rc w tier nb nx t k : Nat) (r : Rec) (x : Scope),
  let n := s.me
  let c := s.core n
  let m := quadMate n q
  (freeEntries s (n / 40) ≠ [] → Leaves (.finopen d) s (fun u => SameAll s u ∧ ∃ (g y : Nat) (z : Scope) (p : Pend),
    tfind u.scopes y = some z ∧ z.live = true ∧ z.gen = g ∧ z.owner = c.task.getD 0 ∧ z.tasks = [] ∧ y / 256 = n / 40 ∧
      (u.core n).pend = c.pend ++ [p] ∧ PlainResult s 2 [.x d (BitVec.ofNat 64 (g * 2 ^ 16 + y))]
        (some ((BitVec.ofNat 64 (g * 2 ^ 16 + y)).setWidth 1024)) p)) ∧
  (freeEntries s (n / 40) = [] → ∃ f, f.cause = 0x17 ∧ FaultsWith (.finopen d) s f) ∧
  (scopeOf s (s.x n f).toNat = none → exec (.finwait f) s = .next s) ∧
  (scopeOf s (s.x n f).toNat = some (k, x) → some x.owner = c.task → scopeDone s x = false → c.held ≠ .save →
    Leaves (.finwait f) s (fun u => SameAll s u ∧ (u.core n).hold = .finwait k s.pcNow c.spawner.isSome)) ∧
  (scopeOf s (s.x n f).toNat = some (k, x) → some x.owner ≠ c.task → ∃ g, g.cause = 0x17 ∧ FaultsWith (.finwait f) s g) ∧
  (checkOf (.tcall rc w tier nb nx) s = none → recordOf s c.ctx rc = some r →
    scopeOf s (s.x n w).toNat = some (k, x) → Leaves (.tcall rc w tier nb nx) s (fun u => SameMem s u ∧ SameRegs s u ∧
      u.sr n srRBSEQ = s.sr n srRBSEQ + 1 ∧
      (∃ z, tfind u.scopes k = some z ∧ z.tasks = x.tasks ++ (List.range (gangSize r.gang)).map (· + s.nid)) ∧
      ∀ i, i < gangSize r.gang → ∃ z, tfind u.tasks (s.nid + i) = some z ∧ z.st = .queued ∧ z.lrec = r ∧ z.member = i ∧
        z.ctx = c.ctx ∧ z.caller = c.task ∧ z.scope = some k ∧ z.yard = n / 40 ∧
        ∀ j, j < nx → j < 8 → z.args.getD j 0 = s.x n (56 + j))) ∧
  (checkOf (.spawn q e) s = none → Leaves (.spawn q e) s (fun u => SameMem s u ∧ (u.core m).run = .issuing ∧
    (u.core m).pc = e ∧ (u.core m).nextAt = s.cycle + 4 ∧ (u.core m).task = c.task ∧ (u.core m).spawner = some n ∧
    (∀ i, i < 16 → u.x m (48 + i) = s.x n (48 + i)) ∧ u.sr n srRBSEQ = s.sr n srRBSEQ + 1)) ∧
  (c.task = none → exec .tret s = .next (s.coreTo n { c with run := .idle })) ∧
  (c.task = some t → Leaves .tret s (fun u => SameAll s u ∧ (c.held ≠ .save → (u.core n).hold = .tret)))

/-- A task starts with its arguments in x48 to x63, its trip count and the first bundle of its record; what its
core held before is gone, but for stores and matrix work still to be performed (R179, R279, R280, R287, R299). -/
def Obligations.TasksStart : Prop := ∀ (s : State) (t n : Nat) (k : Task), tfind s.tasks t = some k → k.st = .starting →
  k.core = some n → k.ready ≤ s.cycle → (∀ q, generating s q = false) →
  Leaves (.taskStart t) s (fun u => (u.core n).run = .issuing ∧ (u.core n).nextAt = s.cycle ∧ (u.core n).task = some t ∧
    (u.core n).pend = (s.core n).pend.filterMap Pend.outlives ∧ (u.core n).sup = false ∧
    (u.core n).pc = (if k.lrec.hp then k.lrec.pro else if k.trips = 0 ∧ k.lrec.he then k.lrec.epi else k.lrec.kern) ∧
    (∀ i, i < 16 → u.x n (48 + i) = k.args.getD i 0) ∧ (∀ r, 0 < r → r < 48 → u.x n r = 0) ∧ (∀ r, r < 64 → u.v n r = 0) ∧
    (∀ j, j < 8 → u.l n j = 0) ∧ u.sr n srFMT = 0 ∧ u.sr n srTRIPC = BitVec.ofNat 64 k.trips ∧ u.sr n srDOMAIN = k.domain ∧
    u.sr n srRBKEY0 = k.key0 ∧ u.sr n srRBCTR0 = k.ctr0 ∧ ∃ z, tfind u.tasks t = some z ∧ z.st = .running)

/-- The yard and the contexts: a dispatch takes the first unit in order with a placement (here a unit of one core); while
neither hold is on, a reservation is made and a pre-emption is requested of every member of a gang, for one boundary that none
has passed; a save seals the context and takes it off its core, and a restore puts it back, unless Sirlen finds that the record
is not the last it sealed for the task (R291, R297 to R301, R303, R337, R390, R401). What work a core has under way goes on
(log 63). -/
def Obligations.YardEvents : Prop := ∀ (s : State) (y t n : Nat) (k : Task) (v : Saved) (cs : List Nat),
  (nextPlace s y = some (t, k, [n]) → unitOf s t k = [t] → tfind s.tasks t = some k → k.saved = none →
    Leaves (.yardDispatch y) s (fun u => SameAll s u ∧ (u.core n).task = some t ∧ (u.core n).ctx = k.ctx ∧
      ∃ z, tfind u.tasks t = some z ∧ z.st = .starting ∧ z.core = some n ∧ s.cycle + 8 ≤ z.ready)) ∧
  (∀ r, inOrder s y = (t, k) :: r → s.held = false → reserved s y = false → effPrio s k = 3 → waitedLong s k = true →
    placement s t k [] = none → reservePlace s k = some cs →
    Leaves (.reservation y t) s (fun u => SameAll s u ∧ (u.yard y).reserve = some (t, cs))) ∧
  (tfind s.tasks t = some k → k.st = .running → s.held = false → requestOpen s y = false →
    (∀ e ∈ s.tasks, e.2.lead = k.lead → ∀ m, e.2.core = some m → atRest s m = false) →
    Leaves (.preemptionRequest y t) s (fun u => SameAll s u ∧ (u.yard y).request = some k.lead ∧
      ∃ b, (∃ e ∈ s.tasks, e.2.lead = k.lead ∧ nextBoundary s e.2 = b) ∧ ∀ e ∈ s.tasks, e.2.lead = k.lead →
        nextBoundary s e.2 ≤ b ∧ ∃ z, tfind u.tasks e.1 = some z ∧ z.preempt = some b)) ∧
  (tfind s.tasks t = some k → k.st = .running → k.core = some n → (s.core n).held = .save → gangSaveReady s k = true →
    Leaves (.contextSave t) s (fun u => SameMem s u ∧ (u.core n).run = .idle ∧ (u.core n).mark = true ∧
      ∃ z w, tfind u.tasks t = some z ∧ z.st = .suspended ∧ z.saved = some w ∧ w.left = n ∧ w.core = s.core n ∧
        w.genuine s.dev.sealEpoch t (tget 0 (u.ctx k.ctx).saves t) = true ∧
        z.ready = s.cycle + (256 + 4 * k.lrec.spad + 512 * k.lrec.tiles) ∧
        ∀ r, 0 < r → r < 64 → tget 0 w.xs r = s.x n r)) ∧
  (∀ f pc, tfind s.tasks t = some k → k.st = .running → k.core = some n → (s.core n).held = .finwait f pc false →
    saveReady s t n = true →
    areaUsed s k.ctx + 1024 * k.lrec.spad + 131072 * 8 + Config.freeNat k.lead % 2 ^ 20 ≤ areaSize s k.ctx →
    Leaves (.finwaitSuspend t) s (fun u => SameMem s u ∧ (u.core n).run = .idle ∧
      ∃ z w, tfind u.tasks t = some z ∧ z.st = .suspended ∧ z.saved = some w ∧ w.scope = some f ∧
        w.genuine s.dev.sealEpoch t (tget 0 (u.ctx k.ctx).saves t) = true)) ∧
  (tfind s.tasks t = some k → k.st = .restoring → k.core = some n → k.saved = some v → v.scope = none →
    k.ready ≤ s.cycle →
    (v.genuine s.dev.sealEpoch t (tget 0 (s.ctx k.ctx).saves t) = true → risingFrom 0 v.xs = true →
      Leaves (.contextRestore t) s (fun u => (u.core n).run = .issuing ∧ (u.core n).task = some t ∧
        (u.core n).pc = v.core.pc ∧ (u.core n).pend = (s.core n).pend.filterMap Pend.outlives ∧
        (u.core n).nextAt = s.cycle + 1 ∧ (∀ r, 0 < r → r < 64 → u.x n r = tget 0 v.xs r) ∧
        u.sr n srDOMAIN = k.domain ∧ ∃ z, tfind u.tasks t = some z ∧ z.st = .running ∧ z.saved = none)) ∧
    (v.genuine s.dev.sealEpoch t (tget 0 (s.ctx k.ctx).saves t) = false →
      Leaves (.contextRestore t) s (fun u => SameMem s u ∧ SameRegs s u ∧ (u.dsr (0x120 + k.ctx)).getLsbD 1 = true ∧
        u.dev.supEvents = s.dev.supEvents ++ [(evIntegrity, k.ctx)] ∧
        (∃ i ∈ u.agenda, i.ev = .taskFailure t 0x22 ∧ i.due = s.cycle) ∧
        ∃ z, tfind u.tasks t = some z ∧ z.saved = none)))

/-- Returns, merges and scopes: a return without faults goes on to its outward copies; when they end, the bytes of each
writable image (under DIRTY, those of its marked elements) are kept for the merge and the core goes back to the yard; a complete
scope makes its suspended owner ready; the owner's join copies an image's bytes to the parent's box, or under FOLD combines each
element with the parent's, in linear order, and frees the scope (R288, R291, R293, R296). -/
def Obligations.ReturnsComplete : Prop := ∀ (s : State) (t n f : Nat) (k o : Task) (x : Scope),
  (tfind s.tasks t = some k → k.core = some n → (s.core n).spawner = none → k.scopes = [] → returnReady s t n k = true →
    Leaves (.tretComplete t) s (fun u => SameMem s u ∧ SameRegs s u ∧ ∃ z, tfind u.tasks t = some z ∧ z.st = .merging ∧
      s.cycle ≤ z.ready ∧ (k.imgs = [] → z.ready = s.cycle))) ∧
  (tfind s.tasks t = some k → k.core = some n → k.st = .merging → k.ready ≤ s.cycle → generating s t = false →
    mustWait s t k = false → k.seq = none → (s.core n).run ≠ .fenced → Leaves (.outwardMerge t) s (fun u => SameMem s u ∧
      (u.core n).run = .idle ∧ (u.core n).task = none ∧ ∃ z, tfind u.tasks t = some z ∧ z.st = .done ∧ z.core = none ∧
        ∀ (i : Nat) (g : Img), k.imgs[i]? = some g → g.parent.wr = true → g.child.tier = 1 →
          0 ≤ (g.child.org : Int) + g.child.first → g.child.org + g.child.first + g.child.imageLen ≤ 2 ^ 22 →
          ∃ h : Img, z.imgs[i]? = some h ∧ h.parent = g.parent ∧ h.out = ((List.range g.child.imageLen).filter (fun (j : Nat) =>
              g.child.imageHas j && (g.child.merge != 2 ||
                g.marks.contains (skey g.child.home (g.child.org + g.child.first + j).toNat / 4)))).map
            (fun (j : Nat) => (j, s.byteOf g.child (g.child.first + (j : Int)))))) ∧
  (tfind s.scopes f = some x → x.live = true → scopeDone s x = true → tfind s.tasks x.owner = some o → o.st = .suspended →
    o.core = none → (∃ v, o.saved = some v ∧ v.scope = some f) → Leaves (.scopeComplete f) s (fun u => SameAll s u ∧
      ∃ z, tfind u.tasks x.owner = some z ∧ z.st = .queued)) ∧
  (∀ (r : Nat) (g : Img), s.memOk = true → s.still → scopeOf s (s.x s.me r).toNat = some (f, x) → some x.owner = (s.core s.me).task →
    x.tasks = [t] → tfind s.tasks t = some k → k.st = .done → k.imgs = [g] → g.parent.wr = true → g.parent.tier = 1 →
    g.parent.fmt ≠ 5 →
    let b := g.parent
    let ends := fun (u : State) => (∀ a, memGet u.dram a = memGet s.dram a) ∧ (∀ a, memGet u.hostm a = memGet s.hostm a) ∧
      tfind u.tasks t = none ∧ ∃ z, tfind u.scopes f = some z ∧ z.live = false
    (b.merge ≠ 3 → 0 ≤ (b.org : Int) + b.first → b.org + b.first + b.imageLen ≤ 2 ^ 22 → (∀ e ∈ g.out, e.1 < b.imageLen) →
      Leaves (.finwait r) s (fun u => ends u ∧ ∀ a, memGet u.spad a =
        g.out.foldl (fun m e => putRaw b (b.first + (e.1 : Int)) [e.2] m) (memGet s.spad) a)) ∧
    (b.merge = 3 → b.fop ≤ 2 → Leaves (.finwait r) s (fun u => ends u ∧ ∀ a, memGet u.spad a =
      (List.range b.count).foldl (fun m l =>
        let old := natOf ((List.range b.esize).map (fun j => m (skey b.home (b.org + b.offset (b.at l)).toNat + j)))
        putElem b (b.at l) (combine b.fop b.fmt old (g.value l)).1 m) (memGet s.spad) a)))

/-- A failed task stops, with every member of its gang on every core they hold, and so do the tasks they called; the scopes of
all of them are freed. Once the threads of a stopped gang have ended, all its members are placed again while their context
allows, and otherwise one failure is delivered to the scope of the call (R374 to R379). -/
def Obligations.FailuresAreHandled : Prop := ∀ (s : State) (t cause c : Nat) (k : Task) (x : Scope),
  let gang := s.tasks.filter (fun e => e.2.lead == k.lead)
  (tfind s.tasks t = some k → k.st = .running →
    Leaves (.taskFailure t cause) s (fun u => SameMem s u ∧ SameRegs s u ∧
      (∀ e ∈ gang, (∃ z, tfind u.tasks e.1 = some z ∧ z.st = .stopped ∧ z.cause = cause ∧ z.scopes = []) ∧
        (∀ n, n ∈ coresOf s e.1 → (s.core n).run ≠ .fenced → (u.core n).hold = .failed) ∧
        (∀ f y, tfind u.scopes f = some y → y.owner = e.1 → y.live = false)) ∧
      ∀ e ∈ s.tasks, ∀ m ∈ gang, e.2.caller = some m.1 → (∀ g ∈ gang, g.1 ≠ e.1) →
        ∃ z, tfind u.tasks e.1 = some z ∧ z.st = .stopped ∧ z.caller = none ∧ z.scope = none)) ∧
  (risingFrom 0 s.tasks = true → tfind s.tasks t = some k → k.st = .stopped →
    (∀ e ∈ gang, e.2.st = .stopped ∧ stopDrained s e.1 = true) → k.scope = some c → k.caller.isSome = true → k.seq = none →
    (mayRetry s (gang.map (·.2)) = true → Leaves (.reExecution t) s (fun u => SameAll s u ∧ ∀ e ∈ gang,
      ∃ z, tfind u.tasks e.1 = some z ∧ z.st = .queued ∧ z.core = none ∧ z.retries = e.2.retries + 1)) ∧
    (mayRetry s (gang.map (·.2)) = false → tfind s.scopes c = some x → Leaves (.reExecution t) s (fun u => SameAll s u ∧
      (∀ e ∈ gang, ∃ z, tfind u.tasks e.1 = some z ∧ z.st = .failed ∧ z.core = none) ∧
      ∃ y g, tfind u.scopes c = some y ∧ y.faults = x.faults ++ [g] ∧ g.cause = 0x19)))

/-! ### Registers as they come to govern, errors, power and the outside (R304 to R409) -/

/-- What a register write does when it comes to govern: CTIME steps unless a timetable or a pod-level SYNCD stands, CTRIM is
clamped, CRCST starts the running value anew, a platform image must pass its checks, PL needs an accepted image, TAGVAL sets
the granule TAGSEL selects, and the context registers write the slot CSEL selects; memory and general registers stay. That a
write of CTIME comes to govern as the event does here, at c + 2 with the value read in that cycle, is the model's choice
(log 55). -/
def Obligations.RegisterWritesGovern : Prop := ∀ (s : State) (n j r : Nat) (v : Word),
  let slot := wbits (s.dsr 0x114) 0 4
  (timeHeld s = false → Leaves (.ctimeWrite n v) s (fun u => SameMem s u ∧ SameRegs s u ∧ u.ctime = v.toNat)) ∧
  (timeHeld s = true → exec (.ctimeWrite n v) s = .next s) ∧
  Leaves (.ctrimWrite v) s (fun u => SameMem s u ∧ SameRegs s u ∧
    (u.dsr 0x150).toInt = max (-219902325) (min 219902325 v.toInt)) ∧
  Leaves (.crcstWrite n v) s (fun u => SameMem s u ∧ SameRegs s u ∧ u.sr n srCRCST = v ∧ (u.core n).crc = wbits v 0 32) ∧
  (platBadImage v.toNat = false → Leaves (.platformRegisterWrite n j v) s (fun u => SameMem s u ∧ SameRegs s u ∧
    u.sr n (srPLAT0 + j) = v)) ∧
  (platBadImage v.toNat = true → exec (.platformRegisterWrite n j v) s = .next s) ∧
  ((v.getLsbD 0 = true → (s.ctx j).accepted = true) → Leaves (.yctlWrite j v) s (fun u => SameMem s u ∧ SameRegs s u ∧
    u.dsr (0x120 + j) = v ∧ ∀ q, q ≠ 0x120 + j → u.dsr q = s.dsr q)) ∧
  (v.getLsbD 0 = true → (s.ctx j).accepted = false → exec (.yctlWrite j v) s = .next s) ∧
  Leaves (.tagvalWrite n v) s (fun u => SameAll s u ∧ u.tag n (wbits (s.sr n srTAGSEL) 0 12) = v.setWidth 16 ∧
    ∀ g, g < 4096 → g ≠ wbits (s.sr n srTAGSEL) 0 12 → u.tag n g = s.tag n g) ∧
  Leaves (.systemRegisterWrite n r v) s (fun u => SameMem s u ∧ SameRegs s u ∧
    (6 ≤ r → r < 0x15 → r ≠ 0xC → r ≠ srROTB → u.sr n r = v) ∧
    (r = srROTB → u.sr n r = BitVec.ofNat 64 (wbits v 0 6 % 48 + wbits v 8 3 * 2 ^ 8)) ∧
    (r = 0x115 → (u.ctx slot).rtab = v.toNat ∧ (u.ctx slot).rtabNow = (s.ctx slot).rtabNow) ∧
    (r = 0x116 → (u.ctx slot).ptroot = v.toNat ∧ (u.ctx slot).ptrootNow = (s.ctx slot).ptrootNow) ∧
    (r = 0x119 → (u.ctx slot).varena = v.toNat) ∧ (r = 0x13C ∨ r = 0x13E ∨ r = 0x114 → u.dsr r = v))

/-- Contexts and the outside: a removal queues its slot and its end makes the slot's tables govern; the host reads a front
half, or all ones with an event; a key is installed in an unused slot, or erased; an image whose manifest fails is not
accepted, one that passes is; a report is signed over the measurements; ports come up after attestation; firmware whose
signature verifies waits for the next bring-up (R335, R336, R351 to R358, R392). The keys, tags and signatures are the opaque
functions of log 9, and a session past 8 bits stands for the freeing of a slot (log 102). -/
def Obligations.ContextsAndTheOutside : Prop := ∀ (s : State) (k q w write off a session port peer pp mode dig sig : Nat) (x : Win),
  let m (o n : Nat) : Nat := natOf (memGets s.hostm (a + o) n)
  let len := 32 * m 16 4 + 32 * m 20 4 + 172 * m 24 4 + 4 * m 28 4 + 16 * m 32 4 + m 36 4
  let hd := 48 + 64 * m 40 2
  let key := Config.hkdf (s.ctx k).key [0x69, 0x6D, 0x67]
  let nonce := (memGets s.hostm (a + 4) 12).map BitVec.toNat
  let cipher := memGets s.hostm (a + hd) len
  let entries := (List.range (m 40 2)).map (fun i => rootEntry (memGets s.hostm (a + 48 + 64 * i) 64))
  Leaves (.xinvRemoval q) s (fun u => SameMem s u ∧ SameRegs s u ∧ u.dev.xinv = s.dev.xinv ++ [q % 16] ∧
    (s.dev.xinv = [] → ∃ d, s.cycle < d ∧ ⟨d, 3, .xinvDone⟩ ∈ u.agenda)) ∧
  (∀ r, s.dev.xinv = k :: r → Leaves .xinvDone s (fun u => SameMem s u ∧ SameRegs s u ∧ u.dev.xinv = r ∧
    (u.ctx k).rtabNow = (s.ctx k).rtab ∧ (u.ctx k).ptrootNow = (s.ctx k).ptroot)) ∧
  (tfind (s.ctx k).wins w = none ∨ write ≠ 0 → Leaves (.hostWindowAccess k w write off) s (fun u => SameMem s u ∧
    SameRegs s u ∧ (evHost, off) ∈ u.dev.supEvents ∧ u.dev.outbox = s.dev.outbox ++
      (if write = 0 then [.hostRead k w off (List.replicate 64 0xFF#8)] else []))) ∧
  (tfind (s.ctx k).wins w = some x → x.sealed = false → x.busy = false → off + 64 ≤ x.half →
    Leaves (.hostWindowAccess k w 0 off) s (fun u => SameMem s u ∧ SameRegs s u ∧ ∃ bs : List Byte, bs.length = 64 ∧
      u.dev.outbox = s.dev.outbox ++ [.hostRead k w off bs] ∧
      ∀ i, i < 64 → bs.getD i 0 = memGet s.dram (t3key (x.base + (if x.front then x.half else 0) + (off + i))))) ∧
  (k < 16 → slotBusy s k = false →
    Leaves (.keyInstall k session) s (fun u => SameMem s u ∧ SameRegs s u ∧ (u.ctx k).keyed = decide (session < 256) ∧
      (u.ctx k).code = none ∧ (u.ctx k).accepted = false ∧ (u.ctx k).meas = List.replicate 48 0#8 ∧
      (session < 256 → (u.ctx k).session = session) ∧ (256 ≤ session → (u.ctx k).session = 0 ∧ (u.ctx k).key = []) ∧
      ∀ r, u.dsr r = s.dsr r) ∧
    ((s.ctx k).keyed = true → manifestOk m = false → Leaves (.imageAuthentication k a) s (fun u => SameMem s u ∧
      SameRegs s u ∧ (u.ctx k).code = none ∧ (u.ctx k).accepted = false ∧ (∀ r, u.dsr r = s.dsr r) ∧
      (evIntegrity, k) ∈ u.dev.supEvents)) ∧
    ((s.ctx k).keyed = true → manifestOk m = true → entries.all (·.isSome) = true →
      (∃ b l, entries = some b :: l ∧ b.tier = 3 ∧ b.fmt = 11 ∧ b.rank = 1 ∧ b.rd = true ∧ b.wr = false) →
      Config.gcmTag key nonce (memGets s.hostm a (hd + len)) = memGets s.hostm (a + hd + len) 16 →
      Leaves (.imageAuthentication k a) s (fun u => SameRegs s u ∧ SameSys s u ∧ (u.ctx k).accepted = true ∧
        (u.ctx k).code = some (decodeImage m (entries.filterMap id) (Config.gcmDec key nonce cipher)) ∧
        (u.ctx k).meas = Config.sha384 ((s.ctx k).meas ++ Config.sha384 cipher)))) ∧
  Leaves (.attestationReport k session) s (fun u => SameMem s u ∧ SameRegs s u ∧ ∃ nc part kd : List Byte, nc.length = 32 ∧
    part.length = 8 ∧ kd.length = 96 ∧
    (let body := nc ++ bytesOf 4 s.dev.ident ++ part ++ s.dev.measFw ++ s.dev.measSup ++ (s.ctx k).meas ++ bytesOf 1 k ++ kd ++
        bytesOf 1 session
     u.dev.outbox = s.dev.outbox ++ [.report (body ++ Config.sign body)])) ∧
  (port < 16 → mode = 1 ∨ mode = 2 → Leaves (.linkAttestation port peer pp mode) s (fun u => SameMem s u ∧ SameRegs s u ∧
    (u.port port).mode = mode ∧ (u.port port).peer = peer ∧ (u.port port).peerPort = pp ∧ (u.port port).attested = true ∧
    (u.port port).frames = 0 ∧ (u.port port).keys = (s.port port).keys + 1)) ∧
  (port < 16 → Leaves (.linkAttestation port peer pp 0) s (fun u => SameMem s u ∧ SameRegs s u ∧ (u.port port).mode = 0 ∧
    (u.port port).attested = false)) ∧
  (port < 16 → Leaves (.linkRekey port) s (fun u => SameMem s u ∧ SameRegs s u ∧
    u.port port = { s.port port with frames := 0, keys := (s.port port).keys + 1 })) ∧
  Leaves (.firmwareUpdate dig sig) s (fun u =>
    u = if Config.verifies dig sig then { s with dev := { s.dev with fwNext := dig } } else s)

/-- Power and temperature: a droop sets the stretch level and its end clears it, and past its limit both the supervisor and
the management interface learn of it; the power cap and 105 °C hold dispatch, 95 %
of the cap and 100 °C let it go; 95 °C is reported, 110 °C fences everything; a sensor read restarts a peak, and sensor 8 keeps the largest deficit of
the cycles at which it turns (R387 to R393). -/
def Obligations.PowerAndTemperature : Prop := ∀ (s : State) (k w t i v : Nat),
  (1 ≤ k → k ≤ 4 → Leaves (.droopStretch k) s (fun u => SameMem s u ∧ SameRegs s u ∧ u.cycle = s.cycle ∧ u.dev.level = k ∧
    u.dev.levelAt = s.cycle ∧ u.dev.realAt = ckReal s (2 * s.cycle))) ∧
  (s.dev.level ≠ 0 → limitPassed s.dev s.cycle = true → Leaves (.droopStretch 16) s (fun u => SameMem s u ∧ SameRegs s u ∧
    u.dev.level = s.dev.level ∧ (evStretch, 0) ∈ u.dev.supEvents ∧ .event evStretch 0 ∈ u.dev.outbox)) ∧
  (s.dev.level ≠ 0 → Leaves .stretchEnd s (fun u => SameMem s u ∧ SameRegs s u ∧ u.dev.level = 0 ∧ u.dev.levelAt = s.cycle)) ∧
  (s.dev.cap < w → Leaves (.powerCapExceeded w) s (fun u => SameMem s u ∧ SameRegs s u ∧ u.dev.capHold = true)) ∧
  (100 * w < 95 * s.dev.cap → Leaves (.powerCapClear w) s (fun u => SameMem s u ∧ SameRegs s u ∧ u.dev.capHold = false)) ∧
  (800 ≤ w → w ≤ 2000 → w % 50 = 0 → Leaves (.powerCapSet w) s (fun u => SameMem s u ∧ SameRegs s u ∧ u.dev.cap = w ∧
    tget 0 u.dev.sensors 11 = w)) ∧
  (95 ≤ t → Leaves (.thermalWarning t) s (fun u => SameMem s u ∧ SameRegs s u ∧
    u.dev.supEvents = s.dev.supEvents ++ [(evThermal, t)] ∧ u.dev.outbox = s.dev.outbox ++ [.event evThermal t])) ∧
  (105 ≤ t → Leaves (.thermalHold t) s (fun u => SameMem s u ∧ SameRegs s u ∧ u.dev.thermHold = true)) ∧
  (t ≤ 100 → Leaves (.thermalHoldRelease t) s (fun u => SameMem s u ∧ SameRegs s u ∧ u.dev.thermHold = false)) ∧
  (110 ≤ t → Leaves (.thermalTrip t) s (fun u => SameMem s u ∧ SameRegs s u ∧ u.dev.tripped = true ∧
    (∀ n, n < 164 → (u.core n).run = .fenced) ∧ (∀ n, n < 160 → coreFenced u n = true ∧ vaultFenced u n = true) ∧
    ∀ p, (tget Port.start u.dev.ports p).mode = 0)) ∧
  (1 ≤ i → i ≤ 11 → i ≠ 2 → (i < 8 → Leaves (.sensorUpdate i v) s (fun u => SameMem s u ∧ SameRegs s u ∧
    tget 0 u.dev.sensors i = v)) ∧
    (i = 8 → Leaves (.sensorUpdate i v) s (fun u => SameMem s u ∧ SameRegs s u ∧ u.dev.peak = 0 ∧ u.dev.peakTo = s.cycle ∧
      tget 0 u.dev.sensors i = max (tget 0 s.dev.sensors i) (max s.dev.peak (peakOver s.dev s.dev.peakTo s.cycle)))) ∧
    (i = 9 → Leaves (.sensorUpdate i v) s (fun u => tget 0 u.dev.sensors i =
      wbits (s.dsr 0x13D) 0 32 + wbits (s.dsr 0x13D) 32 32)) ∧
    (i = 10 → Leaves (.sensorUpdate i v) s (fun u => tget 0 u.dev.sensors i = fencedCount s)) ∧
    (i = 11 → Leaves (.sensorUpdate i v) s (fun u => tget 0 u.dev.sensors i = s.dev.cap))) ∧
  (s.dev.peakTo < s.cycle → deficitAt s.dev s.cycle ≤ peakOver s.dev s.dev.peakTo s.cycle) ∧
  Leaves (.sensorUpdate 2 v) s (fun u => SameMem s u ∧ SameRegs s u ∧ tget 0 u.dev.sensors 2 = max (tget 0 s.dev.sensors 2) v) ∧
  Leaves (.sensorRead i) s (fun u => SameMem s u ∧ SameRegs s u ∧
    u.dev.outbox = s.dev.outbox ++ [.event (256 + i) (tget 0 s.dev.sensors i)] ∧
    (i = 2 ∨ i = 8 → tget 0 u.dev.sensors i = 0))

/-- Errors and fences: a corrected error is counted and gone, with no other effect, and one found twice counts once; a scrub
read takes idle CK of its box, or waits for them, reports what it finds, and is followed by the next while scrubbing is enabled;
an uncorrectable SRAM error fences its core and fails its task with cause 0x20; an uncorrectable DRAM error fences its vault,
whose flipped bits stand as read; after a write of FCTL0 to FCTL7 the cores and vaults whose bits are set are fenced and no
others, but for a core with more repairs than a class allows; an injector of kind 1 or 2 flips its bits at once and clears ARM
(R373, R380 to R385). The order of scrubbing and what a lifted core's test finds are the model's (logs 3, 26). -/
def Obligations.ErrorsAndFences : Prop := ∀ (s : State) (place key bit n a v pc bank row col r j : Nat) (w : Word),
  let at_ := row * 65536 + bank % 4 * 4096 + bank / 4 % 4 * 16384 + pc * 1024 + col * 64
  let flips := upsetsAt s 1 (vkey v at_)
  let bad := (flips.map (fun u => popcN 64 u.2.2)).foldl (· + ·) 0
  let turn := ((s.vault v).chan pc).scrub
  let mine := Instr.scrubRead v pc bank row col = scrubItem v pc turn
  let on := (s.dsr 0x13E).getLsbD 0
  let cnt (u : State) (lo : Nat) := wbits (u.dsr 0x13D) lo 32
  let unit := wbits w 4 8
  let wh := (s.dsr (0x141 + 4 * j)).toNat
  let mask := (s.dsr (0x142 + 4 * j)).toNat
  (bit ≠ 512 ∨ upsetsAt s place key ≠ [] → Leaves (.correctedError place key bit) s (fun u => SameMem s u ∧ SameRegs s u ∧
    upsetsAt u place key = [] ∧ cnt u (if place = 1 then 32 else 0) = (cnt s (if place = 1 then 32 else 0) + 1) % 2 ^ 32 ∧
    cnt u (if place = 1 then 0 else 32) = cnt s (if place = 1 then 0 else 32))) ∧
  (upsetsAt s place key = [] → exec (.correctedError place key 512) s = .next s) ∧
  (mine → on = false → exec (.scrubRead v pc bank row col) s = .next s) ∧
  (∀ z, scrubPlan s v at_ = some z → (mine → on = true) → Leaves (.scrubRead v pc bank row col) s (fun u => SameAll s u ∧
    (¬mine → u.vault v = z) ∧ (¬mine → flips = [] → u.agenda = s.agenda) ∧
    (mine → u.vault v = z.setChan pc (fun c => { c with scrub := turn + 1 }) ∧
      ⟨s.cycle + scrubGap s, 4, scrubItem v pc (turn + 1)⟩ ∈ u.agenda) ∧
    (flips ≠ [] → ∃ k, k / 64 = vkey v at_ / 64 ∧ (bad ≤ 1 → ⟨s.cycle, 4, .correctedError 1 k 512⟩ ∈ u.agenda) ∧
      (2 ≤ bad → ⟨s.cycle, 4, .uncorrectableDramError (k / 2 ^ 31) (k % 2 ^ 31)⟩ ∈ u.agenda)))) ∧
  (scrubPlan s v at_ = none → (mine → on = true) → channelOff s v pc = true →
    exec (.scrubRead v pc bank row col) s = .next s) ∧
  (scrubPlan s v at_ = none → (mine → on = true) → channelOff s v pc = false → Leaves (.scrubRead v pc bank row col) s (fun u =>
    SameAll s u ∧ ∃ d, s.cycle < d ∧ d ≤ s.cycle + scrubGap s ∧ ⟨d, 4, .scrubRead v pc bank row col⟩ ∈ u.agenda)) ∧
  Leaves (.uncorrectableSramError n a) s (fun u => SameMem s u ∧ SameRegs s u ∧ (u.core n).run = .fenced ∧
    (u.core n).pend = [] ∧ coreFenced u n = true ∧
    ∀ t, (s.core n).task = some t → ⟨s.cycle, 3, .taskFailure t 0x20⟩ ∈ u.agenda) ∧
  (v < 160 → Leaves (.uncorrectableDramError v a) s (fun u => SameRegs s u ∧ vaultFenced u v = true ∧
    (u.vault v).queue = [] ∧ (u.vault v).prog = none ∧ (evColumn, layoutAddr v a) ∈ u.dev.supEvents ∧
    ((∀ e ∈ s.upsets, ¬(e.1 = 1 ∧ e.2.1 / 2 ^ 31 = v)) → SameMem s u) ∧
    (∀ key m, s.memOk = true → s.upsets = [(1, key, m)] → key / 2 ^ 31 = v → 1 < popcN 64 m →
      memGets u.dram key 8 = bytesOf 8 (Nat.xor (natOf (memGets s.dram key 8)) m) ∧ u.upsets = []))) ∧
  (r < 4 → Leaves (.fenceBitWrite r w) s (fun u => SameMem s u ∧ SameRegs s u ∧ ∀ i, i < 40 →
    (w.getLsbD i = true → coreFenced u (40 * r + i) = true ∧
      (coreFenced s (40 * r + i) = false → (u.core (40 * r + i)).run = .fenced)) ∧
    (w.getLsbD i = false → coreFenced s (40 * r + i) = false → coreFenced u (40 * r + i) = false) ∧
    (w.getLsbD i = false → coreFenced s (40 * r + i) = true → ∃ f, let cap := repairMore (s.sr (40 * r + i) srCORECAP) f
      u.sr (40 * r + i) srCORECAP = BitVec.ofNat 64 cap.1 ∧ coreFenced u (40 * r + i) = !cap.2 ∧
        (cap.2 = true → u.core (40 * r + i) = Core.start)))) ∧
  (4 ≤ r → r < 8 → Leaves (.fenceBitWrite r w) s (fun u => SameMem s u ∧ SameRegs s u ∧ ∀ i, i < 40 →
    vaultFenced u (40 * (r - 4) + i) = w.getLsbD i)) ∧
  (w.getLsbD 63 = false → Leaves (.injectorArm j w) s (fun u => SameMem s u ∧ SameRegs s u ∧ u.dsr (0x140 + 4 * j) = w)) ∧
  (w.getLsbD 63 = true → wbits w 0 4 = 1 → mask ≠ 0 → unit < 160 → wh + 8 ≤ 2 ^ 22 → Leaves (.injectorArm j w) s (fun u =>
    SameMem s u ∧ SameRegs s u ∧ (u.dsr (0x140 + 4 * j)).getLsbD 63 = false ∧
    u.upsets = s.upsets ++ (injParts 8 wh mask).map (fun e => (0, skey unit e.1, e.2)))) ∧
  (w.getLsbD 63 = true → wbits w 0 4 = 2 → mask ≠ 0 → unit < 160 → wh + 8 ≤ 2 ^ 31 → Leaves (.injectorArm j w) s (fun u =>
    SameMem s u ∧ SameRegs s u ∧ (u.dsr (0x140 + 4 * j)).getLsbD 63 = false ∧
    u.upsets = s.upsets ++ (injParts 64 wh mask).map (fun e => (1, vkey unit e.1, e.2))))

/-- A mailbox entry in its turn is taken: a bad context leaves STATUS 1, a good root enters a yard's queue with its values in x48
to x62 and STATUS 0; x63 is left to log 49 (R332, R333). The root's DOMAIN and yard are the supervisor's choice, free (log 14),
and a box whose address falls in no range entry counts from entry 0 (log 101). -/
def Obligations.MailboxEntriesStartRoots : Prop := ∀ (s : State) (e : Nat) (r : Rec), Memory.wf s.hostm = true → e = s.dev.take →
  let mb := s.dev.mailbox
  let a := mb + 256 * (e % 255 + 1)
  let w (o n : Nat) : Nat := natOf (memGets s.hostm (a + o) n)
  let k := w 8 2
  e < natOf (memGets s.hostm mb 8) →
  (16 ≤ k ∨ (s.ctx k).accepted = false → Leaves (.mailboxEntry e) s (fun u => SameRegs s u ∧ u.tasks = s.tasks ∧
    u.dev.take = e + 1 ∧ memGets u.hostm (a + 152) 4 = bytesOf 4 1 ∧ memGets u.hostm (mb + 8) 8 = bytesOf 8 (e + 1))) ∧
  (k < 16 → (s.ctx k).accepted = true → recordOf s k (w 10 2) = some r →
    gangSize r.gang ≤ extentSize (wbits (rootDomain s.fresh) 40 3) →
    (∀ i, i < 8 → w (144 + i) 1 = 255 ∨ (rootBox s k (w (144 + i) 1)).isSome = true) → w 0 8 = e →
    Leaves (.mailboxEntry e) s (fun u => SameRegs s u ∧ u.dev.take = e + 1 ∧ memGets u.hostm (a + 152) 4 = bytesOf 4 0 ∧
      memGets u.hostm (mb + 8) 8 = bytesOf 8 (e + 1) ∧ ∀ i, i < gangSize r.gang → ∃ z, tfind u.tasks (s.nid + i) = some z ∧
        z.st = .queued ∧ z.lrec = r ∧ z.ctx = k ∧ z.seq = some e ∧ z.member = i ∧
        (∀ j, j < 15 → z.args.getD j 0 = BitVec.ofNat 64 (w (16 + 8 * j) 8)) ∧
        z.domain.toNat / 2 ^ 33 % 8 ≤ 4 ∧ z.domain.toNat / 2 ^ 40 % 8 ≤ 2))

/-- Power-up: registers, scratchpads and HBM as at reset, CTIME 0, R395's values, a new seal key; what stands in host memory
stays. A bring-up whose steps pass measures the firmware and the supervisor from zero and starts the control cores; a core the
self-test could not repair is fenced and every other is idle with the class it has left. A step that fails keeps reset held and
goes out as an event (R278, R337, R357, R373, R381, R394, R395). Which step fails, what self-test and training find, what a byte
of memory holds that R395 gives none, and where the control cores begin are free or the model's choice (logs 2, 3, 4, 13). -/
def Obligations.BringUpResets : Prop := ∀ (s : State), ∃ step, step < 8 ∧ Leaves .bringUp s (fun u =>
  (∀ n r, u.x n r = State.reset.x n r ∧ u.v n r = State.reset.v n r ∧ u.p n r = State.reset.p n r ∧ u.b n r = none) ∧
  (∀ n r, r < 4096 → r ≠ srCORECAP → u.sr n r = State.reset.sr n r) ∧
  (∀ r, r < 0x130 ∨ 0x13C ≤ r → u.dsr r = State.reset.dsr r) ∧
  u.tasks = [] ∧ u.ctxs = [] ∧ u.spad = [] ∧ u.dram = [] ∧ u.hostm = s.hostm ∧ u.ctime = 0 ∧
  u.dev.sealEpoch = s.dev.sealEpoch + 1 ∧ u.dsr 0x13C = 0x2222222222222222 ∧ u.dsr 0x13E = 0x100001 ∧ u.dsr 0x015 = 0xFFFF ∧
  (step ≠ 0 → u.dev.tripped = true ∧ u.dev.outbox = s.dev.outbox ++ [.event evBringUp step]) ∧
  (step = 0 → u.dev.tripped = false ∧
    (∀ n, 160 ≤ n → n < 164 → u.core n = { Core.start with run := .issuing, sup := true, nextAt := s.cycle + 1 }) ∧
    (∀ n, n < 160 → ∃ f, u.sr n srCORECAP = BitVec.ofNat 64 (repaired f).1 ∧ coreFenced u n = !(repaired f).2 ∧
      u.core n = if (repaired f).2 then Core.start else { Core.start with run := .fenced }) ∧
    (∀ d, d < 4 → (u.dsr (0x134 + d)).toNat < 2 ^ 40) ∧
    u.dev.measFw = Config.sha384 (List.replicate 48 0 ++ Config.sha384 (bytesOf 48 s.dev.fwNext)) ∧
    u.dev.measSup = Config.sha384 (List.replicate 48 0 ++ Config.sha384 ((List.range 1024).flatMap (fun a =>
      bytesOf 32 (Config.firmware s.dev.fwNext a).toNat)))))

/-! ### The machine as a whole -/

/-- A step runs the decoded instruction of a slot: where core n is next, its bundle holds one word, in a slot k of 1 to 7 or
in the control slot, the word decodes, and the bundle is legal, not held and without a fault, the step is exec of that
instruction in the state of the slot, under the FMT and MSKSEL whose shadows end there, then the end of the bundle (issue moves on unless the instruction has moved it) and
what every event sets off (R30, R35, R54, R115, R148, R361; the order is log 7's).
A step runs the event at the head of the agenda, or the word a vault's program comes to, as exec of it, and then what
every event sets off (R258; the order is log 7's). -/
def Obligations.StepRunsWhatIsNext : Prop :=
  (∀ (s : State) (c n k : Nat) (i : Instr),
  s.dev.tripped = false → nextUp s = some ⟨c, 5, .act n⟩ →
  let t := applyAll (tick c 5 s) s
  let u := kernStart (shadowed n t) n
  let b := bundleAt u n (u.core n).pc
  let w := slotWord b k
  (t.core n).hold = .none → (t.core n).zl.all (fun l => l.left != 0) = true → kernSkip t n = none → k < 8 → (∀ j, j < 8 → j ≠ k → slotWord b j = 0) →
  (if k = 0 then decodeControl w else decodeSlot w none) = .ok i → illegalOf u n b = none → holdsIssue u n i = false →
  issueFault u n b = none → takeDeferred n t = none →
  ∃ v, exec i (atSlot u n k w) = .next v ∧
    (let x := if k = 0 then v else atSlot v n 0 0
     step s = done scans (if ((v.core n).run == .issuing && (v.core n).sup == (u.core n).sup) = true
       then applyAll (endBundle n x) x else x))) ∧
  (∀ (s : State) (c ph v q w : Nat) (e : Item) (r : List Item) (i : Instr),
  s.dev.tripped = false →
  (nextUp s = some ⟨c, ph, .event⟩ → s.agenda = e :: r →
    (let t : State := { s with agenda := r }
     ∃ u, exec e.ev (applyAll (tick c ph t) t) = .next u ∧ step s = done scans u)) ∧
  (nextUp s = some ⟨c, 3, .command v⟩ →
    (let t := applyAll (tick c 3 s) s
     nextCmd t v = some (q, some w) → decodeVault w = .ok i →
      ∃ u, exec i { t with iss := { t.iss with vault := v } } = .next u ∧ step s = done scans u)) ∧
  (nextUp s = some ⟨c, ph, .write v⟩ →
    ∃ u, exec (.resultWriteback v) (applyAll (tick c ph s) s) = .next u ∧ step s = done scans u) ∧
  (nextUp s = some ⟨c, ph, .ahead v⟩ →
    ∃ u, exec (.wrUnitRead v) (applyAll (tick c ph s) s) = .next u ∧ step s = done scans u))

/-- Words of the spec's encodings decode to what they stand for: R346's two examples and one word of every class, written
from R34, R41, R44, R45 and R258. -/
def Obligations.DecodedWords : Prop :=
  decodeControl 0x50900000 = .ok (.mfs 9 0) ∧ decodeControl 0x54500100 = .ok (.mts 5 1) ∧
  decodeControl (7 * 2 ^ 26 + 3 * 2 ^ 20 + 100) = .ok (.waitc 3 100) ∧
  decodeSlot (1 * 2 ^ 29 + 3 * 2 ^ 23 + 6 * 2 ^ 17 + 1 * 2 ^ 9 + 2 * 2 ^ 2) none = .ok (.add 6 false (.reg 1) (.reg 2)) ∧
  decodeSlot (1 * 2 ^ 29 + 3 * 2 ^ 23 + 1 * 2 ^ 16 + 65 * 2 ^ 9 + 2 * 2 ^ 2) none = .ok (.add 0 true (.lat 1) (.reg 2)) ∧
  decodeSlot (1 * 2 ^ 29 + 4 * 2 ^ 23 + 5 * 2 ^ 17 + 7 * 2 ^ 10 + 1023) none = .ok (.addi 5 (.reg 7) (-1)) ∧
  decodeSlot (1 * 2 ^ 29 + 4 * 2 ^ 23 + 5 * 2 ^ 17 + 7 * 2 ^ 10 + 1) (some 1) = .ok (.addi 5 (.reg 7) 1025) ∧
  decodeSlot (2 * 2 ^ 29 + 2 * 2 ^ 23 + 9 * 2 ^ 17 + 10 * 2 ^ 9 + 11 * 2 ^ 2 + 2) none =
    .ok (.vmul 9 false (.reg 10) (.reg 11) 2) ∧
  decodeSlot (3 * 2 ^ 29 + 9 * 2 ^ 23 + 1 * 2 ^ 17 + 2 * 2 ^ 9 + 3 * 2 ^ 2) none = .ok (.fdiv 1 false (.reg 2) (.reg 3)) ∧
  decodeSlot (4 * 2 ^ 29 + 8 * 2 ^ 23 + 5 * 2 ^ 20) none = .ok (.tzero 5) ∧
  decodeSlot (5 * 2 ^ 29 + 2 * 2 ^ 23 + 4 * 2 ^ 17 + 3 * 2 ^ 9 + 20 * 2 ^ 2 + 1) none = .ok (.vld 4 false 3 20 1) ∧
  decodeSlot (6 * 2 ^ 29 + 8 * 2 ^ 23 + 16 * 2 ^ 18) none = .ok (.rbfill 16) ∧
  decodeSlot (7 * 2 ^ 29 + 0 * 2 ^ 23 + 2 * 2 ^ 16 + 3 * 2 ^ 12 + 20 * 2 ^ 6) none = .ok (.send 0 2 3 20) ∧
  decodeVault (1 * 2 ^ 27 + 4 * 2 ^ 22 + 2 * 2 ^ 20 + 1 * 2 ^ 18 + 3 * 2 ^ 16 + 5) = .ok (.act 4 2 1 3 5) ∧
  decodeVault (12 * 2 ^ 27 + 9 * 2 ^ 10) = .ok (.jump 0 9)

/-- Decoding an encoded well-formed instruction gives it back, with every operand at every value its field admits, in 32
bits; events have no word. -/
def Obligations.RoundTrip : Prop := ∀ i : Instr, Sys2Proof.Laws.RoundTrip.Statement i

/-- Every step keeps the three memories in canonical form, from every state in which they are. The form, in which a byte that
reads 0 is not listed, is the model's choice (log 4). -/
def Obligations.MemoryCanonicalKept : Prop := ∀ s t : State, s.memOk = true → step s = .next t → t.memOk = true

/-- Every step keeps the agenda in the order its events happen in, and the register files, latches, tiles and system
registers in the order of their numbers. The phases of a cycle by which the agenda is ordered are the model's choice (log 7). -/
def Obligations.OrderKept : Prop := ∀ s t : State, step s = .next t → (s.agendaOk = true → t.agendaOk = true) ∧
  (s.regsOk = true → t.regsOk = true)

/-- No step of the device ends in a fault or a refusal: what the spec describes as a fault is an entry or an event, and
the machine goes on. -/
def Obligations.StepAlwaysGoes : Prop := ∀ s : State, ∃ t, step s = .next t

/-- An operation whose check finds a fault takes that fault in place of its effect: in task mode the trap is entered, in
supervisor mode the core is fenced (R361, R363). -/
def Obligations.CheckedOperationsFault : Prop := ∀ (i : Instr) (s : State) (f : Flt), checkOf i s = some f → FaultsWith i s f

/-- The state after reset: registers zero, predicate p0 all ones, no core issuing, CTIME 0 and R395's values, and the
invariants of the machine hold. That this is the device after step 7 of bring-up, with nothing to repair (FCTL8 to FCTL11 all
ones), is log 2's, and registers R395 does not name are 0 by log 3: both are the model's choice. -/
def Obligations.ResetState : Prop :=
  State.reset.memOk = true ∧ State.reset.agendaOk = true ∧ State.reset.regsOk = true ∧
  (∀ n r, State.reset.x n r = 0 ∧ State.reset.v n r = 0 ∧ State.reset.b n r = none ∧ State.reset.l n r = 0) ∧
  (∀ n r, State.reset.p n r = if r = 0 then BitVec.allOnes 128 else 0) ∧ (∀ n, (State.reset.core n).run = .idle) ∧
  State.reset.ctime = 0 ∧ (∀ j, j < 4 → State.reset.dsr (0x138 + j) = 0xFFFFFFFFFFFFFFFF) ∧ State.reset.dsr 0x13C = 0x2222222222222222 ∧
  State.reset.dsr 0x13D = 0 ∧ State.reset.dsr 0x13E = 0x100001 ∧ State.reset.dsr 0x150 = 0 ∧ State.reset.dsr 0x015 = 0xFFFF ∧
  (∀ j, j < 16 → State.reset.dsr (0x140 + j) = 0 ∧ State.reset.dsr (0x120 + j) = 0 ∧ (State.reset.ctx j).varena = 0) ∧
  (∀ j, tget 0 State.reset.dev.routes j = 0)
end

