-- ==== Sys2Proof/Laws/State.lean ====
section
/-! SUPPORT. What each update leaves in each field of the state: one lemma per field per update. -/

namespace Sys2Proof.Machine

set_option Elab.async false

@[simp] theorem core_cycle (n : Nat) (f : Core → Core) (s : State) : ((Upd.core n f).apply s).cycle = s.cycle := rfl
@[simp] theorem core_xreg (n : Nat) (f : Core → Core) (s : State) : ((Upd.core n f).apply s).xreg = s.xreg := rfl
@[simp] theorem core_vreg (n : Nat) (f : Core → Core) (s : State) : ((Upd.core n f).apply s).vreg = s.vreg := rfl
@[simp] theorem core_preg (n : Nat) (f : Core → Core) (s : State) : ((Upd.core n f).apply s).preg = s.preg := rfl
@[simp] theorem core_breg (n : Nat) (f : Core → Core) (s : State) : ((Upd.core n f).apply s).breg = s.breg := rfl
@[simp] theorem core_latch (n : Nat) (f : Core → Core) (s : State) : ((Upd.core n f).apply s).latch = s.latch := rfl
@[simp] theorem core_tile (n : Nat) (f : Core → Core) (s : State) : ((Upd.core n f).apply s).tile = s.tile := rfl
@[simp] theorem core_sysreg (n : Nat) (f : Core → Core) (s : State) : ((Upd.core n f).apply s).sysreg = s.sysreg := rfl
@[simp] theorem core_tags (n : Nat) (f : Core → Core) (s : State) : ((Upd.core n f).apply s).tags = s.tags := rfl
@[simp] theorem core_istore (n : Nat) (f : Core → Core) (s : State) : ((Upd.core n f).apply s).istore = s.istore := rfl
@[simp] theorem core_sstore (n : Nat) (f : Core → Core) (s : State) : ((Upd.core n f).apply s).sstore = s.sstore := rfl
@[simp] theorem core_planes (n : Nat) (f : Core → Core) (s : State) : ((Upd.core n f).apply s).planes = s.planes := rfl
@[simp] theorem core_spad (n : Nat) (f : Core → Core) (s : State) : ((Upd.core n f).apply s).spad = s.spad := rfl
@[simp] theorem core_dram (n : Nat) (f : Core → Core) (s : State) : ((Upd.core n f).apply s).dram = s.dram := rfl
@[simp] theorem core_hostm (n : Nat) (f : Core → Core) (s : State) : ((Upd.core n f).apply s).hostm = s.hostm := rfl
@[simp] theorem core_upsets (n : Nat) (f : Core → Core) (s : State) : ((Upd.core n f).apply s).upsets = s.upsets := rfl
@[simp] theorem core_cores (n : Nat) (f : Core → Core) (s : State) : ((Upd.core n f).apply s).cores = tput s.cores n (f (s.core n)) := rfl
@[simp] theorem core_vaults (n : Nat) (f : Core → Core) (s : State) : ((Upd.core n f).apply s).vaults = s.vaults := rfl
@[simp] theorem core_yards (n : Nat) (f : Core → Core) (s : State) : ((Upd.core n f).apply s).yards = s.yards := rfl
@[simp] theorem core_tasks (n : Nat) (f : Core → Core) (s : State) : ((Upd.core n f).apply s).tasks = s.tasks := rfl
@[simp] theorem core_scopes (n : Nat) (f : Core → Core) (s : State) : ((Upd.core n f).apply s).scopes = s.scopes := rfl
@[simp] theorem core_ctxs (n : Nat) (f : Core → Core) (s : State) : ((Upd.core n f).apply s).ctxs = s.ctxs := rfl
@[simp] theorem core_ops (n : Nat) (f : Core → Core) (s : State) : ((Upd.core n f).apply s).ops = s.ops := rfl
@[simp] theorem core_reqs (n : Nat) (f : Core → Core) (s : State) : ((Upd.core n f).apply s).reqs = s.reqs := rfl
@[simp] theorem core_pkts (n : Nat) (f : Core → Core) (s : State) : ((Upd.core n f).apply s).pkts = s.pkts := rfl
@[simp] theorem core_dev (n : Nat) (f : Core → Core) (s : State) : ((Upd.core n f).apply s).dev = s.dev := rfl
@[simp] theorem core_agenda (n : Nat) (f : Core → Core) (s : State) : ((Upd.core n f).apply s).agenda = s.agenda := rfl
@[simp] theorem core_fresh (n : Nat) (f : Core → Core) (s : State) : ((Upd.core n f).apply s).fresh = s.fresh := rfl
@[simp] theorem core_nid (n : Nat) (f : Core → Core) (s : State) : ((Upd.core n f).apply s).nid = s.nid := rfl
@[simp] theorem core_iss (n : Nat) (f : Core → Core) (s : State) : ((Upd.core n f).apply s).iss = s.iss := rfl

@[simp] theorem lat_cycle (n k : Nat) (v : VWord) (s : State) : ((Upd.lat n k v).apply s).cycle = s.cycle := rfl
@[simp] theorem lat_xreg (n k : Nat) (v : VWord) (s : State) : ((Upd.lat n k v).apply s).xreg = s.xreg := rfl
@[simp] theorem lat_vreg (n k : Nat) (v : VWord) (s : State) : ((Upd.lat n k v).apply s).vreg = s.vreg := rfl
@[simp] theorem lat_preg (n k : Nat) (v : VWord) (s : State) : ((Upd.lat n k v).apply s).preg = s.preg := rfl
@[simp] theorem lat_breg (n k : Nat) (v : VWord) (s : State) : ((Upd.lat n k v).apply s).breg = s.breg := rfl
@[simp] theorem lat_latch (n k : Nat) (v : VWord) (s : State) : ((Upd.lat n k v).apply s).latch = tput s.latch (8 * n + k) v := rfl
@[simp] theorem lat_tile (n k : Nat) (v : VWord) (s : State) : ((Upd.lat n k v).apply s).tile = s.tile := rfl
@[simp] theorem lat_sysreg (n k : Nat) (v : VWord) (s : State) : ((Upd.lat n k v).apply s).sysreg = s.sysreg := rfl
@[simp] theorem lat_tags (n k : Nat) (v : VWord) (s : State) : ((Upd.lat n k v).apply s).tags = s.tags := rfl
@[simp] theorem lat_istore (n k : Nat) (v : VWord) (s : State) : ((Upd.lat n k v).apply s).istore = s.istore := rfl
@[simp] theorem lat_sstore (n k : Nat) (v : VWord) (s : State) : ((Upd.lat n k v).apply s).sstore = s.sstore := rfl
@[simp] theorem lat_planes (n k : Nat) (v : VWord) (s : State) : ((Upd.lat n k v).apply s).planes = s.planes := rfl
@[simp] theorem lat_spad (n k : Nat) (v : VWord) (s : State) : ((Upd.lat n k v).apply s).spad = s.spad := rfl
@[simp] theorem lat_dram (n k : Nat) (v : VWord) (s : State) : ((Upd.lat n k v).apply s).dram = s.dram := rfl
@[simp] theorem lat_hostm (n k : Nat) (v : VWord) (s : State) : ((Upd.lat n k v).apply s).hostm = s.hostm := rfl
@[simp] theorem lat_upsets (n k : Nat) (v : VWord) (s : State) : ((Upd.lat n k v).apply s).upsets = s.upsets := rfl
@[simp] theorem lat_cores (n k : Nat) (v : VWord) (s : State) : ((Upd.lat n k v).apply s).cores = s.cores := rfl
@[simp] theorem lat_vaults (n k : Nat) (v : VWord) (s : State) : ((Upd.lat n k v).apply s).vaults = s.vaults := rfl
@[simp] theorem lat_yards (n k : Nat) (v : VWord) (s : State) : ((Upd.lat n k v).apply s).yards = s.yards := rfl
@[simp] theorem lat_tasks (n k : Nat) (v : VWord) (s : State) : ((Upd.lat n k v).apply s).tasks = s.tasks := rfl
@[simp] theorem lat_scopes (n k : Nat) (v : VWord) (s : State) : ((Upd.lat n k v).apply s).scopes = s.scopes := rfl
@[simp] theorem lat_ctxs (n k : Nat) (v : VWord) (s : State) : ((Upd.lat n k v).apply s).ctxs = s.ctxs := rfl
@[simp] theorem lat_ops (n k : Nat) (v : VWord) (s : State) : ((Upd.lat n k v).apply s).ops = s.ops := rfl
@[simp] theorem lat_reqs (n k : Nat) (v : VWord) (s : State) : ((Upd.lat n k v).apply s).reqs = s.reqs := rfl
@[simp] theorem lat_pkts (n k : Nat) (v : VWord) (s : State) : ((Upd.lat n k v).apply s).pkts = s.pkts := rfl
@[simp] theorem lat_dev (n k : Nat) (v : VWord) (s : State) : ((Upd.lat n k v).apply s).dev = s.dev := rfl
@[simp] theorem lat_agenda (n k : Nat) (v : VWord) (s : State) : ((Upd.lat n k v).apply s).agenda = s.agenda := rfl
@[simp] theorem lat_fresh (n k : Nat) (v : VWord) (s : State) : ((Upd.lat n k v).apply s).fresh = s.fresh := rfl
@[simp] theorem lat_nid (n k : Nat) (v : VWord) (s : State) : ((Upd.lat n k v).apply s).nid = s.nid := rfl
@[simp] theorem lat_iss (n k : Nat) (v : VWord) (s : State) : ((Upd.lat n k v).apply s).iss = s.iss := rfl

@[simp] theorem tile_cycle (k : Nat) (v : TWord) (s : State) : ((Upd.tile k v).apply s).cycle = s.cycle := rfl
@[simp] theorem tile_xreg (k : Nat) (v : TWord) (s : State) : ((Upd.tile k v).apply s).xreg = s.xreg := rfl
@[simp] theorem tile_vreg (k : Nat) (v : TWord) (s : State) : ((Upd.tile k v).apply s).vreg = s.vreg := rfl
@[simp] theorem tile_preg (k : Nat) (v : TWord) (s : State) : ((Upd.tile k v).apply s).preg = s.preg := rfl
@[simp] theorem tile_breg (k : Nat) (v : TWord) (s : State) : ((Upd.tile k v).apply s).breg = s.breg := rfl
@[simp] theorem tile_latch (k : Nat) (v : TWord) (s : State) : ((Upd.tile k v).apply s).latch = s.latch := rfl
@[simp] theorem tile_tile (k : Nat) (v : TWord) (s : State) : ((Upd.tile k v).apply s).tile = tput s.tile k v := rfl
@[simp] theorem tile_sysreg (k : Nat) (v : TWord) (s : State) : ((Upd.tile k v).apply s).sysreg = s.sysreg := rfl
@[simp] theorem tile_tags (k : Nat) (v : TWord) (s : State) : ((Upd.tile k v).apply s).tags = s.tags := rfl
@[simp] theorem tile_istore (k : Nat) (v : TWord) (s : State) : ((Upd.tile k v).apply s).istore = s.istore := rfl
@[simp] theorem tile_sstore (k : Nat) (v : TWord) (s : State) : ((Upd.tile k v).apply s).sstore = s.sstore := rfl
@[simp] theorem tile_planes (k : Nat) (v : TWord) (s : State) : ((Upd.tile k v).apply s).planes = s.planes := rfl
@[simp] theorem tile_spad (k : Nat) (v : TWord) (s : State) : ((Upd.tile k v).apply s).spad = s.spad := rfl
@[simp] theorem tile_dram (k : Nat) (v : TWord) (s : State) : ((Upd.tile k v).apply s).dram = s.dram := rfl
@[simp] theorem tile_hostm (k : Nat) (v : TWord) (s : State) : ((Upd.tile k v).apply s).hostm = s.hostm := rfl
@[simp] theorem tile_upsets (k : Nat) (v : TWord) (s : State) : ((Upd.tile k v).apply s).upsets = s.upsets := rfl
@[simp] theorem tile_cores (k : Nat) (v : TWord) (s : State) : ((Upd.tile k v).apply s).cores = s.cores := rfl
@[simp] theorem tile_vaults (k : Nat) (v : TWord) (s : State) : ((Upd.tile k v).apply s).vaults = s.vaults := rfl
@[simp] theorem tile_yards (k : Nat) (v : TWord) (s : State) : ((Upd.tile k v).apply s).yards = s.yards := rfl
@[simp] theorem tile_tasks (k : Nat) (v : TWord) (s : State) : ((Upd.tile k v).apply s).tasks = s.tasks := rfl
@[simp] theorem tile_scopes (k : Nat) (v : TWord) (s : State) : ((Upd.tile k v).apply s).scopes = s.scopes := rfl
@[simp] theorem tile_ctxs (k : Nat) (v : TWord) (s : State) : ((Upd.tile k v).apply s).ctxs = s.ctxs := rfl
@[simp] theorem tile_ops (k : Nat) (v : TWord) (s : State) : ((Upd.tile k v).apply s).ops = s.ops := rfl
@[simp] theorem tile_reqs (k : Nat) (v : TWord) (s : State) : ((Upd.tile k v).apply s).reqs = s.reqs := rfl
@[simp] theorem tile_pkts (k : Nat) (v : TWord) (s : State) : ((Upd.tile k v).apply s).pkts = s.pkts := rfl
@[simp] theorem tile_dev (k : Nat) (v : TWord) (s : State) : ((Upd.tile k v).apply s).dev = s.dev := rfl
@[simp] theorem tile_agenda (k : Nat) (v : TWord) (s : State) : ((Upd.tile k v).apply s).agenda = s.agenda := rfl
@[simp] theorem tile_fresh (k : Nat) (v : TWord) (s : State) : ((Upd.tile k v).apply s).fresh = s.fresh := rfl
@[simp] theorem tile_nid (k : Nat) (v : TWord) (s : State) : ((Upd.tile k v).apply s).nid = s.nid := rfl
@[simp] theorem tile_iss (k : Nat) (v : TWord) (s : State) : ((Upd.tile k v).apply s).iss = s.iss := rfl

@[simp] theorem sr_cycle (n r : Nat) (v : Word) (s : State) : ((Upd.sr n r v).apply s).cycle = s.cycle := rfl
@[simp] theorem sr_xreg (n r : Nat) (v : Word) (s : State) : ((Upd.sr n r v).apply s).xreg = s.xreg := rfl
@[simp] theorem sr_vreg (n r : Nat) (v : Word) (s : State) : ((Upd.sr n r v).apply s).vreg = s.vreg := rfl
@[simp] theorem sr_preg (n r : Nat) (v : Word) (s : State) : ((Upd.sr n r v).apply s).preg = s.preg := rfl
@[simp] theorem sr_breg (n r : Nat) (v : Word) (s : State) : ((Upd.sr n r v).apply s).breg = s.breg := rfl
@[simp] theorem sr_latch (n r : Nat) (v : Word) (s : State) : ((Upd.sr n r v).apply s).latch = s.latch := rfl
@[simp] theorem sr_tile (n r : Nat) (v : Word) (s : State) : ((Upd.sr n r v).apply s).tile = s.tile := rfl
@[simp] theorem sr_sysreg (n r : Nat) (v : Word) (s : State) : ((Upd.sr n r v).apply s).sysreg = tput s.sysreg (4096 * n + r) v := rfl
@[simp] theorem sr_tags (n r : Nat) (v : Word) (s : State) : ((Upd.sr n r v).apply s).tags = s.tags := rfl
@[simp] theorem sr_istore (n r : Nat) (v : Word) (s : State) : ((Upd.sr n r v).apply s).istore = s.istore := rfl
@[simp] theorem sr_sstore (n r : Nat) (v : Word) (s : State) : ((Upd.sr n r v).apply s).sstore = s.sstore := rfl
@[simp] theorem sr_planes (n r : Nat) (v : Word) (s : State) : ((Upd.sr n r v).apply s).planes = s.planes := rfl
@[simp] theorem sr_spad (n r : Nat) (v : Word) (s : State) : ((Upd.sr n r v).apply s).spad = s.spad := rfl
@[simp] theorem sr_dram (n r : Nat) (v : Word) (s : State) : ((Upd.sr n r v).apply s).dram = s.dram := rfl
@[simp] theorem sr_hostm (n r : Nat) (v : Word) (s : State) : ((Upd.sr n r v).apply s).hostm = s.hostm := rfl
@[simp] theorem sr_upsets (n r : Nat) (v : Word) (s : State) : ((Upd.sr n r v).apply s).upsets = s.upsets := rfl
@[simp] theorem sr_cores (n r : Nat) (v : Word) (s : State) : ((Upd.sr n r v).apply s).cores = s.cores := rfl
@[simp] theorem sr_vaults (n r : Nat) (v : Word) (s : State) : ((Upd.sr n r v).apply s).vaults = s.vaults := rfl
@[simp] theorem sr_yards (n r : Nat) (v : Word) (s : State) : ((Upd.sr n r v).apply s).yards = s.yards := rfl
@[simp] theorem sr_tasks (n r : Nat) (v : Word) (s : State) : ((Upd.sr n r v).apply s).tasks = s.tasks := rfl
@[simp] theorem sr_scopes (n r : Nat) (v : Word) (s : State) : ((Upd.sr n r v).apply s).scopes = s.scopes := rfl
@[simp] theorem sr_ctxs (n r : Nat) (v : Word) (s : State) : ((Upd.sr n r v).apply s).ctxs = s.ctxs := rfl
@[simp] theorem sr_ops (n r : Nat) (v : Word) (s : State) : ((Upd.sr n r v).apply s).ops = s.ops := rfl
@[simp] theorem sr_reqs (n r : Nat) (v : Word) (s : State) : ((Upd.sr n r v).apply s).reqs = s.reqs := rfl
@[simp] theorem sr_pkts (n r : Nat) (v : Word) (s : State) : ((Upd.sr n r v).apply s).pkts = s.pkts := rfl
@[simp] theorem sr_dev (n r : Nat) (v : Word) (s : State) : ((Upd.sr n r v).apply s).dev = s.dev := rfl
@[simp] theorem sr_agenda (n r : Nat) (v : Word) (s : State) : ((Upd.sr n r v).apply s).agenda = s.agenda := rfl
@[simp] theorem sr_fresh (n r : Nat) (v : Word) (s : State) : ((Upd.sr n r v).apply s).fresh = s.fresh := rfl
@[simp] theorem sr_nid (n r : Nat) (v : Word) (s : State) : ((Upd.sr n r v).apply s).nid = s.nid := rfl
@[simp] theorem sr_iss (n r : Nat) (v : Word) (s : State) : ((Upd.sr n r v).apply s).iss = s.iss := rfl

@[simp] theorem tag_cycle (n g : Nat) (v : Tag) (s : State) : ((Upd.tag n g v).apply s).cycle = s.cycle := rfl
@[simp] theorem tag_xreg (n g : Nat) (v : Tag) (s : State) : ((Upd.tag n g v).apply s).xreg = s.xreg := rfl
@[simp] theorem tag_vreg (n g : Nat) (v : Tag) (s : State) : ((Upd.tag n g v).apply s).vreg = s.vreg := rfl
@[simp] theorem tag_preg (n g : Nat) (v : Tag) (s : State) : ((Upd.tag n g v).apply s).preg = s.preg := rfl
@[simp] theorem tag_breg (n g : Nat) (v : Tag) (s : State) : ((Upd.tag n g v).apply s).breg = s.breg := rfl
@[simp] theorem tag_latch (n g : Nat) (v : Tag) (s : State) : ((Upd.tag n g v).apply s).latch = s.latch := rfl
@[simp] theorem tag_tile (n g : Nat) (v : Tag) (s : State) : ((Upd.tag n g v).apply s).tile = s.tile := rfl
@[simp] theorem tag_sysreg (n g : Nat) (v : Tag) (s : State) : ((Upd.tag n g v).apply s).sysreg = s.sysreg := rfl
@[simp] theorem tag_tags (n g : Nat) (v : Tag) (s : State) : ((Upd.tag n g v).apply s).tags = tput s.tags (4096 * n + g) v := rfl
@[simp] theorem tag_istore (n g : Nat) (v : Tag) (s : State) : ((Upd.tag n g v).apply s).istore = s.istore := rfl
@[simp] theorem tag_sstore (n g : Nat) (v : Tag) (s : State) : ((Upd.tag n g v).apply s).sstore = s.sstore := rfl
@[simp] theorem tag_planes (n g : Nat) (v : Tag) (s : State) : ((Upd.tag n g v).apply s).planes = s.planes := rfl
@[simp] theorem tag_spad (n g : Nat) (v : Tag) (s : State) : ((Upd.tag n g v).apply s).spad = s.spad := rfl
@[simp] theorem tag_dram (n g : Nat) (v : Tag) (s : State) : ((Upd.tag n g v).apply s).dram = s.dram := rfl
@[simp] theorem tag_hostm (n g : Nat) (v : Tag) (s : State) : ((Upd.tag n g v).apply s).hostm = s.hostm := rfl
@[simp] theorem tag_upsets (n g : Nat) (v : Tag) (s : State) : ((Upd.tag n g v).apply s).upsets = s.upsets := rfl
@[simp] theorem tag_cores (n g : Nat) (v : Tag) (s : State) : ((Upd.tag n g v).apply s).cores = s.cores := rfl
@[simp] theorem tag_vaults (n g : Nat) (v : Tag) (s : State) : ((Upd.tag n g v).apply s).vaults = s.vaults := rfl
@[simp] theorem tag_yards (n g : Nat) (v : Tag) (s : State) : ((Upd.tag n g v).apply s).yards = s.yards := rfl
@[simp] theorem tag_tasks (n g : Nat) (v : Tag) (s : State) : ((Upd.tag n g v).apply s).tasks = s.tasks := rfl
@[simp] theorem tag_scopes (n g : Nat) (v : Tag) (s : State) : ((Upd.tag n g v).apply s).scopes = s.scopes := rfl
@[simp] theorem tag_ctxs (n g : Nat) (v : Tag) (s : State) : ((Upd.tag n g v).apply s).ctxs = s.ctxs := rfl
@[simp] theorem tag_ops (n g : Nat) (v : Tag) (s : State) : ((Upd.tag n g v).apply s).ops = s.ops := rfl
@[simp] theorem tag_reqs (n g : Nat) (v : Tag) (s : State) : ((Upd.tag n g v).apply s).reqs = s.reqs := rfl
@[simp] theorem tag_pkts (n g : Nat) (v : Tag) (s : State) : ((Upd.tag n g v).apply s).pkts = s.pkts := rfl
@[simp] theorem tag_dev (n g : Nat) (v : Tag) (s : State) : ((Upd.tag n g v).apply s).dev = s.dev := rfl
@[simp] theorem tag_agenda (n g : Nat) (v : Tag) (s : State) : ((Upd.tag n g v).apply s).agenda = s.agenda := rfl
@[simp] theorem tag_fresh (n g : Nat) (v : Tag) (s : State) : ((Upd.tag n g v).apply s).fresh = s.fresh := rfl
@[simp] theorem tag_nid (n g : Nat) (v : Tag) (s : State) : ((Upd.tag n g v).apply s).nid = s.nid := rfl
@[simp] theorem tag_iss (n g : Nat) (v : Tag) (s : State) : ((Upd.tag n g v).apply s).iss = s.iss := rfl

@[simp] theorem istore_cycle (k : Nat) (v : BitVec 256) (s : State) : ((Upd.istore k v).apply s).cycle = s.cycle := rfl
@[simp] theorem istore_xreg (k : Nat) (v : BitVec 256) (s : State) : ((Upd.istore k v).apply s).xreg = s.xreg := rfl
@[simp] theorem istore_vreg (k : Nat) (v : BitVec 256) (s : State) : ((Upd.istore k v).apply s).vreg = s.vreg := rfl
@[simp] theorem istore_preg (k : Nat) (v : BitVec 256) (s : State) : ((Upd.istore k v).apply s).preg = s.preg := rfl
@[simp] theorem istore_breg (k : Nat) (v : BitVec 256) (s : State) : ((Upd.istore k v).apply s).breg = s.breg := rfl
@[simp] theorem istore_latch (k : Nat) (v : BitVec 256) (s : State) : ((Upd.istore k v).apply s).latch = s.latch := rfl
@[simp] theorem istore_tile (k : Nat) (v : BitVec 256) (s : State) : ((Upd.istore k v).apply s).tile = s.tile := rfl
@[simp] theorem istore_sysreg (k : Nat) (v : BitVec 256) (s : State) : ((Upd.istore k v).apply s).sysreg = s.sysreg := rfl
@[simp] theorem istore_tags (k : Nat) (v : BitVec 256) (s : State) : ((Upd.istore k v).apply s).tags = s.tags := rfl
@[simp] theorem istore_istore (k : Nat) (v : BitVec 256) (s : State) : ((Upd.istore k v).apply s).istore = tput s.istore k v := rfl
@[simp] theorem istore_sstore (k : Nat) (v : BitVec 256) (s : State) : ((Upd.istore k v).apply s).sstore = s.sstore := rfl
@[simp] theorem istore_planes (k : Nat) (v : BitVec 256) (s : State) : ((Upd.istore k v).apply s).planes = s.planes := rfl
@[simp] theorem istore_spad (k : Nat) (v : BitVec 256) (s : State) : ((Upd.istore k v).apply s).spad = s.spad := rfl
@[simp] theorem istore_dram (k : Nat) (v : BitVec 256) (s : State) : ((Upd.istore k v).apply s).dram = s.dram := rfl
@[simp] theorem istore_hostm (k : Nat) (v : BitVec 256) (s : State) : ((Upd.istore k v).apply s).hostm = s.hostm := rfl
@[simp] theorem istore_upsets (k : Nat) (v : BitVec 256) (s : State) : ((Upd.istore k v).apply s).upsets = s.upsets := rfl
@[simp] theorem istore_cores (k : Nat) (v : BitVec 256) (s : State) : ((Upd.istore k v).apply s).cores = s.cores := rfl
@[simp] theorem istore_vaults (k : Nat) (v : BitVec 256) (s : State) : ((Upd.istore k v).apply s).vaults = s.vaults := rfl
@[simp] theorem istore_yards (k : Nat) (v : BitVec 256) (s : State) : ((Upd.istore k v).apply s).yards = s.yards := rfl
@[simp] theorem istore_tasks (k : Nat) (v : BitVec 256) (s : State) : ((Upd.istore k v).apply s).tasks = s.tasks := rfl
@[simp] theorem istore_scopes (k : Nat) (v : BitVec 256) (s : State) : ((Upd.istore k v).apply s).scopes = s.scopes := rfl
@[simp] theorem istore_ctxs (k : Nat) (v : BitVec 256) (s : State) : ((Upd.istore k v).apply s).ctxs = s.ctxs := rfl
@[simp] theorem istore_ops (k : Nat) (v : BitVec 256) (s : State) : ((Upd.istore k v).apply s).ops = s.ops := rfl
@[simp] theorem istore_reqs (k : Nat) (v : BitVec 256) (s : State) : ((Upd.istore k v).apply s).reqs = s.reqs := rfl
@[simp] theorem istore_pkts (k : Nat) (v : BitVec 256) (s : State) : ((Upd.istore k v).apply s).pkts = s.pkts := rfl
@[simp] theorem istore_dev (k : Nat) (v : BitVec 256) (s : State) : ((Upd.istore k v).apply s).dev = s.dev := rfl
@[simp] theorem istore_agenda (k : Nat) (v : BitVec 256) (s : State) : ((Upd.istore k v).apply s).agenda = s.agenda := rfl
@[simp] theorem istore_fresh (k : Nat) (v : BitVec 256) (s : State) : ((Upd.istore k v).apply s).fresh = s.fresh := rfl
@[simp] theorem istore_nid (k : Nat) (v : BitVec 256) (s : State) : ((Upd.istore k v).apply s).nid = s.nid := rfl
@[simp] theorem istore_iss (k : Nat) (v : BitVec 256) (s : State) : ((Upd.istore k v).apply s).iss = s.iss := rfl

@[simp] theorem load_cycle (n : Nat) (bs : List (BitVec 256)) (s : State) : ((Upd.load n bs).apply s).cycle = s.cycle := rfl
@[simp] theorem load_xreg (n : Nat) (bs : List (BitVec 256)) (s : State) : ((Upd.load n bs).apply s).xreg = s.xreg := rfl
@[simp] theorem load_vreg (n : Nat) (bs : List (BitVec 256)) (s : State) : ((Upd.load n bs).apply s).vreg = s.vreg := rfl
@[simp] theorem load_preg (n : Nat) (bs : List (BitVec 256)) (s : State) : ((Upd.load n bs).apply s).preg = s.preg := rfl
@[simp] theorem load_breg (n : Nat) (bs : List (BitVec 256)) (s : State) : ((Upd.load n bs).apply s).breg = s.breg := rfl
@[simp] theorem load_latch (n : Nat) (bs : List (BitVec 256)) (s : State) : ((Upd.load n bs).apply s).latch = s.latch := rfl
@[simp] theorem load_tile (n : Nat) (bs : List (BitVec 256)) (s : State) : ((Upd.load n bs).apply s).tile = s.tile := rfl
@[simp] theorem load_sysreg (n : Nat) (bs : List (BitVec 256)) (s : State) : ((Upd.load n bs).apply s).sysreg = s.sysreg := rfl
@[simp] theorem load_tags (n : Nat) (bs : List (BitVec 256)) (s : State) : ((Upd.load n bs).apply s).tags = s.tags := rfl
@[simp] theorem load_sstore (n : Nat) (bs : List (BitVec 256)) (s : State) : ((Upd.load n bs).apply s).sstore = s.sstore := rfl
@[simp] theorem load_planes (n : Nat) (bs : List (BitVec 256)) (s : State) : ((Upd.load n bs).apply s).planes = s.planes := rfl
@[simp] theorem load_spad (n : Nat) (bs : List (BitVec 256)) (s : State) : ((Upd.load n bs).apply s).spad = s.spad := rfl
@[simp] theorem load_dram (n : Nat) (bs : List (BitVec 256)) (s : State) : ((Upd.load n bs).apply s).dram = s.dram := rfl
@[simp] theorem load_hostm (n : Nat) (bs : List (BitVec 256)) (s : State) : ((Upd.load n bs).apply s).hostm = s.hostm := rfl
@[simp] theorem load_upsets (n : Nat) (bs : List (BitVec 256)) (s : State) : ((Upd.load n bs).apply s).upsets = s.upsets := rfl
@[simp] theorem load_cores (n : Nat) (bs : List (BitVec 256)) (s : State) : ((Upd.load n bs).apply s).cores = s.cores := rfl
@[simp] theorem load_vaults (n : Nat) (bs : List (BitVec 256)) (s : State) : ((Upd.load n bs).apply s).vaults = s.vaults := rfl
@[simp] theorem load_yards (n : Nat) (bs : List (BitVec 256)) (s : State) : ((Upd.load n bs).apply s).yards = s.yards := rfl
@[simp] theorem load_tasks (n : Nat) (bs : List (BitVec 256)) (s : State) : ((Upd.load n bs).apply s).tasks = s.tasks := rfl
@[simp] theorem load_scopes (n : Nat) (bs : List (BitVec 256)) (s : State) : ((Upd.load n bs).apply s).scopes = s.scopes := rfl
@[simp] theorem load_ctxs (n : Nat) (bs : List (BitVec 256)) (s : State) : ((Upd.load n bs).apply s).ctxs = s.ctxs := rfl
@[simp] theorem load_ops (n : Nat) (bs : List (BitVec 256)) (s : State) : ((Upd.load n bs).apply s).ops = s.ops := rfl
@[simp] theorem load_reqs (n : Nat) (bs : List (BitVec 256)) (s : State) : ((Upd.load n bs).apply s).reqs = s.reqs := rfl
@[simp] theorem load_pkts (n : Nat) (bs : List (BitVec 256)) (s : State) : ((Upd.load n bs).apply s).pkts = s.pkts := rfl
@[simp] theorem load_dev (n : Nat) (bs : List (BitVec 256)) (s : State) : ((Upd.load n bs).apply s).dev = s.dev := rfl
@[simp] theorem load_agenda (n : Nat) (bs : List (BitVec 256)) (s : State) : ((Upd.load n bs).apply s).agenda = s.agenda := rfl
@[simp] theorem load_fresh (n : Nat) (bs : List (BitVec 256)) (s : State) : ((Upd.load n bs).apply s).fresh = s.fresh := rfl
@[simp] theorem load_nid (n : Nat) (bs : List (BitVec 256)) (s : State) : ((Upd.load n bs).apply s).nid = s.nid := rfl
@[simp] theorem load_iss (n : Nat) (bs : List (BitVec 256)) (s : State) : ((Upd.load n bs).apply s).iss = s.iss := rfl

@[simp] theorem sstore_cycle (k : Nat) (v : BitVec 256) (s : State) : ((Upd.sstore k v).apply s).cycle = s.cycle := rfl
@[simp] theorem sstore_xreg (k : Nat) (v : BitVec 256) (s : State) : ((Upd.sstore k v).apply s).xreg = s.xreg := rfl
@[simp] theorem sstore_vreg (k : Nat) (v : BitVec 256) (s : State) : ((Upd.sstore k v).apply s).vreg = s.vreg := rfl
@[simp] theorem sstore_preg (k : Nat) (v : BitVec 256) (s : State) : ((Upd.sstore k v).apply s).preg = s.preg := rfl
@[simp] theorem sstore_breg (k : Nat) (v : BitVec 256) (s : State) : ((Upd.sstore k v).apply s).breg = s.breg := rfl
@[simp] theorem sstore_latch (k : Nat) (v : BitVec 256) (s : State) : ((Upd.sstore k v).apply s).latch = s.latch := rfl
@[simp] theorem sstore_tile (k : Nat) (v : BitVec 256) (s : State) : ((Upd.sstore k v).apply s).tile = s.tile := rfl
@[simp] theorem sstore_sysreg (k : Nat) (v : BitVec 256) (s : State) : ((Upd.sstore k v).apply s).sysreg = s.sysreg := rfl
@[simp] theorem sstore_tags (k : Nat) (v : BitVec 256) (s : State) : ((Upd.sstore k v).apply s).tags = s.tags := rfl
@[simp] theorem sstore_istore (k : Nat) (v : BitVec 256) (s : State) : ((Upd.sstore k v).apply s).istore = s.istore := rfl
@[simp] theorem sstore_sstore (k : Nat) (v : BitVec 256) (s : State) : ((Upd.sstore k v).apply s).sstore = tput s.sstore k v := rfl
@[simp] theorem sstore_planes (k : Nat) (v : BitVec 256) (s : State) : ((Upd.sstore k v).apply s).planes = s.planes := rfl
@[simp] theorem sstore_spad (k : Nat) (v : BitVec 256) (s : State) : ((Upd.sstore k v).apply s).spad = s.spad := rfl
@[simp] theorem sstore_dram (k : Nat) (v : BitVec 256) (s : State) : ((Upd.sstore k v).apply s).dram = s.dram := rfl
@[simp] theorem sstore_hostm (k : Nat) (v : BitVec 256) (s : State) : ((Upd.sstore k v).apply s).hostm = s.hostm := rfl
@[simp] theorem sstore_upsets (k : Nat) (v : BitVec 256) (s : State) : ((Upd.sstore k v).apply s).upsets = s.upsets := rfl
@[simp] theorem sstore_cores (k : Nat) (v : BitVec 256) (s : State) : ((Upd.sstore k v).apply s).cores = s.cores := rfl
@[simp] theorem sstore_vaults (k : Nat) (v : BitVec 256) (s : State) : ((Upd.sstore k v).apply s).vaults = s.vaults := rfl
@[simp] theorem sstore_yards (k : Nat) (v : BitVec 256) (s : State) : ((Upd.sstore k v).apply s).yards = s.yards := rfl
@[simp] theorem sstore_tasks (k : Nat) (v : BitVec 256) (s : State) : ((Upd.sstore k v).apply s).tasks = s.tasks := rfl
@[simp] theorem sstore_scopes (k : Nat) (v : BitVec 256) (s : State) : ((Upd.sstore k v).apply s).scopes = s.scopes := rfl
@[simp] theorem sstore_ctxs (k : Nat) (v : BitVec 256) (s : State) : ((Upd.sstore k v).apply s).ctxs = s.ctxs := rfl
@[simp] theorem sstore_ops (k : Nat) (v : BitVec 256) (s : State) : ((Upd.sstore k v).apply s).ops = s.ops := rfl
@[simp] theorem sstore_reqs (k : Nat) (v : BitVec 256) (s : State) : ((Upd.sstore k v).apply s).reqs = s.reqs := rfl
@[simp] theorem sstore_pkts (k : Nat) (v : BitVec 256) (s : State) : ((Upd.sstore k v).apply s).pkts = s.pkts := rfl
@[simp] theorem sstore_dev (k : Nat) (v : BitVec 256) (s : State) : ((Upd.sstore k v).apply s).dev = s.dev := rfl
@[simp] theorem sstore_agenda (k : Nat) (v : BitVec 256) (s : State) : ((Upd.sstore k v).apply s).agenda = s.agenda := rfl
@[simp] theorem sstore_fresh (k : Nat) (v : BitVec 256) (s : State) : ((Upd.sstore k v).apply s).fresh = s.fresh := rfl
@[simp] theorem sstore_nid (k : Nat) (v : BitVec 256) (s : State) : ((Upd.sstore k v).apply s).nid = s.nid := rfl
@[simp] theorem sstore_iss (k : Nat) (v : BitVec 256) (s : State) : ((Upd.sstore k v).apply s).iss = s.iss := rfl

@[simp] theorem plane_cycle (k : Nat) (v : Plane) (s : State) : ((Upd.plane k v).apply s).cycle = s.cycle := rfl
@[simp] theorem plane_xreg (k : Nat) (v : Plane) (s : State) : ((Upd.plane k v).apply s).xreg = s.xreg := rfl
@[simp] theorem plane_vreg (k : Nat) (v : Plane) (s : State) : ((Upd.plane k v).apply s).vreg = s.vreg := rfl
@[simp] theorem plane_preg (k : Nat) (v : Plane) (s : State) : ((Upd.plane k v).apply s).preg = s.preg := rfl
@[simp] theorem plane_breg (k : Nat) (v : Plane) (s : State) : ((Upd.plane k v).apply s).breg = s.breg := rfl
@[simp] theorem plane_latch (k : Nat) (v : Plane) (s : State) : ((Upd.plane k v).apply s).latch = s.latch := rfl
@[simp] theorem plane_tile (k : Nat) (v : Plane) (s : State) : ((Upd.plane k v).apply s).tile = s.tile := rfl
@[simp] theorem plane_sysreg (k : Nat) (v : Plane) (s : State) : ((Upd.plane k v).apply s).sysreg = s.sysreg := rfl
@[simp] theorem plane_tags (k : Nat) (v : Plane) (s : State) : ((Upd.plane k v).apply s).tags = s.tags := rfl
@[simp] theorem plane_istore (k : Nat) (v : Plane) (s : State) : ((Upd.plane k v).apply s).istore = s.istore := rfl
@[simp] theorem plane_sstore (k : Nat) (v : Plane) (s : State) : ((Upd.plane k v).apply s).sstore = s.sstore := rfl
@[simp] theorem plane_planes (k : Nat) (v : Plane) (s : State) : ((Upd.plane k v).apply s).planes = tput s.planes k v := rfl
@[simp] theorem plane_spad (k : Nat) (v : Plane) (s : State) : ((Upd.plane k v).apply s).spad = s.spad := rfl
@[simp] theorem plane_dram (k : Nat) (v : Plane) (s : State) : ((Upd.plane k v).apply s).dram = s.dram := rfl
@[simp] theorem plane_hostm (k : Nat) (v : Plane) (s : State) : ((Upd.plane k v).apply s).hostm = s.hostm := rfl
@[simp] theorem plane_upsets (k : Nat) (v : Plane) (s : State) : ((Upd.plane k v).apply s).upsets = s.upsets := rfl
@[simp] theorem plane_cores (k : Nat) (v : Plane) (s : State) : ((Upd.plane k v).apply s).cores = s.cores := rfl
@[simp] theorem plane_vaults (k : Nat) (v : Plane) (s : State) : ((Upd.plane k v).apply s).vaults = s.vaults := rfl
@[simp] theorem plane_yards (k : Nat) (v : Plane) (s : State) : ((Upd.plane k v).apply s).yards = s.yards := rfl
@[simp] theorem plane_tasks (k : Nat) (v : Plane) (s : State) : ((Upd.plane k v).apply s).tasks = s.tasks := rfl
@[simp] theorem plane_scopes (k : Nat) (v : Plane) (s : State) : ((Upd.plane k v).apply s).scopes = s.scopes := rfl
@[simp] theorem plane_ctxs (k : Nat) (v : Plane) (s : State) : ((Upd.plane k v).apply s).ctxs = s.ctxs := rfl
@[simp] theorem plane_ops (k : Nat) (v : Plane) (s : State) : ((Upd.plane k v).apply s).ops = s.ops := rfl
@[simp] theorem plane_reqs (k : Nat) (v : Plane) (s : State) : ((Upd.plane k v).apply s).reqs = s.reqs := rfl
@[simp] theorem plane_pkts (k : Nat) (v : Plane) (s : State) : ((Upd.plane k v).apply s).pkts = s.pkts := rfl
@[simp] theorem plane_dev (k : Nat) (v : Plane) (s : State) : ((Upd.plane k v).apply s).dev = s.dev := rfl
@[simp] theorem plane_agenda (k : Nat) (v : Plane) (s : State) : ((Upd.plane k v).apply s).agenda = s.agenda := rfl
@[simp] theorem plane_fresh (k : Nat) (v : Plane) (s : State) : ((Upd.plane k v).apply s).fresh = s.fresh := rfl
@[simp] theorem plane_nid (k : Nat) (v : Plane) (s : State) : ((Upd.plane k v).apply s).nid = s.nid := rfl
@[simp] theorem plane_iss (k : Nat) (v : Plane) (s : State) : ((Upd.plane k v).apply s).iss = s.iss := rfl

@[simp] theorem v_cycle (n r : Nat) (m v : VWord) (s : State) : ((Upd.v n r m v).apply s).cycle = s.cycle := rfl
@[simp] theorem v_xreg (n r : Nat) (m v : VWord) (s : State) : ((Upd.v n r m v).apply s).xreg = s.xreg := rfl
@[simp] theorem v_vreg (n r : Nat) (m v : VWord) (s : State) : ((Upd.v n r m v).apply s).vreg = tput s.vreg (64 * n + r) ((s.v n r &&& ~~~m) ||| (v &&& m)) := rfl
@[simp] theorem v_preg (n r : Nat) (m v : VWord) (s : State) : ((Upd.v n r m v).apply s).preg = s.preg := rfl
@[simp] theorem v_breg (n r : Nat) (m v : VWord) (s : State) : ((Upd.v n r m v).apply s).breg = s.breg := rfl
@[simp] theorem v_latch (n r : Nat) (m v : VWord) (s : State) : ((Upd.v n r m v).apply s).latch = s.latch := rfl
@[simp] theorem v_tile (n r : Nat) (m v : VWord) (s : State) : ((Upd.v n r m v).apply s).tile = s.tile := rfl
@[simp] theorem v_sysreg (n r : Nat) (m v : VWord) (s : State) : ((Upd.v n r m v).apply s).sysreg = s.sysreg := rfl
@[simp] theorem v_tags (n r : Nat) (m v : VWord) (s : State) : ((Upd.v n r m v).apply s).tags = s.tags := rfl
@[simp] theorem v_istore (n r : Nat) (m v : VWord) (s : State) : ((Upd.v n r m v).apply s).istore = s.istore := rfl
@[simp] theorem v_sstore (n r : Nat) (m v : VWord) (s : State) : ((Upd.v n r m v).apply s).sstore = s.sstore := rfl
@[simp] theorem v_planes (n r : Nat) (m v : VWord) (s : State) : ((Upd.v n r m v).apply s).planes = s.planes := rfl
@[simp] theorem v_spad (n r : Nat) (m v : VWord) (s : State) : ((Upd.v n r m v).apply s).spad = s.spad := rfl
@[simp] theorem v_dram (n r : Nat) (m v : VWord) (s : State) : ((Upd.v n r m v).apply s).dram = s.dram := rfl
@[simp] theorem v_hostm (n r : Nat) (m v : VWord) (s : State) : ((Upd.v n r m v).apply s).hostm = s.hostm := rfl
@[simp] theorem v_upsets (n r : Nat) (m v : VWord) (s : State) : ((Upd.v n r m v).apply s).upsets = s.upsets := rfl
@[simp] theorem v_cores (n r : Nat) (m v : VWord) (s : State) : ((Upd.v n r m v).apply s).cores = s.cores := rfl
@[simp] theorem v_vaults (n r : Nat) (m v : VWord) (s : State) : ((Upd.v n r m v).apply s).vaults = s.vaults := rfl
@[simp] theorem v_yards (n r : Nat) (m v : VWord) (s : State) : ((Upd.v n r m v).apply s).yards = s.yards := rfl
@[simp] theorem v_tasks (n r : Nat) (m v : VWord) (s : State) : ((Upd.v n r m v).apply s).tasks = s.tasks := rfl
@[simp] theorem v_scopes (n r : Nat) (m v : VWord) (s : State) : ((Upd.v n r m v).apply s).scopes = s.scopes := rfl
@[simp] theorem v_ctxs (n r : Nat) (m v : VWord) (s : State) : ((Upd.v n r m v).apply s).ctxs = s.ctxs := rfl
@[simp] theorem v_ops (n r : Nat) (m v : VWord) (s : State) : ((Upd.v n r m v).apply s).ops = s.ops := rfl
@[simp] theorem v_reqs (n r : Nat) (m v : VWord) (s : State) : ((Upd.v n r m v).apply s).reqs = s.reqs := rfl
@[simp] theorem v_pkts (n r : Nat) (m v : VWord) (s : State) : ((Upd.v n r m v).apply s).pkts = s.pkts := rfl
@[simp] theorem v_dev (n r : Nat) (m v : VWord) (s : State) : ((Upd.v n r m v).apply s).dev = s.dev := rfl
@[simp] theorem v_agenda (n r : Nat) (m v : VWord) (s : State) : ((Upd.v n r m v).apply s).agenda = s.agenda := rfl
@[simp] theorem v_fresh (n r : Nat) (m v : VWord) (s : State) : ((Upd.v n r m v).apply s).fresh = s.fresh := rfl
@[simp] theorem v_nid (n r : Nat) (m v : VWord) (s : State) : ((Upd.v n r m v).apply s).nid = s.nid := rfl
@[simp] theorem v_iss (n r : Nat) (m v : VWord) (s : State) : ((Upd.v n r m v).apply s).iss = s.iss := rfl

@[simp] theorem b_cycle (n r : Nat) (o : Option Box) (s : State) : ((Upd.b n r o).apply s).cycle = s.cycle := rfl
@[simp] theorem b_xreg (n r : Nat) (o : Option Box) (s : State) : ((Upd.b n r o).apply s).xreg = s.xreg := rfl
@[simp] theorem b_vreg (n r : Nat) (o : Option Box) (s : State) : ((Upd.b n r o).apply s).vreg = s.vreg := rfl
@[simp] theorem b_preg (n r : Nat) (o : Option Box) (s : State) : ((Upd.b n r o).apply s).preg = s.preg := rfl
@[simp] theorem b_latch (n r : Nat) (o : Option Box) (s : State) : ((Upd.b n r o).apply s).latch = s.latch := rfl
@[simp] theorem b_tile (n r : Nat) (o : Option Box) (s : State) : ((Upd.b n r o).apply s).tile = s.tile := rfl
@[simp] theorem b_sysreg (n r : Nat) (o : Option Box) (s : State) : ((Upd.b n r o).apply s).sysreg = s.sysreg := rfl
@[simp] theorem b_tags (n r : Nat) (o : Option Box) (s : State) : ((Upd.b n r o).apply s).tags = s.tags := rfl
@[simp] theorem b_istore (n r : Nat) (o : Option Box) (s : State) : ((Upd.b n r o).apply s).istore = s.istore := rfl
@[simp] theorem b_sstore (n r : Nat) (o : Option Box) (s : State) : ((Upd.b n r o).apply s).sstore = s.sstore := rfl
@[simp] theorem b_planes (n r : Nat) (o : Option Box) (s : State) : ((Upd.b n r o).apply s).planes = s.planes := rfl
@[simp] theorem b_spad (n r : Nat) (o : Option Box) (s : State) : ((Upd.b n r o).apply s).spad = s.spad := rfl
@[simp] theorem b_dram (n r : Nat) (o : Option Box) (s : State) : ((Upd.b n r o).apply s).dram = s.dram := rfl
@[simp] theorem b_hostm (n r : Nat) (o : Option Box) (s : State) : ((Upd.b n r o).apply s).hostm = s.hostm := rfl
@[simp] theorem b_upsets (n r : Nat) (o : Option Box) (s : State) : ((Upd.b n r o).apply s).upsets = s.upsets := rfl
@[simp] theorem b_cores (n r : Nat) (o : Option Box) (s : State) : ((Upd.b n r o).apply s).cores = s.cores := rfl
@[simp] theorem b_vaults (n r : Nat) (o : Option Box) (s : State) : ((Upd.b n r o).apply s).vaults = s.vaults := rfl
@[simp] theorem b_yards (n r : Nat) (o : Option Box) (s : State) : ((Upd.b n r o).apply s).yards = s.yards := rfl
@[simp] theorem b_tasks (n r : Nat) (o : Option Box) (s : State) : ((Upd.b n r o).apply s).tasks = s.tasks := rfl
@[simp] theorem b_scopes (n r : Nat) (o : Option Box) (s : State) : ((Upd.b n r o).apply s).scopes = s.scopes := rfl
@[simp] theorem b_ctxs (n r : Nat) (o : Option Box) (s : State) : ((Upd.b n r o).apply s).ctxs = s.ctxs := rfl
@[simp] theorem b_ops (n r : Nat) (o : Option Box) (s : State) : ((Upd.b n r o).apply s).ops = s.ops := rfl
@[simp] theorem b_reqs (n r : Nat) (o : Option Box) (s : State) : ((Upd.b n r o).apply s).reqs = s.reqs := rfl
@[simp] theorem b_pkts (n r : Nat) (o : Option Box) (s : State) : ((Upd.b n r o).apply s).pkts = s.pkts := rfl
@[simp] theorem b_dev (n r : Nat) (o : Option Box) (s : State) : ((Upd.b n r o).apply s).dev = s.dev := rfl
@[simp] theorem b_agenda (n r : Nat) (o : Option Box) (s : State) : ((Upd.b n r o).apply s).agenda = s.agenda := rfl
@[simp] theorem b_fresh (n r : Nat) (o : Option Box) (s : State) : ((Upd.b n r o).apply s).fresh = s.fresh := rfl
@[simp] theorem b_nid (n r : Nat) (o : Option Box) (s : State) : ((Upd.b n r o).apply s).nid = s.nid := rfl
@[simp] theorem b_iss (n r : Nat) (o : Option Box) (s : State) : ((Upd.b n r o).apply s).iss = s.iss := rfl

@[simp] theorem clear_cycle (n : Nat) (s : State) : ((Upd.clear n).apply s).cycle = s.cycle := rfl
@[simp] theorem clear_tags (n : Nat) (s : State) : ((Upd.clear n).apply s).tags = s.tags := rfl
@[simp] theorem clear_istore (n : Nat) (s : State) : ((Upd.clear n).apply s).istore = s.istore := rfl
@[simp] theorem clear_sstore (n : Nat) (s : State) : ((Upd.clear n).apply s).sstore = s.sstore := rfl
@[simp] theorem clear_spad (n : Nat) (s : State) : ((Upd.clear n).apply s).spad = s.spad := rfl
@[simp] theorem clear_dram (n : Nat) (s : State) : ((Upd.clear n).apply s).dram = s.dram := rfl
@[simp] theorem clear_hostm (n : Nat) (s : State) : ((Upd.clear n).apply s).hostm = s.hostm := rfl
@[simp] theorem clear_upsets (n : Nat) (s : State) : ((Upd.clear n).apply s).upsets = s.upsets := rfl
@[simp] theorem clear_cores (n : Nat) (s : State) : ((Upd.clear n).apply s).cores = s.cores := rfl
@[simp] theorem clear_vaults (n : Nat) (s : State) : ((Upd.clear n).apply s).vaults = s.vaults := rfl
@[simp] theorem clear_yards (n : Nat) (s : State) : ((Upd.clear n).apply s).yards = s.yards := rfl
@[simp] theorem clear_tasks (n : Nat) (s : State) : ((Upd.clear n).apply s).tasks = s.tasks := rfl
@[simp] theorem clear_scopes (n : Nat) (s : State) : ((Upd.clear n).apply s).scopes = s.scopes := rfl
@[simp] theorem clear_ctxs (n : Nat) (s : State) : ((Upd.clear n).apply s).ctxs = s.ctxs := rfl
@[simp] theorem clear_ops (n : Nat) (s : State) : ((Upd.clear n).apply s).ops = s.ops := rfl
@[simp] theorem clear_reqs (n : Nat) (s : State) : ((Upd.clear n).apply s).reqs = s.reqs := rfl
@[simp] theorem clear_pkts (n : Nat) (s : State) : ((Upd.clear n).apply s).pkts = s.pkts := rfl
@[simp] theorem clear_dev (n : Nat) (s : State) : ((Upd.clear n).apply s).dev = s.dev := rfl
@[simp] theorem clear_agenda (n : Nat) (s : State) : ((Upd.clear n).apply s).agenda = s.agenda := rfl
@[simp] theorem clear_fresh (n : Nat) (s : State) : ((Upd.clear n).apply s).fresh = s.fresh := rfl
@[simp] theorem clear_nid (n : Nat) (s : State) : ((Upd.clear n).apply s).nid = s.nid := rfl
@[simp] theorem clear_iss (n : Nat) (s : State) : ((Upd.clear n).apply s).iss = s.iss := rfl

@[simp] theorem unlatch_cycle (n : Nat) (s : State) : ((Upd.unlatch n).apply s).cycle = s.cycle := rfl
@[simp] theorem unlatch_xreg (n : Nat) (s : State) : ((Upd.unlatch n).apply s).xreg = s.xreg := rfl
@[simp] theorem unlatch_vreg (n : Nat) (s : State) : ((Upd.unlatch n).apply s).vreg = s.vreg := rfl
@[simp] theorem unlatch_preg (n : Nat) (s : State) : ((Upd.unlatch n).apply s).preg = s.preg := rfl
@[simp] theorem unlatch_breg (n : Nat) (s : State) : ((Upd.unlatch n).apply s).breg = s.breg := rfl
@[simp] theorem unlatch_latch (n : Nat) (s : State) : ((Upd.unlatch n).apply s).latch = tclear s.latch (8 * n) 8 := rfl
@[simp] theorem unlatch_tile (n : Nat) (s : State) : ((Upd.unlatch n).apply s).tile = s.tile := rfl
@[simp] theorem unlatch_sysreg (n : Nat) (s : State) : ((Upd.unlatch n).apply s).sysreg = s.sysreg := rfl
@[simp] theorem unlatch_tags (n : Nat) (s : State) : ((Upd.unlatch n).apply s).tags = s.tags := rfl
@[simp] theorem unlatch_istore (n : Nat) (s : State) : ((Upd.unlatch n).apply s).istore = s.istore := rfl
@[simp] theorem unlatch_sstore (n : Nat) (s : State) : ((Upd.unlatch n).apply s).sstore = s.sstore := rfl
@[simp] theorem unlatch_planes (n : Nat) (s : State) : ((Upd.unlatch n).apply s).planes = s.planes := rfl
@[simp] theorem unlatch_spad (n : Nat) (s : State) : ((Upd.unlatch n).apply s).spad = s.spad := rfl
@[simp] theorem unlatch_dram (n : Nat) (s : State) : ((Upd.unlatch n).apply s).dram = s.dram := rfl
@[simp] theorem unlatch_hostm (n : Nat) (s : State) : ((Upd.unlatch n).apply s).hostm = s.hostm := rfl
@[simp] theorem unlatch_upsets (n : Nat) (s : State) : ((Upd.unlatch n).apply s).upsets = s.upsets := rfl
@[simp] theorem unlatch_cores (n : Nat) (s : State) : ((Upd.unlatch n).apply s).cores = s.cores := rfl
@[simp] theorem unlatch_vaults (n : Nat) (s : State) : ((Upd.unlatch n).apply s).vaults = s.vaults := rfl
@[simp] theorem unlatch_yards (n : Nat) (s : State) : ((Upd.unlatch n).apply s).yards = s.yards := rfl
@[simp] theorem unlatch_tasks (n : Nat) (s : State) : ((Upd.unlatch n).apply s).tasks = s.tasks := rfl
@[simp] theorem unlatch_scopes (n : Nat) (s : State) : ((Upd.unlatch n).apply s).scopes = s.scopes := rfl
@[simp] theorem unlatch_ctxs (n : Nat) (s : State) : ((Upd.unlatch n).apply s).ctxs = s.ctxs := rfl
@[simp] theorem unlatch_ops (n : Nat) (s : State) : ((Upd.unlatch n).apply s).ops = s.ops := rfl
@[simp] theorem unlatch_reqs (n : Nat) (s : State) : ((Upd.unlatch n).apply s).reqs = s.reqs := rfl
@[simp] theorem unlatch_pkts (n : Nat) (s : State) : ((Upd.unlatch n).apply s).pkts = s.pkts := rfl
@[simp] theorem unlatch_dev (n : Nat) (s : State) : ((Upd.unlatch n).apply s).dev = s.dev := rfl
@[simp] theorem unlatch_agenda (n : Nat) (s : State) : ((Upd.unlatch n).apply s).agenda = s.agenda := rfl
@[simp] theorem unlatch_fresh (n : Nat) (s : State) : ((Upd.unlatch n).apply s).fresh = s.fresh := rfl
@[simp] theorem unlatch_nid (n : Nat) (s : State) : ((Upd.unlatch n).apply s).nid = s.nid := rfl
@[simp] theorem unlatch_iss (n : Nat) (s : State) : ((Upd.unlatch n).apply s).iss = s.iss := rfl

@[simp] theorem restore_cycle (n : Nat) (c : Saved) (s : State) : ((Upd.restore n c).apply s).cycle = s.cycle := rfl
@[simp] theorem restore_istore (n : Nat) (c : Saved) (s : State) : ((Upd.restore n c).apply s).istore = s.istore := rfl
@[simp] theorem restore_sstore (n : Nat) (c : Saved) (s : State) : ((Upd.restore n c).apply s).sstore = s.sstore := rfl
@[simp] theorem restore_spad (n : Nat) (c : Saved) (s : State) : ((Upd.restore n c).apply s).spad = s.spad := rfl
@[simp] theorem restore_dram (n : Nat) (c : Saved) (s : State) : ((Upd.restore n c).apply s).dram = s.dram := rfl
@[simp] theorem restore_hostm (n : Nat) (c : Saved) (s : State) : ((Upd.restore n c).apply s).hostm = s.hostm := rfl
@[simp] theorem restore_upsets (n : Nat) (c : Saved) (s : State) : ((Upd.restore n c).apply s).upsets = s.upsets := rfl
@[simp] theorem restore_cores (n : Nat) (c : Saved) (s : State) : ((Upd.restore n c).apply s).cores = s.cores := rfl
@[simp] theorem restore_vaults (n : Nat) (c : Saved) (s : State) : ((Upd.restore n c).apply s).vaults = s.vaults := rfl
@[simp] theorem restore_yards (n : Nat) (c : Saved) (s : State) : ((Upd.restore n c).apply s).yards = s.yards := rfl
@[simp] theorem restore_tasks (n : Nat) (c : Saved) (s : State) : ((Upd.restore n c).apply s).tasks = s.tasks := rfl
@[simp] theorem restore_scopes (n : Nat) (c : Saved) (s : State) : ((Upd.restore n c).apply s).scopes = s.scopes := rfl
@[simp] theorem restore_ctxs (n : Nat) (c : Saved) (s : State) : ((Upd.restore n c).apply s).ctxs = s.ctxs := rfl
@[simp] theorem restore_ops (n : Nat) (c : Saved) (s : State) : ((Upd.restore n c).apply s).ops = s.ops := rfl
@[simp] theorem restore_reqs (n : Nat) (c : Saved) (s : State) : ((Upd.restore n c).apply s).reqs = s.reqs := rfl
@[simp] theorem restore_pkts (n : Nat) (c : Saved) (s : State) : ((Upd.restore n c).apply s).pkts = s.pkts := rfl
@[simp] theorem restore_dev (n : Nat) (c : Saved) (s : State) : ((Upd.restore n c).apply s).dev = s.dev := rfl
@[simp] theorem restore_agenda (n : Nat) (c : Saved) (s : State) : ((Upd.restore n c).apply s).agenda = s.agenda := rfl
@[simp] theorem restore_fresh (n : Nat) (c : Saved) (s : State) : ((Upd.restore n c).apply s).fresh = s.fresh := rfl
@[simp] theorem restore_nid (n : Nat) (c : Saved) (s : State) : ((Upd.restore n c).apply s).nid = s.nid := rfl
@[simp] theorem restore_iss (n : Nat) (c : Saved) (s : State) : ((Upd.restore n c).apply s).iss = s.iss := rfl

@[simp] theorem upset_cycle (l : List (Nat × Nat × Nat)) (s : State) : ((Upd.upset l).apply s).cycle = s.cycle := rfl
@[simp] theorem upset_xreg (l : List (Nat × Nat × Nat)) (s : State) : ((Upd.upset l).apply s).xreg = s.xreg := rfl
@[simp] theorem upset_vreg (l : List (Nat × Nat × Nat)) (s : State) : ((Upd.upset l).apply s).vreg = s.vreg := rfl
@[simp] theorem upset_preg (l : List (Nat × Nat × Nat)) (s : State) : ((Upd.upset l).apply s).preg = s.preg := rfl
@[simp] theorem upset_breg (l : List (Nat × Nat × Nat)) (s : State) : ((Upd.upset l).apply s).breg = s.breg := rfl
@[simp] theorem upset_latch (l : List (Nat × Nat × Nat)) (s : State) : ((Upd.upset l).apply s).latch = s.latch := rfl
@[simp] theorem upset_tile (l : List (Nat × Nat × Nat)) (s : State) : ((Upd.upset l).apply s).tile = s.tile := rfl
@[simp] theorem upset_sysreg (l : List (Nat × Nat × Nat)) (s : State) : ((Upd.upset l).apply s).sysreg = s.sysreg := rfl
@[simp] theorem upset_tags (l : List (Nat × Nat × Nat)) (s : State) : ((Upd.upset l).apply s).tags = s.tags := rfl
@[simp] theorem upset_istore (l : List (Nat × Nat × Nat)) (s : State) : ((Upd.upset l).apply s).istore = s.istore := rfl
@[simp] theorem upset_sstore (l : List (Nat × Nat × Nat)) (s : State) : ((Upd.upset l).apply s).sstore = s.sstore := rfl
@[simp] theorem upset_planes (l : List (Nat × Nat × Nat)) (s : State) : ((Upd.upset l).apply s).planes = s.planes := rfl
@[simp] theorem upset_spad (l : List (Nat × Nat × Nat)) (s : State) : ((Upd.upset l).apply s).spad = s.spad := rfl
@[simp] theorem upset_dram (l : List (Nat × Nat × Nat)) (s : State) : ((Upd.upset l).apply s).dram = s.dram := rfl
@[simp] theorem upset_hostm (l : List (Nat × Nat × Nat)) (s : State) : ((Upd.upset l).apply s).hostm = s.hostm := rfl
@[simp] theorem upset_upsets (l : List (Nat × Nat × Nat)) (s : State) : ((Upd.upset l).apply s).upsets = l := rfl
@[simp] theorem upset_cores (l : List (Nat × Nat × Nat)) (s : State) : ((Upd.upset l).apply s).cores = s.cores := rfl
@[simp] theorem upset_vaults (l : List (Nat × Nat × Nat)) (s : State) : ((Upd.upset l).apply s).vaults = s.vaults := rfl
@[simp] theorem upset_yards (l : List (Nat × Nat × Nat)) (s : State) : ((Upd.upset l).apply s).yards = s.yards := rfl
@[simp] theorem upset_tasks (l : List (Nat × Nat × Nat)) (s : State) : ((Upd.upset l).apply s).tasks = s.tasks := rfl
@[simp] theorem upset_scopes (l : List (Nat × Nat × Nat)) (s : State) : ((Upd.upset l).apply s).scopes = s.scopes := rfl
@[simp] theorem upset_ctxs (l : List (Nat × Nat × Nat)) (s : State) : ((Upd.upset l).apply s).ctxs = s.ctxs := rfl
@[simp] theorem upset_ops (l : List (Nat × Nat × Nat)) (s : State) : ((Upd.upset l).apply s).ops = s.ops := rfl
@[simp] theorem upset_reqs (l : List (Nat × Nat × Nat)) (s : State) : ((Upd.upset l).apply s).reqs = s.reqs := rfl
@[simp] theorem upset_pkts (l : List (Nat × Nat × Nat)) (s : State) : ((Upd.upset l).apply s).pkts = s.pkts := rfl
@[simp] theorem upset_dev (l : List (Nat × Nat × Nat)) (s : State) : ((Upd.upset l).apply s).dev = s.dev := rfl
@[simp] theorem upset_agenda (l : List (Nat × Nat × Nat)) (s : State) : ((Upd.upset l).apply s).agenda = s.agenda := rfl
@[simp] theorem upset_fresh (l : List (Nat × Nat × Nat)) (s : State) : ((Upd.upset l).apply s).fresh = s.fresh := rfl
@[simp] theorem upset_nid (l : List (Nat × Nat × Nat)) (s : State) : ((Upd.upset l).apply s).nid = s.nid := rfl
@[simp] theorem upset_iss (l : List (Nat × Nat × Nat)) (s : State) : ((Upd.upset l).apply s).iss = s.iss := rfl

@[simp] theorem vault_cycle (k : Nat) (f : Vault → Vault) (s : State) : ((Upd.vault k f).apply s).cycle = s.cycle := rfl
@[simp] theorem vault_xreg (k : Nat) (f : Vault → Vault) (s : State) : ((Upd.vault k f).apply s).xreg = s.xreg := rfl
@[simp] theorem vault_vreg (k : Nat) (f : Vault → Vault) (s : State) : ((Upd.vault k f).apply s).vreg = s.vreg := rfl
@[simp] theorem vault_preg (k : Nat) (f : Vault → Vault) (s : State) : ((Upd.vault k f).apply s).preg = s.preg := rfl
@[simp] theorem vault_breg (k : Nat) (f : Vault → Vault) (s : State) : ((Upd.vault k f).apply s).breg = s.breg := rfl
@[simp] theorem vault_latch (k : Nat) (f : Vault → Vault) (s : State) : ((Upd.vault k f).apply s).latch = s.latch := rfl
@[simp] theorem vault_tile (k : Nat) (f : Vault → Vault) (s : State) : ((Upd.vault k f).apply s).tile = s.tile := rfl
@[simp] theorem vault_sysreg (k : Nat) (f : Vault → Vault) (s : State) : ((Upd.vault k f).apply s).sysreg = s.sysreg := rfl
@[simp] theorem vault_tags (k : Nat) (f : Vault → Vault) (s : State) : ((Upd.vault k f).apply s).tags = s.tags := rfl
@[simp] theorem vault_istore (k : Nat) (f : Vault → Vault) (s : State) : ((Upd.vault k f).apply s).istore = s.istore := rfl
@[simp] theorem vault_sstore (k : Nat) (f : Vault → Vault) (s : State) : ((Upd.vault k f).apply s).sstore = s.sstore := rfl
@[simp] theorem vault_planes (k : Nat) (f : Vault → Vault) (s : State) : ((Upd.vault k f).apply s).planes = s.planes := rfl
@[simp] theorem vault_spad (k : Nat) (f : Vault → Vault) (s : State) : ((Upd.vault k f).apply s).spad = s.spad := rfl
@[simp] theorem vault_dram (k : Nat) (f : Vault → Vault) (s : State) : ((Upd.vault k f).apply s).dram = s.dram := rfl
@[simp] theorem vault_hostm (k : Nat) (f : Vault → Vault) (s : State) : ((Upd.vault k f).apply s).hostm = s.hostm := rfl
@[simp] theorem vault_upsets (k : Nat) (f : Vault → Vault) (s : State) : ((Upd.vault k f).apply s).upsets = s.upsets := rfl
@[simp] theorem vault_cores (k : Nat) (f : Vault → Vault) (s : State) : ((Upd.vault k f).apply s).cores = s.cores := rfl
@[simp] theorem vault_vaults (k : Nat) (f : Vault → Vault) (s : State) : ((Upd.vault k f).apply s).vaults = tput s.vaults k (f (s.vault k)) := rfl
@[simp] theorem vault_yards (k : Nat) (f : Vault → Vault) (s : State) : ((Upd.vault k f).apply s).yards = s.yards := rfl
@[simp] theorem vault_tasks (k : Nat) (f : Vault → Vault) (s : State) : ((Upd.vault k f).apply s).tasks = s.tasks := rfl
@[simp] theorem vault_scopes (k : Nat) (f : Vault → Vault) (s : State) : ((Upd.vault k f).apply s).scopes = s.scopes := rfl
@[simp] theorem vault_ctxs (k : Nat) (f : Vault → Vault) (s : State) : ((Upd.vault k f).apply s).ctxs = s.ctxs := rfl
@[simp] theorem vault_ops (k : Nat) (f : Vault → Vault) (s : State) : ((Upd.vault k f).apply s).ops = s.ops := rfl
@[simp] theorem vault_reqs (k : Nat) (f : Vault → Vault) (s : State) : ((Upd.vault k f).apply s).reqs = s.reqs := rfl
@[simp] theorem vault_pkts (k : Nat) (f : Vault → Vault) (s : State) : ((Upd.vault k f).apply s).pkts = s.pkts := rfl
@[simp] theorem vault_dev (k : Nat) (f : Vault → Vault) (s : State) : ((Upd.vault k f).apply s).dev = s.dev := rfl
@[simp] theorem vault_agenda (k : Nat) (f : Vault → Vault) (s : State) : ((Upd.vault k f).apply s).agenda = s.agenda := rfl
@[simp] theorem vault_fresh (k : Nat) (f : Vault → Vault) (s : State) : ((Upd.vault k f).apply s).fresh = s.fresh := rfl
@[simp] theorem vault_nid (k : Nat) (f : Vault → Vault) (s : State) : ((Upd.vault k f).apply s).nid = s.nid := rfl
@[simp] theorem vault_iss (k : Nat) (f : Vault → Vault) (s : State) : ((Upd.vault k f).apply s).iss = s.iss := rfl

@[simp] theorem yard_cycle (k : Nat) (f : Yard → Yard) (s : State) : ((Upd.yard k f).apply s).cycle = s.cycle := rfl
@[simp] theorem yard_xreg (k : Nat) (f : Yard → Yard) (s : State) : ((Upd.yard k f).apply s).xreg = s.xreg := rfl
@[simp] theorem yard_vreg (k : Nat) (f : Yard → Yard) (s : State) : ((Upd.yard k f).apply s).vreg = s.vreg := rfl
@[simp] theorem yard_preg (k : Nat) (f : Yard → Yard) (s : State) : ((Upd.yard k f).apply s).preg = s.preg := rfl
@[simp] theorem yard_breg (k : Nat) (f : Yard → Yard) (s : State) : ((Upd.yard k f).apply s).breg = s.breg := rfl
@[simp] theorem yard_latch (k : Nat) (f : Yard → Yard) (s : State) : ((Upd.yard k f).apply s).latch = s.latch := rfl
@[simp] theorem yard_tile (k : Nat) (f : Yard → Yard) (s : State) : ((Upd.yard k f).apply s).tile = s.tile := rfl
@[simp] theorem yard_sysreg (k : Nat) (f : Yard → Yard) (s : State) : ((Upd.yard k f).apply s).sysreg = s.sysreg := rfl
@[simp] theorem yard_tags (k : Nat) (f : Yard → Yard) (s : State) : ((Upd.yard k f).apply s).tags = s.tags := rfl
@[simp] theorem yard_istore (k : Nat) (f : Yard → Yard) (s : State) : ((Upd.yard k f).apply s).istore = s.istore := rfl
@[simp] theorem yard_sstore (k : Nat) (f : Yard → Yard) (s : State) : ((Upd.yard k f).apply s).sstore = s.sstore := rfl
@[simp] theorem yard_planes (k : Nat) (f : Yard → Yard) (s : State) : ((Upd.yard k f).apply s).planes = s.planes := rfl
@[simp] theorem yard_spad (k : Nat) (f : Yard → Yard) (s : State) : ((Upd.yard k f).apply s).spad = s.spad := rfl
@[simp] theorem yard_dram (k : Nat) (f : Yard → Yard) (s : State) : ((Upd.yard k f).apply s).dram = s.dram := rfl
@[simp] theorem yard_hostm (k : Nat) (f : Yard → Yard) (s : State) : ((Upd.yard k f).apply s).hostm = s.hostm := rfl
@[simp] theorem yard_upsets (k : Nat) (f : Yard → Yard) (s : State) : ((Upd.yard k f).apply s).upsets = s.upsets := rfl
@[simp] theorem yard_cores (k : Nat) (f : Yard → Yard) (s : State) : ((Upd.yard k f).apply s).cores = s.cores := rfl
@[simp] theorem yard_vaults (k : Nat) (f : Yard → Yard) (s : State) : ((Upd.yard k f).apply s).vaults = s.vaults := rfl
@[simp] theorem yard_yards (k : Nat) (f : Yard → Yard) (s : State) : ((Upd.yard k f).apply s).yards = tput s.yards k (f (s.yard k)) := rfl
@[simp] theorem yard_tasks (k : Nat) (f : Yard → Yard) (s : State) : ((Upd.yard k f).apply s).tasks = s.tasks := rfl
@[simp] theorem yard_scopes (k : Nat) (f : Yard → Yard) (s : State) : ((Upd.yard k f).apply s).scopes = s.scopes := rfl
@[simp] theorem yard_ctxs (k : Nat) (f : Yard → Yard) (s : State) : ((Upd.yard k f).apply s).ctxs = s.ctxs := rfl
@[simp] theorem yard_ops (k : Nat) (f : Yard → Yard) (s : State) : ((Upd.yard k f).apply s).ops = s.ops := rfl
@[simp] theorem yard_reqs (k : Nat) (f : Yard → Yard) (s : State) : ((Upd.yard k f).apply s).reqs = s.reqs := rfl
@[simp] theorem yard_pkts (k : Nat) (f : Yard → Yard) (s : State) : ((Upd.yard k f).apply s).pkts = s.pkts := rfl
@[simp] theorem yard_dev (k : Nat) (f : Yard → Yard) (s : State) : ((Upd.yard k f).apply s).dev = s.dev := rfl
@[simp] theorem yard_agenda (k : Nat) (f : Yard → Yard) (s : State) : ((Upd.yard k f).apply s).agenda = s.agenda := rfl
@[simp] theorem yard_fresh (k : Nat) (f : Yard → Yard) (s : State) : ((Upd.yard k f).apply s).fresh = s.fresh := rfl
@[simp] theorem yard_nid (k : Nat) (f : Yard → Yard) (s : State) : ((Upd.yard k f).apply s).nid = s.nid := rfl
@[simp] theorem yard_iss (k : Nat) (f : Yard → Yard) (s : State) : ((Upd.yard k f).apply s).iss = s.iss := rfl

@[simp] theorem task_cycle (k : Nat) (f : Task → Task) (s : State) : ((Upd.task k f).apply s).cycle = s.cycle := rfl
@[simp] theorem task_xreg (k : Nat) (f : Task → Task) (s : State) : ((Upd.task k f).apply s).xreg = s.xreg := rfl
@[simp] theorem task_vreg (k : Nat) (f : Task → Task) (s : State) : ((Upd.task k f).apply s).vreg = s.vreg := rfl
@[simp] theorem task_preg (k : Nat) (f : Task → Task) (s : State) : ((Upd.task k f).apply s).preg = s.preg := rfl
@[simp] theorem task_breg (k : Nat) (f : Task → Task) (s : State) : ((Upd.task k f).apply s).breg = s.breg := rfl
@[simp] theorem task_latch (k : Nat) (f : Task → Task) (s : State) : ((Upd.task k f).apply s).latch = s.latch := rfl
@[simp] theorem task_tile (k : Nat) (f : Task → Task) (s : State) : ((Upd.task k f).apply s).tile = s.tile := rfl
@[simp] theorem task_sysreg (k : Nat) (f : Task → Task) (s : State) : ((Upd.task k f).apply s).sysreg = s.sysreg := rfl
@[simp] theorem task_tags (k : Nat) (f : Task → Task) (s : State) : ((Upd.task k f).apply s).tags = s.tags := rfl
@[simp] theorem task_istore (k : Nat) (f : Task → Task) (s : State) : ((Upd.task k f).apply s).istore = s.istore := rfl
@[simp] theorem task_sstore (k : Nat) (f : Task → Task) (s : State) : ((Upd.task k f).apply s).sstore = s.sstore := rfl
@[simp] theorem task_planes (k : Nat) (f : Task → Task) (s : State) : ((Upd.task k f).apply s).planes = s.planes := rfl
@[simp] theorem task_spad (k : Nat) (f : Task → Task) (s : State) : ((Upd.task k f).apply s).spad = s.spad := rfl
@[simp] theorem task_dram (k : Nat) (f : Task → Task) (s : State) : ((Upd.task k f).apply s).dram = s.dram := rfl
@[simp] theorem task_hostm (k : Nat) (f : Task → Task) (s : State) : ((Upd.task k f).apply s).hostm = s.hostm := rfl
@[simp] theorem task_upsets (k : Nat) (f : Task → Task) (s : State) : ((Upd.task k f).apply s).upsets = s.upsets := rfl
@[simp] theorem task_cores (k : Nat) (f : Task → Task) (s : State) : ((Upd.task k f).apply s).cores = s.cores := rfl
@[simp] theorem task_vaults (k : Nat) (f : Task → Task) (s : State) : ((Upd.task k f).apply s).vaults = s.vaults := rfl
@[simp] theorem task_yards (k : Nat) (f : Task → Task) (s : State) : ((Upd.task k f).apply s).yards = s.yards := rfl
@[simp] theorem task_tasks (k : Nat) (f : Task → Task) (s : State) : ((Upd.task k f).apply s).tasks = tmod s.tasks k f := rfl
@[simp] theorem task_scopes (k : Nat) (f : Task → Task) (s : State) : ((Upd.task k f).apply s).scopes = s.scopes := rfl
@[simp] theorem task_ctxs (k : Nat) (f : Task → Task) (s : State) : ((Upd.task k f).apply s).ctxs = s.ctxs := rfl
@[simp] theorem task_ops (k : Nat) (f : Task → Task) (s : State) : ((Upd.task k f).apply s).ops = s.ops := rfl
@[simp] theorem task_reqs (k : Nat) (f : Task → Task) (s : State) : ((Upd.task k f).apply s).reqs = s.reqs := rfl
@[simp] theorem task_pkts (k : Nat) (f : Task → Task) (s : State) : ((Upd.task k f).apply s).pkts = s.pkts := rfl
@[simp] theorem task_dev (k : Nat) (f : Task → Task) (s : State) : ((Upd.task k f).apply s).dev = s.dev := rfl
@[simp] theorem task_agenda (k : Nat) (f : Task → Task) (s : State) : ((Upd.task k f).apply s).agenda = s.agenda := rfl
@[simp] theorem task_fresh (k : Nat) (f : Task → Task) (s : State) : ((Upd.task k f).apply s).fresh = s.fresh := rfl
@[simp] theorem task_nid (k : Nat) (f : Task → Task) (s : State) : ((Upd.task k f).apply s).nid = s.nid := rfl
@[simp] theorem task_iss (k : Nat) (f : Task → Task) (s : State) : ((Upd.task k f).apply s).iss = s.iss := rfl

@[simp] theorem newTask_cycle (a : Task) (s : State) : ((Upd.newTask a).apply s).cycle = s.cycle := rfl
@[simp] theorem newTask_xreg (a : Task) (s : State) : ((Upd.newTask a).apply s).xreg = s.xreg := rfl
@[simp] theorem newTask_vreg (a : Task) (s : State) : ((Upd.newTask a).apply s).vreg = s.vreg := rfl
@[simp] theorem newTask_preg (a : Task) (s : State) : ((Upd.newTask a).apply s).preg = s.preg := rfl
@[simp] theorem newTask_breg (a : Task) (s : State) : ((Upd.newTask a).apply s).breg = s.breg := rfl
@[simp] theorem newTask_latch (a : Task) (s : State) : ((Upd.newTask a).apply s).latch = s.latch := rfl
@[simp] theorem newTask_tile (a : Task) (s : State) : ((Upd.newTask a).apply s).tile = s.tile := rfl
@[simp] theorem newTask_sysreg (a : Task) (s : State) : ((Upd.newTask a).apply s).sysreg = s.sysreg := rfl
@[simp] theorem newTask_tags (a : Task) (s : State) : ((Upd.newTask a).apply s).tags = s.tags := rfl
@[simp] theorem newTask_istore (a : Task) (s : State) : ((Upd.newTask a).apply s).istore = s.istore := rfl
@[simp] theorem newTask_sstore (a : Task) (s : State) : ((Upd.newTask a).apply s).sstore = s.sstore := rfl
@[simp] theorem newTask_planes (a : Task) (s : State) : ((Upd.newTask a).apply s).planes = s.planes := rfl
@[simp] theorem newTask_spad (a : Task) (s : State) : ((Upd.newTask a).apply s).spad = s.spad := rfl
@[simp] theorem newTask_dram (a : Task) (s : State) : ((Upd.newTask a).apply s).dram = s.dram := rfl
@[simp] theorem newTask_hostm (a : Task) (s : State) : ((Upd.newTask a).apply s).hostm = s.hostm := rfl
@[simp] theorem newTask_upsets (a : Task) (s : State) : ((Upd.newTask a).apply s).upsets = s.upsets := rfl
@[simp] theorem newTask_cores (a : Task) (s : State) : ((Upd.newTask a).apply s).cores = s.cores := rfl
@[simp] theorem newTask_vaults (a : Task) (s : State) : ((Upd.newTask a).apply s).vaults = s.vaults := rfl
@[simp] theorem newTask_yards (a : Task) (s : State) : ((Upd.newTask a).apply s).yards = s.yards := rfl
@[simp] theorem newTask_tasks (a : Task) (s : State) : ((Upd.newTask a).apply s).tasks = tput s.tasks s.nid a := rfl
@[simp] theorem newTask_scopes (a : Task) (s : State) : ((Upd.newTask a).apply s).scopes = s.scopes := rfl
@[simp] theorem newTask_ctxs (a : Task) (s : State) : ((Upd.newTask a).apply s).ctxs = s.ctxs := rfl
@[simp] theorem newTask_ops (a : Task) (s : State) : ((Upd.newTask a).apply s).ops = s.ops := rfl
@[simp] theorem newTask_reqs (a : Task) (s : State) : ((Upd.newTask a).apply s).reqs = s.reqs := rfl
@[simp] theorem newTask_pkts (a : Task) (s : State) : ((Upd.newTask a).apply s).pkts = s.pkts := rfl
@[simp] theorem newTask_dev (a : Task) (s : State) : ((Upd.newTask a).apply s).dev = s.dev := rfl
@[simp] theorem newTask_agenda (a : Task) (s : State) : ((Upd.newTask a).apply s).agenda = s.agenda := rfl
@[simp] theorem newTask_fresh (a : Task) (s : State) : ((Upd.newTask a).apply s).fresh = s.fresh := rfl
@[simp] theorem newTask_nid (a : Task) (s : State) : ((Upd.newTask a).apply s).nid = s.nid + 1 := rfl
@[simp] theorem newTask_iss (a : Task) (s : State) : ((Upd.newTask a).apply s).iss = s.iss := rfl

@[simp] theorem delTask_cycle (k : Nat) (s : State) : ((Upd.delTask k).apply s).cycle = s.cycle := rfl
@[simp] theorem delTask_xreg (k : Nat) (s : State) : ((Upd.delTask k).apply s).xreg = s.xreg := rfl
@[simp] theorem delTask_vreg (k : Nat) (s : State) : ((Upd.delTask k).apply s).vreg = s.vreg := rfl
@[simp] theorem delTask_preg (k : Nat) (s : State) : ((Upd.delTask k).apply s).preg = s.preg := rfl
@[simp] theorem delTask_breg (k : Nat) (s : State) : ((Upd.delTask k).apply s).breg = s.breg := rfl
@[simp] theorem delTask_latch (k : Nat) (s : State) : ((Upd.delTask k).apply s).latch = s.latch := rfl
@[simp] theorem delTask_tile (k : Nat) (s : State) : ((Upd.delTask k).apply s).tile = s.tile := rfl
@[simp] theorem delTask_sysreg (k : Nat) (s : State) : ((Upd.delTask k).apply s).sysreg = s.sysreg := rfl
@[simp] theorem delTask_tags (k : Nat) (s : State) : ((Upd.delTask k).apply s).tags = s.tags := rfl
@[simp] theorem delTask_istore (k : Nat) (s : State) : ((Upd.delTask k).apply s).istore = s.istore := rfl
@[simp] theorem delTask_sstore (k : Nat) (s : State) : ((Upd.delTask k).apply s).sstore = s.sstore := rfl
@[simp] theorem delTask_planes (k : Nat) (s : State) : ((Upd.delTask k).apply s).planes = s.planes := rfl
@[simp] theorem delTask_spad (k : Nat) (s : State) : ((Upd.delTask k).apply s).spad = s.spad := rfl
@[simp] theorem delTask_dram (k : Nat) (s : State) : ((Upd.delTask k).apply s).dram = s.dram := rfl
@[simp] theorem delTask_hostm (k : Nat) (s : State) : ((Upd.delTask k).apply s).hostm = s.hostm := rfl
@[simp] theorem delTask_upsets (k : Nat) (s : State) : ((Upd.delTask k).apply s).upsets = s.upsets := rfl
@[simp] theorem delTask_cores (k : Nat) (s : State) : ((Upd.delTask k).apply s).cores = s.cores := rfl
@[simp] theorem delTask_vaults (k : Nat) (s : State) : ((Upd.delTask k).apply s).vaults = s.vaults := rfl
@[simp] theorem delTask_yards (k : Nat) (s : State) : ((Upd.delTask k).apply s).yards = s.yards := rfl
@[simp] theorem delTask_tasks (k : Nat) (s : State) : ((Upd.delTask k).apply s).tasks = tdel s.tasks k := rfl
@[simp] theorem delTask_scopes (k : Nat) (s : State) : ((Upd.delTask k).apply s).scopes = s.scopes := rfl
@[simp] theorem delTask_ctxs (k : Nat) (s : State) : ((Upd.delTask k).apply s).ctxs = s.ctxs := rfl
@[simp] theorem delTask_ops (k : Nat) (s : State) : ((Upd.delTask k).apply s).ops = s.ops := rfl
@[simp] theorem delTask_reqs (k : Nat) (s : State) : ((Upd.delTask k).apply s).reqs = s.reqs := rfl
@[simp] theorem delTask_pkts (k : Nat) (s : State) : ((Upd.delTask k).apply s).pkts = s.pkts := rfl
@[simp] theorem delTask_dev (k : Nat) (s : State) : ((Upd.delTask k).apply s).dev = s.dev := rfl
@[simp] theorem delTask_agenda (k : Nat) (s : State) : ((Upd.delTask k).apply s).agenda = s.agenda := rfl
@[simp] theorem delTask_fresh (k : Nat) (s : State) : ((Upd.delTask k).apply s).fresh = s.fresh := rfl
@[simp] theorem delTask_nid (k : Nat) (s : State) : ((Upd.delTask k).apply s).nid = s.nid := rfl
@[simp] theorem delTask_iss (k : Nat) (s : State) : ((Upd.delTask k).apply s).iss = s.iss := rfl

@[simp] theorem scope_cycle (k : Nat) (a : Scope) (s : State) : ((Upd.scope k a).apply s).cycle = s.cycle := rfl
@[simp] theorem scope_xreg (k : Nat) (a : Scope) (s : State) : ((Upd.scope k a).apply s).xreg = s.xreg := rfl
@[simp] theorem scope_vreg (k : Nat) (a : Scope) (s : State) : ((Upd.scope k a).apply s).vreg = s.vreg := rfl
@[simp] theorem scope_preg (k : Nat) (a : Scope) (s : State) : ((Upd.scope k a).apply s).preg = s.preg := rfl
@[simp] theorem scope_breg (k : Nat) (a : Scope) (s : State) : ((Upd.scope k a).apply s).breg = s.breg := rfl
@[simp] theorem scope_latch (k : Nat) (a : Scope) (s : State) : ((Upd.scope k a).apply s).latch = s.latch := rfl
@[simp] theorem scope_tile (k : Nat) (a : Scope) (s : State) : ((Upd.scope k a).apply s).tile = s.tile := rfl
@[simp] theorem scope_sysreg (k : Nat) (a : Scope) (s : State) : ((Upd.scope k a).apply s).sysreg = s.sysreg := rfl
@[simp] theorem scope_tags (k : Nat) (a : Scope) (s : State) : ((Upd.scope k a).apply s).tags = s.tags := rfl
@[simp] theorem scope_istore (k : Nat) (a : Scope) (s : State) : ((Upd.scope k a).apply s).istore = s.istore := rfl
@[simp] theorem scope_sstore (k : Nat) (a : Scope) (s : State) : ((Upd.scope k a).apply s).sstore = s.sstore := rfl
@[simp] theorem scope_planes (k : Nat) (a : Scope) (s : State) : ((Upd.scope k a).apply s).planes = s.planes := rfl
@[simp] theorem scope_spad (k : Nat) (a : Scope) (s : State) : ((Upd.scope k a).apply s).spad = s.spad := rfl
@[simp] theorem scope_dram (k : Nat) (a : Scope) (s : State) : ((Upd.scope k a).apply s).dram = s.dram := rfl
@[simp] theorem scope_hostm (k : Nat) (a : Scope) (s : State) : ((Upd.scope k a).apply s).hostm = s.hostm := rfl
@[simp] theorem scope_upsets (k : Nat) (a : Scope) (s : State) : ((Upd.scope k a).apply s).upsets = s.upsets := rfl
@[simp] theorem scope_cores (k : Nat) (a : Scope) (s : State) : ((Upd.scope k a).apply s).cores = s.cores := rfl
@[simp] theorem scope_vaults (k : Nat) (a : Scope) (s : State) : ((Upd.scope k a).apply s).vaults = s.vaults := rfl
@[simp] theorem scope_yards (k : Nat) (a : Scope) (s : State) : ((Upd.scope k a).apply s).yards = s.yards := rfl
@[simp] theorem scope_tasks (k : Nat) (a : Scope) (s : State) : ((Upd.scope k a).apply s).tasks = s.tasks := rfl
@[simp] theorem scope_scopes (k : Nat) (a : Scope) (s : State) : ((Upd.scope k a).apply s).scopes = tput s.scopes k a := rfl
@[simp] theorem scope_ctxs (k : Nat) (a : Scope) (s : State) : ((Upd.scope k a).apply s).ctxs = s.ctxs := rfl
@[simp] theorem scope_ops (k : Nat) (a : Scope) (s : State) : ((Upd.scope k a).apply s).ops = s.ops := rfl
@[simp] theorem scope_reqs (k : Nat) (a : Scope) (s : State) : ((Upd.scope k a).apply s).reqs = s.reqs := rfl
@[simp] theorem scope_pkts (k : Nat) (a : Scope) (s : State) : ((Upd.scope k a).apply s).pkts = s.pkts := rfl
@[simp] theorem scope_dev (k : Nat) (a : Scope) (s : State) : ((Upd.scope k a).apply s).dev = s.dev := rfl
@[simp] theorem scope_agenda (k : Nat) (a : Scope) (s : State) : ((Upd.scope k a).apply s).agenda = s.agenda := rfl
@[simp] theorem scope_fresh (k : Nat) (a : Scope) (s : State) : ((Upd.scope k a).apply s).fresh = s.fresh := rfl
@[simp] theorem scope_nid (k : Nat) (a : Scope) (s : State) : ((Upd.scope k a).apply s).nid = s.nid := rfl
@[simp] theorem scope_iss (k : Nat) (a : Scope) (s : State) : ((Upd.scope k a).apply s).iss = s.iss := rfl

@[simp] theorem ctx_cycle (k : Nat) (f : Ctx → Ctx) (s : State) : ((Upd.ctx k f).apply s).cycle = s.cycle := rfl
@[simp] theorem ctx_xreg (k : Nat) (f : Ctx → Ctx) (s : State) : ((Upd.ctx k f).apply s).xreg = s.xreg := rfl
@[simp] theorem ctx_vreg (k : Nat) (f : Ctx → Ctx) (s : State) : ((Upd.ctx k f).apply s).vreg = s.vreg := rfl
@[simp] theorem ctx_preg (k : Nat) (f : Ctx → Ctx) (s : State) : ((Upd.ctx k f).apply s).preg = s.preg := rfl
@[simp] theorem ctx_breg (k : Nat) (f : Ctx → Ctx) (s : State) : ((Upd.ctx k f).apply s).breg = s.breg := rfl
@[simp] theorem ctx_latch (k : Nat) (f : Ctx → Ctx) (s : State) : ((Upd.ctx k f).apply s).latch = s.latch := rfl
@[simp] theorem ctx_tile (k : Nat) (f : Ctx → Ctx) (s : State) : ((Upd.ctx k f).apply s).tile = s.tile := rfl
@[simp] theorem ctx_sysreg (k : Nat) (f : Ctx → Ctx) (s : State) : ((Upd.ctx k f).apply s).sysreg = s.sysreg := rfl
@[simp] theorem ctx_tags (k : Nat) (f : Ctx → Ctx) (s : State) : ((Upd.ctx k f).apply s).tags = s.tags := rfl
@[simp] theorem ctx_istore (k : Nat) (f : Ctx → Ctx) (s : State) : ((Upd.ctx k f).apply s).istore = s.istore := rfl
@[simp] theorem ctx_sstore (k : Nat) (f : Ctx → Ctx) (s : State) : ((Upd.ctx k f).apply s).sstore = s.sstore := rfl
@[simp] theorem ctx_planes (k : Nat) (f : Ctx → Ctx) (s : State) : ((Upd.ctx k f).apply s).planes = s.planes := rfl
@[simp] theorem ctx_spad (k : Nat) (f : Ctx → Ctx) (s : State) : ((Upd.ctx k f).apply s).spad = s.spad := rfl
@[simp] theorem ctx_dram (k : Nat) (f : Ctx → Ctx) (s : State) : ((Upd.ctx k f).apply s).dram = s.dram := rfl
@[simp] theorem ctx_hostm (k : Nat) (f : Ctx → Ctx) (s : State) : ((Upd.ctx k f).apply s).hostm = s.hostm := rfl
@[simp] theorem ctx_upsets (k : Nat) (f : Ctx → Ctx) (s : State) : ((Upd.ctx k f).apply s).upsets = s.upsets := rfl
@[simp] theorem ctx_cores (k : Nat) (f : Ctx → Ctx) (s : State) : ((Upd.ctx k f).apply s).cores = s.cores := rfl
@[simp] theorem ctx_vaults (k : Nat) (f : Ctx → Ctx) (s : State) : ((Upd.ctx k f).apply s).vaults = s.vaults := rfl
@[simp] theorem ctx_yards (k : Nat) (f : Ctx → Ctx) (s : State) : ((Upd.ctx k f).apply s).yards = s.yards := rfl
@[simp] theorem ctx_tasks (k : Nat) (f : Ctx → Ctx) (s : State) : ((Upd.ctx k f).apply s).tasks = s.tasks := rfl
@[simp] theorem ctx_scopes (k : Nat) (f : Ctx → Ctx) (s : State) : ((Upd.ctx k f).apply s).scopes = s.scopes := rfl
@[simp] theorem ctx_ctxs (k : Nat) (f : Ctx → Ctx) (s : State) : ((Upd.ctx k f).apply s).ctxs = tput s.ctxs k (f (s.ctx k)) := rfl
@[simp] theorem ctx_ops (k : Nat) (f : Ctx → Ctx) (s : State) : ((Upd.ctx k f).apply s).ops = s.ops := rfl
@[simp] theorem ctx_reqs (k : Nat) (f : Ctx → Ctx) (s : State) : ((Upd.ctx k f).apply s).reqs = s.reqs := rfl
@[simp] theorem ctx_pkts (k : Nat) (f : Ctx → Ctx) (s : State) : ((Upd.ctx k f).apply s).pkts = s.pkts := rfl
@[simp] theorem ctx_dev (k : Nat) (f : Ctx → Ctx) (s : State) : ((Upd.ctx k f).apply s).dev = s.dev := rfl
@[simp] theorem ctx_agenda (k : Nat) (f : Ctx → Ctx) (s : State) : ((Upd.ctx k f).apply s).agenda = s.agenda := rfl
@[simp] theorem ctx_fresh (k : Nat) (f : Ctx → Ctx) (s : State) : ((Upd.ctx k f).apply s).fresh = s.fresh := rfl
@[simp] theorem ctx_nid (k : Nat) (f : Ctx → Ctx) (s : State) : ((Upd.ctx k f).apply s).nid = s.nid := rfl
@[simp] theorem ctx_iss (k : Nat) (f : Ctx → Ctx) (s : State) : ((Upd.ctx k f).apply s).iss = s.iss := rfl

@[simp] theorem op_cycle (k : Nat) (f : Op → Op) (s : State) : ((Upd.op k f).apply s).cycle = s.cycle := rfl
@[simp] theorem op_xreg (k : Nat) (f : Op → Op) (s : State) : ((Upd.op k f).apply s).xreg = s.xreg := rfl
@[simp] theorem op_vreg (k : Nat) (f : Op → Op) (s : State) : ((Upd.op k f).apply s).vreg = s.vreg := rfl
@[simp] theorem op_preg (k : Nat) (f : Op → Op) (s : State) : ((Upd.op k f).apply s).preg = s.preg := rfl
@[simp] theorem op_breg (k : Nat) (f : Op → Op) (s : State) : ((Upd.op k f).apply s).breg = s.breg := rfl
@[simp] theorem op_latch (k : Nat) (f : Op → Op) (s : State) : ((Upd.op k f).apply s).latch = s.latch := rfl
@[simp] theorem op_tile (k : Nat) (f : Op → Op) (s : State) : ((Upd.op k f).apply s).tile = s.tile := rfl
@[simp] theorem op_sysreg (k : Nat) (f : Op → Op) (s : State) : ((Upd.op k f).apply s).sysreg = s.sysreg := rfl
@[simp] theorem op_tags (k : Nat) (f : Op → Op) (s : State) : ((Upd.op k f).apply s).tags = s.tags := rfl
@[simp] theorem op_istore (k : Nat) (f : Op → Op) (s : State) : ((Upd.op k f).apply s).istore = s.istore := rfl
@[simp] theorem op_sstore (k : Nat) (f : Op → Op) (s : State) : ((Upd.op k f).apply s).sstore = s.sstore := rfl
@[simp] theorem op_planes (k : Nat) (f : Op → Op) (s : State) : ((Upd.op k f).apply s).planes = s.planes := rfl
@[simp] theorem op_spad (k : Nat) (f : Op → Op) (s : State) : ((Upd.op k f).apply s).spad = s.spad := rfl
@[simp] theorem op_dram (k : Nat) (f : Op → Op) (s : State) : ((Upd.op k f).apply s).dram = s.dram := rfl
@[simp] theorem op_hostm (k : Nat) (f : Op → Op) (s : State) : ((Upd.op k f).apply s).hostm = s.hostm := rfl
@[simp] theorem op_upsets (k : Nat) (f : Op → Op) (s : State) : ((Upd.op k f).apply s).upsets = s.upsets := rfl
@[simp] theorem op_cores (k : Nat) (f : Op → Op) (s : State) : ((Upd.op k f).apply s).cores = s.cores := rfl
@[simp] theorem op_vaults (k : Nat) (f : Op → Op) (s : State) : ((Upd.op k f).apply s).vaults = s.vaults := rfl
@[simp] theorem op_yards (k : Nat) (f : Op → Op) (s : State) : ((Upd.op k f).apply s).yards = s.yards := rfl
@[simp] theorem op_tasks (k : Nat) (f : Op → Op) (s : State) : ((Upd.op k f).apply s).tasks = s.tasks := rfl
@[simp] theorem op_scopes (k : Nat) (f : Op → Op) (s : State) : ((Upd.op k f).apply s).scopes = s.scopes := rfl
@[simp] theorem op_ctxs (k : Nat) (f : Op → Op) (s : State) : ((Upd.op k f).apply s).ctxs = s.ctxs := rfl
@[simp] theorem op_ops (k : Nat) (f : Op → Op) (s : State) : ((Upd.op k f).apply s).ops = tmod s.ops k f := rfl
@[simp] theorem op_reqs (k : Nat) (f : Op → Op) (s : State) : ((Upd.op k f).apply s).reqs = s.reqs := rfl
@[simp] theorem op_pkts (k : Nat) (f : Op → Op) (s : State) : ((Upd.op k f).apply s).pkts = s.pkts := rfl
@[simp] theorem op_dev (k : Nat) (f : Op → Op) (s : State) : ((Upd.op k f).apply s).dev = s.dev := rfl
@[simp] theorem op_agenda (k : Nat) (f : Op → Op) (s : State) : ((Upd.op k f).apply s).agenda = s.agenda := rfl
@[simp] theorem op_fresh (k : Nat) (f : Op → Op) (s : State) : ((Upd.op k f).apply s).fresh = s.fresh := rfl
@[simp] theorem op_nid (k : Nat) (f : Op → Op) (s : State) : ((Upd.op k f).apply s).nid = s.nid := rfl
@[simp] theorem op_iss (k : Nat) (f : Op → Op) (s : State) : ((Upd.op k f).apply s).iss = s.iss := rfl

@[simp] theorem newOp_cycle (a : Op) (s : State) : ((Upd.newOp a).apply s).cycle = s.cycle := rfl
@[simp] theorem newOp_xreg (a : Op) (s : State) : ((Upd.newOp a).apply s).xreg = s.xreg := rfl
@[simp] theorem newOp_vreg (a : Op) (s : State) : ((Upd.newOp a).apply s).vreg = s.vreg := rfl
@[simp] theorem newOp_preg (a : Op) (s : State) : ((Upd.newOp a).apply s).preg = s.preg := rfl
@[simp] theorem newOp_breg (a : Op) (s : State) : ((Upd.newOp a).apply s).breg = s.breg := rfl
@[simp] theorem newOp_latch (a : Op) (s : State) : ((Upd.newOp a).apply s).latch = s.latch := rfl
@[simp] theorem newOp_tile (a : Op) (s : State) : ((Upd.newOp a).apply s).tile = s.tile := rfl
@[simp] theorem newOp_sysreg (a : Op) (s : State) : ((Upd.newOp a).apply s).sysreg = s.sysreg := rfl
@[simp] theorem newOp_tags (a : Op) (s : State) : ((Upd.newOp a).apply s).tags = s.tags := rfl
@[simp] theorem newOp_istore (a : Op) (s : State) : ((Upd.newOp a).apply s).istore = s.istore := rfl
@[simp] theorem newOp_sstore (a : Op) (s : State) : ((Upd.newOp a).apply s).sstore = s.sstore := rfl
@[simp] theorem newOp_planes (a : Op) (s : State) : ((Upd.newOp a).apply s).planes = s.planes := rfl
@[simp] theorem newOp_spad (a : Op) (s : State) : ((Upd.newOp a).apply s).spad = s.spad := rfl
@[simp] theorem newOp_dram (a : Op) (s : State) : ((Upd.newOp a).apply s).dram = s.dram := rfl
@[simp] theorem newOp_hostm (a : Op) (s : State) : ((Upd.newOp a).apply s).hostm = s.hostm := rfl
@[simp] theorem newOp_upsets (a : Op) (s : State) : ((Upd.newOp a).apply s).upsets = s.upsets := rfl
@[simp] theorem newOp_cores (a : Op) (s : State) : ((Upd.newOp a).apply s).cores = s.cores := rfl
@[simp] theorem newOp_vaults (a : Op) (s : State) : ((Upd.newOp a).apply s).vaults = s.vaults := rfl
@[simp] theorem newOp_yards (a : Op) (s : State) : ((Upd.newOp a).apply s).yards = s.yards := rfl
@[simp] theorem newOp_tasks (a : Op) (s : State) : ((Upd.newOp a).apply s).tasks = s.tasks := rfl
@[simp] theorem newOp_scopes (a : Op) (s : State) : ((Upd.newOp a).apply s).scopes = s.scopes := rfl
@[simp] theorem newOp_ctxs (a : Op) (s : State) : ((Upd.newOp a).apply s).ctxs = s.ctxs := rfl
@[simp] theorem newOp_ops (a : Op) (s : State) : ((Upd.newOp a).apply s).ops = tput s.ops s.nid a := rfl
@[simp] theorem newOp_reqs (a : Op) (s : State) : ((Upd.newOp a).apply s).reqs = s.reqs := rfl
@[simp] theorem newOp_pkts (a : Op) (s : State) : ((Upd.newOp a).apply s).pkts = s.pkts := rfl
@[simp] theorem newOp_dev (a : Op) (s : State) : ((Upd.newOp a).apply s).dev = s.dev := rfl
@[simp] theorem newOp_agenda (a : Op) (s : State) : ((Upd.newOp a).apply s).agenda = s.agenda := rfl
@[simp] theorem newOp_fresh (a : Op) (s : State) : ((Upd.newOp a).apply s).fresh = s.fresh := rfl
@[simp] theorem newOp_nid (a : Op) (s : State) : ((Upd.newOp a).apply s).nid = s.nid + 1 := rfl
@[simp] theorem newOp_iss (a : Op) (s : State) : ((Upd.newOp a).apply s).iss = s.iss := rfl

@[simp] theorem delOp_cycle (k : Nat) (s : State) : ((Upd.delOp k).apply s).cycle = s.cycle := rfl
@[simp] theorem delOp_xreg (k : Nat) (s : State) : ((Upd.delOp k).apply s).xreg = s.xreg := rfl
@[simp] theorem delOp_vreg (k : Nat) (s : State) : ((Upd.delOp k).apply s).vreg = s.vreg := rfl
@[simp] theorem delOp_preg (k : Nat) (s : State) : ((Upd.delOp k).apply s).preg = s.preg := rfl
@[simp] theorem delOp_breg (k : Nat) (s : State) : ((Upd.delOp k).apply s).breg = s.breg := rfl
@[simp] theorem delOp_latch (k : Nat) (s : State) : ((Upd.delOp k).apply s).latch = s.latch := rfl
@[simp] theorem delOp_tile (k : Nat) (s : State) : ((Upd.delOp k).apply s).tile = s.tile := rfl
@[simp] theorem delOp_sysreg (k : Nat) (s : State) : ((Upd.delOp k).apply s).sysreg = s.sysreg := rfl
@[simp] theorem delOp_tags (k : Nat) (s : State) : ((Upd.delOp k).apply s).tags = s.tags := rfl
@[simp] theorem delOp_istore (k : Nat) (s : State) : ((Upd.delOp k).apply s).istore = s.istore := rfl
@[simp] theorem delOp_sstore (k : Nat) (s : State) : ((Upd.delOp k).apply s).sstore = s.sstore := rfl
@[simp] theorem delOp_planes (k : Nat) (s : State) : ((Upd.delOp k).apply s).planes = s.planes := rfl
@[simp] theorem delOp_spad (k : Nat) (s : State) : ((Upd.delOp k).apply s).spad = s.spad := rfl
@[simp] theorem delOp_dram (k : Nat) (s : State) : ((Upd.delOp k).apply s).dram = s.dram := rfl
@[simp] theorem delOp_hostm (k : Nat) (s : State) : ((Upd.delOp k).apply s).hostm = s.hostm := rfl
@[simp] theorem delOp_upsets (k : Nat) (s : State) : ((Upd.delOp k).apply s).upsets = s.upsets := rfl
@[simp] theorem delOp_cores (k : Nat) (s : State) : ((Upd.delOp k).apply s).cores = s.cores := rfl
@[simp] theorem delOp_vaults (k : Nat) (s : State) : ((Upd.delOp k).apply s).vaults = s.vaults := rfl
@[simp] theorem delOp_yards (k : Nat) (s : State) : ((Upd.delOp k).apply s).yards = s.yards := rfl
@[simp] theorem delOp_tasks (k : Nat) (s : State) : ((Upd.delOp k).apply s).tasks = s.tasks := rfl
@[simp] theorem delOp_scopes (k : Nat) (s : State) : ((Upd.delOp k).apply s).scopes = s.scopes := rfl
@[simp] theorem delOp_ctxs (k : Nat) (s : State) : ((Upd.delOp k).apply s).ctxs = s.ctxs := rfl
@[simp] theorem delOp_ops (k : Nat) (s : State) : ((Upd.delOp k).apply s).ops = tdel s.ops k := rfl
@[simp] theorem delOp_reqs (k : Nat) (s : State) : ((Upd.delOp k).apply s).reqs = s.reqs := rfl
@[simp] theorem delOp_pkts (k : Nat) (s : State) : ((Upd.delOp k).apply s).pkts = s.pkts := rfl
@[simp] theorem delOp_dev (k : Nat) (s : State) : ((Upd.delOp k).apply s).dev = s.dev := rfl
@[simp] theorem delOp_agenda (k : Nat) (s : State) : ((Upd.delOp k).apply s).agenda = s.agenda := rfl
@[simp] theorem delOp_fresh (k : Nat) (s : State) : ((Upd.delOp k).apply s).fresh = s.fresh := rfl
@[simp] theorem delOp_nid (k : Nat) (s : State) : ((Upd.delOp k).apply s).nid = s.nid := rfl
@[simp] theorem delOp_iss (k : Nat) (s : State) : ((Upd.delOp k).apply s).iss = s.iss := rfl

@[simp] theorem req_cycle (k : Nat) (f : Req → Req) (s : State) : ((Upd.req k f).apply s).cycle = s.cycle := rfl
@[simp] theorem req_xreg (k : Nat) (f : Req → Req) (s : State) : ((Upd.req k f).apply s).xreg = s.xreg := rfl
@[simp] theorem req_vreg (k : Nat) (f : Req → Req) (s : State) : ((Upd.req k f).apply s).vreg = s.vreg := rfl
@[simp] theorem req_preg (k : Nat) (f : Req → Req) (s : State) : ((Upd.req k f).apply s).preg = s.preg := rfl
@[simp] theorem req_breg (k : Nat) (f : Req → Req) (s : State) : ((Upd.req k f).apply s).breg = s.breg := rfl
@[simp] theorem req_latch (k : Nat) (f : Req → Req) (s : State) : ((Upd.req k f).apply s).latch = s.latch := rfl
@[simp] theorem req_tile (k : Nat) (f : Req → Req) (s : State) : ((Upd.req k f).apply s).tile = s.tile := rfl
@[simp] theorem req_sysreg (k : Nat) (f : Req → Req) (s : State) : ((Upd.req k f).apply s).sysreg = s.sysreg := rfl
@[simp] theorem req_tags (k : Nat) (f : Req → Req) (s : State) : ((Upd.req k f).apply s).tags = s.tags := rfl
@[simp] theorem req_istore (k : Nat) (f : Req → Req) (s : State) : ((Upd.req k f).apply s).istore = s.istore := rfl
@[simp] theorem req_sstore (k : Nat) (f : Req → Req) (s : State) : ((Upd.req k f).apply s).sstore = s.sstore := rfl
@[simp] theorem req_planes (k : Nat) (f : Req → Req) (s : State) : ((Upd.req k f).apply s).planes = s.planes := rfl
@[simp] theorem req_spad (k : Nat) (f : Req → Req) (s : State) : ((Upd.req k f).apply s).spad = s.spad := rfl
@[simp] theorem req_dram (k : Nat) (f : Req → Req) (s : State) : ((Upd.req k f).apply s).dram = s.dram := rfl
@[simp] theorem req_hostm (k : Nat) (f : Req → Req) (s : State) : ((Upd.req k f).apply s).hostm = s.hostm := rfl
@[simp] theorem req_upsets (k : Nat) (f : Req → Req) (s : State) : ((Upd.req k f).apply s).upsets = s.upsets := rfl
@[simp] theorem req_cores (k : Nat) (f : Req → Req) (s : State) : ((Upd.req k f).apply s).cores = s.cores := rfl
@[simp] theorem req_vaults (k : Nat) (f : Req → Req) (s : State) : ((Upd.req k f).apply s).vaults = s.vaults := rfl
@[simp] theorem req_yards (k : Nat) (f : Req → Req) (s : State) : ((Upd.req k f).apply s).yards = s.yards := rfl
@[simp] theorem req_tasks (k : Nat) (f : Req → Req) (s : State) : ((Upd.req k f).apply s).tasks = s.tasks := rfl
@[simp] theorem req_scopes (k : Nat) (f : Req → Req) (s : State) : ((Upd.req k f).apply s).scopes = s.scopes := rfl
@[simp] theorem req_ctxs (k : Nat) (f : Req → Req) (s : State) : ((Upd.req k f).apply s).ctxs = s.ctxs := rfl
@[simp] theorem req_ops (k : Nat) (f : Req → Req) (s : State) : ((Upd.req k f).apply s).ops = s.ops := rfl
@[simp] theorem req_reqs (k : Nat) (f : Req → Req) (s : State) : ((Upd.req k f).apply s).reqs = tmod s.reqs k f := rfl
@[simp] theorem req_pkts (k : Nat) (f : Req → Req) (s : State) : ((Upd.req k f).apply s).pkts = s.pkts := rfl
@[simp] theorem req_dev (k : Nat) (f : Req → Req) (s : State) : ((Upd.req k f).apply s).dev = s.dev := rfl
@[simp] theorem req_agenda (k : Nat) (f : Req → Req) (s : State) : ((Upd.req k f).apply s).agenda = s.agenda := rfl
@[simp] theorem req_fresh (k : Nat) (f : Req → Req) (s : State) : ((Upd.req k f).apply s).fresh = s.fresh := rfl
@[simp] theorem req_nid (k : Nat) (f : Req → Req) (s : State) : ((Upd.req k f).apply s).nid = s.nid := rfl
@[simp] theorem req_iss (k : Nat) (f : Req → Req) (s : State) : ((Upd.req k f).apply s).iss = s.iss := rfl

@[simp] theorem newReq_cycle (a : Req) (s : State) : ((Upd.newReq a).apply s).cycle = s.cycle := rfl
@[simp] theorem newReq_xreg (a : Req) (s : State) : ((Upd.newReq a).apply s).xreg = s.xreg := rfl
@[simp] theorem newReq_vreg (a : Req) (s : State) : ((Upd.newReq a).apply s).vreg = s.vreg := rfl
@[simp] theorem newReq_preg (a : Req) (s : State) : ((Upd.newReq a).apply s).preg = s.preg := rfl
@[simp] theorem newReq_breg (a : Req) (s : State) : ((Upd.newReq a).apply s).breg = s.breg := rfl
@[simp] theorem newReq_latch (a : Req) (s : State) : ((Upd.newReq a).apply s).latch = s.latch := rfl
@[simp] theorem newReq_tile (a : Req) (s : State) : ((Upd.newReq a).apply s).tile = s.tile := rfl
@[simp] theorem newReq_sysreg (a : Req) (s : State) : ((Upd.newReq a).apply s).sysreg = s.sysreg := rfl
@[simp] theorem newReq_tags (a : Req) (s : State) : ((Upd.newReq a).apply s).tags = s.tags := rfl
@[simp] theorem newReq_istore (a : Req) (s : State) : ((Upd.newReq a).apply s).istore = s.istore := rfl
@[simp] theorem newReq_sstore (a : Req) (s : State) : ((Upd.newReq a).apply s).sstore = s.sstore := rfl
@[simp] theorem newReq_planes (a : Req) (s : State) : ((Upd.newReq a).apply s).planes = s.planes := rfl
@[simp] theorem newReq_spad (a : Req) (s : State) : ((Upd.newReq a).apply s).spad = s.spad := rfl
@[simp] theorem newReq_dram (a : Req) (s : State) : ((Upd.newReq a).apply s).dram = s.dram := rfl
@[simp] theorem newReq_hostm (a : Req) (s : State) : ((Upd.newReq a).apply s).hostm = s.hostm := rfl
@[simp] theorem newReq_upsets (a : Req) (s : State) : ((Upd.newReq a).apply s).upsets = s.upsets := rfl
@[simp] theorem newReq_cores (a : Req) (s : State) : ((Upd.newReq a).apply s).cores = s.cores := rfl
@[simp] theorem newReq_vaults (a : Req) (s : State) : ((Upd.newReq a).apply s).vaults = s.vaults := rfl
@[simp] theorem newReq_yards (a : Req) (s : State) : ((Upd.newReq a).apply s).yards = s.yards := rfl
@[simp] theorem newReq_tasks (a : Req) (s : State) : ((Upd.newReq a).apply s).tasks = s.tasks := rfl
@[simp] theorem newReq_scopes (a : Req) (s : State) : ((Upd.newReq a).apply s).scopes = s.scopes := rfl
@[simp] theorem newReq_ctxs (a : Req) (s : State) : ((Upd.newReq a).apply s).ctxs = s.ctxs := rfl
@[simp] theorem newReq_ops (a : Req) (s : State) : ((Upd.newReq a).apply s).ops = s.ops := rfl
@[simp] theorem newReq_reqs (a : Req) (s : State) : ((Upd.newReq a).apply s).reqs = tput s.reqs s.nid a := rfl
@[simp] theorem newReq_pkts (a : Req) (s : State) : ((Upd.newReq a).apply s).pkts = s.pkts := rfl
@[simp] theorem newReq_dev (a : Req) (s : State) : ((Upd.newReq a).apply s).dev = s.dev := rfl
@[simp] theorem newReq_agenda (a : Req) (s : State) : ((Upd.newReq a).apply s).agenda = s.agenda := rfl
@[simp] theorem newReq_fresh (a : Req) (s : State) : ((Upd.newReq a).apply s).fresh = s.fresh := rfl
@[simp] theorem newReq_nid (a : Req) (s : State) : ((Upd.newReq a).apply s).nid = s.nid + 1 := rfl
@[simp] theorem newReq_iss (a : Req) (s : State) : ((Upd.newReq a).apply s).iss = s.iss := rfl

@[simp] theorem delReq_cycle (k : Nat) (s : State) : ((Upd.delReq k).apply s).cycle = s.cycle := rfl
@[simp] theorem delReq_xreg (k : Nat) (s : State) : ((Upd.delReq k).apply s).xreg = s.xreg := rfl
@[simp] theorem delReq_vreg (k : Nat) (s : State) : ((Upd.delReq k).apply s).vreg = s.vreg := rfl
@[simp] theorem delReq_preg (k : Nat) (s : State) : ((Upd.delReq k).apply s).preg = s.preg := rfl
@[simp] theorem delReq_breg (k : Nat) (s : State) : ((Upd.delReq k).apply s).breg = s.breg := rfl
@[simp] theorem delReq_latch (k : Nat) (s : State) : ((Upd.delReq k).apply s).latch = s.latch := rfl
@[simp] theorem delReq_tile (k : Nat) (s : State) : ((Upd.delReq k).apply s).tile = s.tile := rfl
@[simp] theorem delReq_sysreg (k : Nat) (s : State) : ((Upd.delReq k).apply s).sysreg = s.sysreg := rfl
@[simp] theorem delReq_tags (k : Nat) (s : State) : ((Upd.delReq k).apply s).tags = s.tags := rfl
@[simp] theorem delReq_istore (k : Nat) (s : State) : ((Upd.delReq k).apply s).istore = s.istore := rfl
@[simp] theorem delReq_sstore (k : Nat) (s : State) : ((Upd.delReq k).apply s).sstore = s.sstore := rfl
@[simp] theorem delReq_planes (k : Nat) (s : State) : ((Upd.delReq k).apply s).planes = s.planes := rfl
@[simp] theorem delReq_spad (k : Nat) (s : State) : ((Upd.delReq k).apply s).spad = s.spad := rfl
@[simp] theorem delReq_dram (k : Nat) (s : State) : ((Upd.delReq k).apply s).dram = s.dram := rfl
@[simp] theorem delReq_hostm (k : Nat) (s : State) : ((Upd.delReq k).apply s).hostm = s.hostm := rfl
@[simp] theorem delReq_upsets (k : Nat) (s : State) : ((Upd.delReq k).apply s).upsets = s.upsets := rfl
@[simp] theorem delReq_cores (k : Nat) (s : State) : ((Upd.delReq k).apply s).cores = s.cores := rfl
@[simp] theorem delReq_vaults (k : Nat) (s : State) : ((Upd.delReq k).apply s).vaults = s.vaults := rfl
@[simp] theorem delReq_yards (k : Nat) (s : State) : ((Upd.delReq k).apply s).yards = s.yards := rfl
@[simp] theorem delReq_tasks (k : Nat) (s : State) : ((Upd.delReq k).apply s).tasks = s.tasks := rfl
@[simp] theorem delReq_scopes (k : Nat) (s : State) : ((Upd.delReq k).apply s).scopes = s.scopes := rfl
@[simp] theorem delReq_ctxs (k : Nat) (s : State) : ((Upd.delReq k).apply s).ctxs = s.ctxs := rfl
@[simp] theorem delReq_ops (k : Nat) (s : State) : ((Upd.delReq k).apply s).ops = s.ops := rfl
@[simp] theorem delReq_reqs (k : Nat) (s : State) : ((Upd.delReq k).apply s).reqs = tdel s.reqs k := rfl
@[simp] theorem delReq_pkts (k : Nat) (s : State) : ((Upd.delReq k).apply s).pkts = s.pkts := rfl
@[simp] theorem delReq_dev (k : Nat) (s : State) : ((Upd.delReq k).apply s).dev = s.dev := rfl
@[simp] theorem delReq_agenda (k : Nat) (s : State) : ((Upd.delReq k).apply s).agenda = s.agenda := rfl
@[simp] theorem delReq_fresh (k : Nat) (s : State) : ((Upd.delReq k).apply s).fresh = s.fresh := rfl
@[simp] theorem delReq_nid (k : Nat) (s : State) : ((Upd.delReq k).apply s).nid = s.nid := rfl
@[simp] theorem delReq_iss (k : Nat) (s : State) : ((Upd.delReq k).apply s).iss = s.iss := rfl

@[simp] theorem newPkt_cycle (a : Pkt) (s : State) : ((Upd.newPkt a).apply s).cycle = s.cycle := rfl
@[simp] theorem newPkt_xreg (a : Pkt) (s : State) : ((Upd.newPkt a).apply s).xreg = s.xreg := rfl
@[simp] theorem newPkt_vreg (a : Pkt) (s : State) : ((Upd.newPkt a).apply s).vreg = s.vreg := rfl
@[simp] theorem newPkt_preg (a : Pkt) (s : State) : ((Upd.newPkt a).apply s).preg = s.preg := rfl
@[simp] theorem newPkt_breg (a : Pkt) (s : State) : ((Upd.newPkt a).apply s).breg = s.breg := rfl
@[simp] theorem newPkt_latch (a : Pkt) (s : State) : ((Upd.newPkt a).apply s).latch = s.latch := rfl
@[simp] theorem newPkt_tile (a : Pkt) (s : State) : ((Upd.newPkt a).apply s).tile = s.tile := rfl
@[simp] theorem newPkt_sysreg (a : Pkt) (s : State) : ((Upd.newPkt a).apply s).sysreg = s.sysreg := rfl
@[simp] theorem newPkt_tags (a : Pkt) (s : State) : ((Upd.newPkt a).apply s).tags = s.tags := rfl
@[simp] theorem newPkt_istore (a : Pkt) (s : State) : ((Upd.newPkt a).apply s).istore = s.istore := rfl
@[simp] theorem newPkt_sstore (a : Pkt) (s : State) : ((Upd.newPkt a).apply s).sstore = s.sstore := rfl
@[simp] theorem newPkt_planes (a : Pkt) (s : State) : ((Upd.newPkt a).apply s).planes = s.planes := rfl
@[simp] theorem newPkt_spad (a : Pkt) (s : State) : ((Upd.newPkt a).apply s).spad = s.spad := rfl
@[simp] theorem newPkt_dram (a : Pkt) (s : State) : ((Upd.newPkt a).apply s).dram = s.dram := rfl
@[simp] theorem newPkt_hostm (a : Pkt) (s : State) : ((Upd.newPkt a).apply s).hostm = s.hostm := rfl
@[simp] theorem newPkt_upsets (a : Pkt) (s : State) : ((Upd.newPkt a).apply s).upsets = s.upsets := rfl
@[simp] theorem newPkt_cores (a : Pkt) (s : State) : ((Upd.newPkt a).apply s).cores = s.cores := rfl
@[simp] theorem newPkt_vaults (a : Pkt) (s : State) : ((Upd.newPkt a).apply s).vaults = s.vaults := rfl
@[simp] theorem newPkt_yards (a : Pkt) (s : State) : ((Upd.newPkt a).apply s).yards = s.yards := rfl
@[simp] theorem newPkt_tasks (a : Pkt) (s : State) : ((Upd.newPkt a).apply s).tasks = s.tasks := rfl
@[simp] theorem newPkt_scopes (a : Pkt) (s : State) : ((Upd.newPkt a).apply s).scopes = s.scopes := rfl
@[simp] theorem newPkt_ctxs (a : Pkt) (s : State) : ((Upd.newPkt a).apply s).ctxs = s.ctxs := rfl
@[simp] theorem newPkt_ops (a : Pkt) (s : State) : ((Upd.newPkt a).apply s).ops = s.ops := rfl
@[simp] theorem newPkt_reqs (a : Pkt) (s : State) : ((Upd.newPkt a).apply s).reqs = s.reqs := rfl
@[simp] theorem newPkt_pkts (a : Pkt) (s : State) : ((Upd.newPkt a).apply s).pkts = tput s.pkts s.nid a := rfl
@[simp] theorem newPkt_dev (a : Pkt) (s : State) : ((Upd.newPkt a).apply s).dev = s.dev := rfl
@[simp] theorem newPkt_agenda (a : Pkt) (s : State) : ((Upd.newPkt a).apply s).agenda = s.agenda := rfl
@[simp] theorem newPkt_fresh (a : Pkt) (s : State) : ((Upd.newPkt a).apply s).fresh = s.fresh := rfl
@[simp] theorem newPkt_nid (a : Pkt) (s : State) : ((Upd.newPkt a).apply s).nid = s.nid + 1 := rfl
@[simp] theorem newPkt_iss (a : Pkt) (s : State) : ((Upd.newPkt a).apply s).iss = s.iss := rfl

@[simp] theorem pkt_cycle (k : Nat) (f : Pkt → Pkt) (s : State) : ((Upd.pkt k f).apply s).cycle = s.cycle := rfl
@[simp] theorem pkt_xreg (k : Nat) (f : Pkt → Pkt) (s : State) : ((Upd.pkt k f).apply s).xreg = s.xreg := rfl
@[simp] theorem pkt_vreg (k : Nat) (f : Pkt → Pkt) (s : State) : ((Upd.pkt k f).apply s).vreg = s.vreg := rfl
@[simp] theorem pkt_preg (k : Nat) (f : Pkt → Pkt) (s : State) : ((Upd.pkt k f).apply s).preg = s.preg := rfl
@[simp] theorem pkt_breg (k : Nat) (f : Pkt → Pkt) (s : State) : ((Upd.pkt k f).apply s).breg = s.breg := rfl
@[simp] theorem pkt_latch (k : Nat) (f : Pkt → Pkt) (s : State) : ((Upd.pkt k f).apply s).latch = s.latch := rfl
@[simp] theorem pkt_tile (k : Nat) (f : Pkt → Pkt) (s : State) : ((Upd.pkt k f).apply s).tile = s.tile := rfl
@[simp] theorem pkt_sysreg (k : Nat) (f : Pkt → Pkt) (s : State) : ((Upd.pkt k f).apply s).sysreg = s.sysreg := rfl
@[simp] theorem pkt_tags (k : Nat) (f : Pkt → Pkt) (s : State) : ((Upd.pkt k f).apply s).tags = s.tags := rfl
@[simp] theorem pkt_istore (k : Nat) (f : Pkt → Pkt) (s : State) : ((Upd.pkt k f).apply s).istore = s.istore := rfl
@[simp] theorem pkt_sstore (k : Nat) (f : Pkt → Pkt) (s : State) : ((Upd.pkt k f).apply s).sstore = s.sstore := rfl
@[simp] theorem pkt_planes (k : Nat) (f : Pkt → Pkt) (s : State) : ((Upd.pkt k f).apply s).planes = s.planes := rfl
@[simp] theorem pkt_spad (k : Nat) (f : Pkt → Pkt) (s : State) : ((Upd.pkt k f).apply s).spad = s.spad := rfl
@[simp] theorem pkt_dram (k : Nat) (f : Pkt → Pkt) (s : State) : ((Upd.pkt k f).apply s).dram = s.dram := rfl
@[simp] theorem pkt_hostm (k : Nat) (f : Pkt → Pkt) (s : State) : ((Upd.pkt k f).apply s).hostm = s.hostm := rfl
@[simp] theorem pkt_upsets (k : Nat) (f : Pkt → Pkt) (s : State) : ((Upd.pkt k f).apply s).upsets = s.upsets := rfl
@[simp] theorem pkt_cores (k : Nat) (f : Pkt → Pkt) (s : State) : ((Upd.pkt k f).apply s).cores = s.cores := rfl
@[simp] theorem pkt_vaults (k : Nat) (f : Pkt → Pkt) (s : State) : ((Upd.pkt k f).apply s).vaults = s.vaults := rfl
@[simp] theorem pkt_yards (k : Nat) (f : Pkt → Pkt) (s : State) : ((Upd.pkt k f).apply s).yards = s.yards := rfl
@[simp] theorem pkt_tasks (k : Nat) (f : Pkt → Pkt) (s : State) : ((Upd.pkt k f).apply s).tasks = s.tasks := rfl
@[simp] theorem pkt_scopes (k : Nat) (f : Pkt → Pkt) (s : State) : ((Upd.pkt k f).apply s).scopes = s.scopes := rfl
@[simp] theorem pkt_ctxs (k : Nat) (f : Pkt → Pkt) (s : State) : ((Upd.pkt k f).apply s).ctxs = s.ctxs := rfl
@[simp] theorem pkt_ops (k : Nat) (f : Pkt → Pkt) (s : State) : ((Upd.pkt k f).apply s).ops = s.ops := rfl
@[simp] theorem pkt_reqs (k : Nat) (f : Pkt → Pkt) (s : State) : ((Upd.pkt k f).apply s).reqs = s.reqs := rfl
@[simp] theorem pkt_pkts (k : Nat) (f : Pkt → Pkt) (s : State) : ((Upd.pkt k f).apply s).pkts = tmod s.pkts k f := rfl
@[simp] theorem pkt_dev (k : Nat) (f : Pkt → Pkt) (s : State) : ((Upd.pkt k f).apply s).dev = s.dev := rfl
@[simp] theorem pkt_agenda (k : Nat) (f : Pkt → Pkt) (s : State) : ((Upd.pkt k f).apply s).agenda = s.agenda := rfl
@[simp] theorem pkt_fresh (k : Nat) (f : Pkt → Pkt) (s : State) : ((Upd.pkt k f).apply s).fresh = s.fresh := rfl
@[simp] theorem pkt_nid (k : Nat) (f : Pkt → Pkt) (s : State) : ((Upd.pkt k f).apply s).nid = s.nid := rfl
@[simp] theorem pkt_iss (k : Nat) (f : Pkt → Pkt) (s : State) : ((Upd.pkt k f).apply s).iss = s.iss := rfl

@[simp] theorem delPkt_cycle (k : Nat) (s : State) : ((Upd.delPkt k).apply s).cycle = s.cycle := rfl
@[simp] theorem delPkt_xreg (k : Nat) (s : State) : ((Upd.delPkt k).apply s).xreg = s.xreg := rfl
@[simp] theorem delPkt_vreg (k : Nat) (s : State) : ((Upd.delPkt k).apply s).vreg = s.vreg := rfl
@[simp] theorem delPkt_preg (k : Nat) (s : State) : ((Upd.delPkt k).apply s).preg = s.preg := rfl
@[simp] theorem delPkt_breg (k : Nat) (s : State) : ((Upd.delPkt k).apply s).breg = s.breg := rfl
@[simp] theorem delPkt_latch (k : Nat) (s : State) : ((Upd.delPkt k).apply s).latch = s.latch := rfl
@[simp] theorem delPkt_tile (k : Nat) (s : State) : ((Upd.delPkt k).apply s).tile = s.tile := rfl
@[simp] theorem delPkt_sysreg (k : Nat) (s : State) : ((Upd.delPkt k).apply s).sysreg = s.sysreg := rfl
@[simp] theorem delPkt_tags (k : Nat) (s : State) : ((Upd.delPkt k).apply s).tags = s.tags := rfl
@[simp] theorem delPkt_istore (k : Nat) (s : State) : ((Upd.delPkt k).apply s).istore = s.istore := rfl
@[simp] theorem delPkt_sstore (k : Nat) (s : State) : ((Upd.delPkt k).apply s).sstore = s.sstore := rfl
@[simp] theorem delPkt_planes (k : Nat) (s : State) : ((Upd.delPkt k).apply s).planes = s.planes := rfl
@[simp] theorem delPkt_spad (k : Nat) (s : State) : ((Upd.delPkt k).apply s).spad = s.spad := rfl
@[simp] theorem delPkt_dram (k : Nat) (s : State) : ((Upd.delPkt k).apply s).dram = s.dram := rfl
@[simp] theorem delPkt_hostm (k : Nat) (s : State) : ((Upd.delPkt k).apply s).hostm = s.hostm := rfl
@[simp] theorem delPkt_upsets (k : Nat) (s : State) : ((Upd.delPkt k).apply s).upsets = s.upsets := rfl
@[simp] theorem delPkt_cores (k : Nat) (s : State) : ((Upd.delPkt k).apply s).cores = s.cores := rfl
@[simp] theorem delPkt_vaults (k : Nat) (s : State) : ((Upd.delPkt k).apply s).vaults = s.vaults := rfl
@[simp] theorem delPkt_yards (k : Nat) (s : State) : ((Upd.delPkt k).apply s).yards = s.yards := rfl
@[simp] theorem delPkt_tasks (k : Nat) (s : State) : ((Upd.delPkt k).apply s).tasks = s.tasks := rfl
@[simp] theorem delPkt_scopes (k : Nat) (s : State) : ((Upd.delPkt k).apply s).scopes = s.scopes := rfl
@[simp] theorem delPkt_ctxs (k : Nat) (s : State) : ((Upd.delPkt k).apply s).ctxs = s.ctxs := rfl
@[simp] theorem delPkt_ops (k : Nat) (s : State) : ((Upd.delPkt k).apply s).ops = s.ops := rfl
@[simp] theorem delPkt_reqs (k : Nat) (s : State) : ((Upd.delPkt k).apply s).reqs = s.reqs := rfl
@[simp] theorem delPkt_pkts (k : Nat) (s : State) : ((Upd.delPkt k).apply s).pkts = tdel s.pkts k := rfl
@[simp] theorem delPkt_dev (k : Nat) (s : State) : ((Upd.delPkt k).apply s).dev = s.dev := rfl
@[simp] theorem delPkt_agenda (k : Nat) (s : State) : ((Upd.delPkt k).apply s).agenda = s.agenda := rfl
@[simp] theorem delPkt_fresh (k : Nat) (s : State) : ((Upd.delPkt k).apply s).fresh = s.fresh := rfl
@[simp] theorem delPkt_nid (k : Nat) (s : State) : ((Upd.delPkt k).apply s).nid = s.nid := rfl
@[simp] theorem delPkt_iss (k : Nat) (s : State) : ((Upd.delPkt k).apply s).iss = s.iss := rfl

@[simp] theorem dev_cycle (f : Dev → Dev) (s : State) : ((Upd.dev f).apply s).cycle = s.cycle := rfl
@[simp] theorem dev_xreg (f : Dev → Dev) (s : State) : ((Upd.dev f).apply s).xreg = s.xreg := rfl
@[simp] theorem dev_vreg (f : Dev → Dev) (s : State) : ((Upd.dev f).apply s).vreg = s.vreg := rfl
@[simp] theorem dev_preg (f : Dev → Dev) (s : State) : ((Upd.dev f).apply s).preg = s.preg := rfl
@[simp] theorem dev_breg (f : Dev → Dev) (s : State) : ((Upd.dev f).apply s).breg = s.breg := rfl
@[simp] theorem dev_latch (f : Dev → Dev) (s : State) : ((Upd.dev f).apply s).latch = s.latch := rfl
@[simp] theorem dev_tile (f : Dev → Dev) (s : State) : ((Upd.dev f).apply s).tile = s.tile := rfl
@[simp] theorem dev_sysreg (f : Dev → Dev) (s : State) : ((Upd.dev f).apply s).sysreg = s.sysreg := rfl
@[simp] theorem dev_tags (f : Dev → Dev) (s : State) : ((Upd.dev f).apply s).tags = s.tags := rfl
@[simp] theorem dev_istore (f : Dev → Dev) (s : State) : ((Upd.dev f).apply s).istore = s.istore := rfl
@[simp] theorem dev_sstore (f : Dev → Dev) (s : State) : ((Upd.dev f).apply s).sstore = s.sstore := rfl
@[simp] theorem dev_planes (f : Dev → Dev) (s : State) : ((Upd.dev f).apply s).planes = s.planes := rfl
@[simp] theorem dev_spad (f : Dev → Dev) (s : State) : ((Upd.dev f).apply s).spad = s.spad := rfl
@[simp] theorem dev_dram (f : Dev → Dev) (s : State) : ((Upd.dev f).apply s).dram = s.dram := rfl
@[simp] theorem dev_hostm (f : Dev → Dev) (s : State) : ((Upd.dev f).apply s).hostm = s.hostm := rfl
@[simp] theorem dev_upsets (f : Dev → Dev) (s : State) : ((Upd.dev f).apply s).upsets = s.upsets := rfl
@[simp] theorem dev_cores (f : Dev → Dev) (s : State) : ((Upd.dev f).apply s).cores = s.cores := rfl
@[simp] theorem dev_vaults (f : Dev → Dev) (s : State) : ((Upd.dev f).apply s).vaults = s.vaults := rfl
@[simp] theorem dev_yards (f : Dev → Dev) (s : State) : ((Upd.dev f).apply s).yards = s.yards := rfl
@[simp] theorem dev_tasks (f : Dev → Dev) (s : State) : ((Upd.dev f).apply s).tasks = s.tasks := rfl
@[simp] theorem dev_scopes (f : Dev → Dev) (s : State) : ((Upd.dev f).apply s).scopes = s.scopes := rfl
@[simp] theorem dev_ctxs (f : Dev → Dev) (s : State) : ((Upd.dev f).apply s).ctxs = s.ctxs := rfl
@[simp] theorem dev_ops (f : Dev → Dev) (s : State) : ((Upd.dev f).apply s).ops = s.ops := rfl
@[simp] theorem dev_reqs (f : Dev → Dev) (s : State) : ((Upd.dev f).apply s).reqs = s.reqs := rfl
@[simp] theorem dev_pkts (f : Dev → Dev) (s : State) : ((Upd.dev f).apply s).pkts = s.pkts := rfl
@[simp] theorem dev_dev (f : Dev → Dev) (s : State) : ((Upd.dev f).apply s).dev = f s.dev := rfl
@[simp] theorem dev_agenda (f : Dev → Dev) (s : State) : ((Upd.dev f).apply s).agenda = s.agenda := rfl
@[simp] theorem dev_fresh (f : Dev → Dev) (s : State) : ((Upd.dev f).apply s).fresh = s.fresh := rfl
@[simp] theorem dev_nid (f : Dev → Dev) (s : State) : ((Upd.dev f).apply s).nid = s.nid := rfl
@[simp] theorem dev_iss (f : Dev → Dev) (s : State) : ((Upd.dev f).apply s).iss = s.iss := rfl

@[simp] theorem post_cycle (i : Item) (s : State) : ((Upd.post i).apply s).cycle = s.cycle := rfl
@[simp] theorem post_xreg (i : Item) (s : State) : ((Upd.post i).apply s).xreg = s.xreg := rfl
@[simp] theorem post_vreg (i : Item) (s : State) : ((Upd.post i).apply s).vreg = s.vreg := rfl
@[simp] theorem post_preg (i : Item) (s : State) : ((Upd.post i).apply s).preg = s.preg := rfl
@[simp] theorem post_breg (i : Item) (s : State) : ((Upd.post i).apply s).breg = s.breg := rfl
@[simp] theorem post_latch (i : Item) (s : State) : ((Upd.post i).apply s).latch = s.latch := rfl
@[simp] theorem post_tile (i : Item) (s : State) : ((Upd.post i).apply s).tile = s.tile := rfl
@[simp] theorem post_sysreg (i : Item) (s : State) : ((Upd.post i).apply s).sysreg = s.sysreg := rfl
@[simp] theorem post_tags (i : Item) (s : State) : ((Upd.post i).apply s).tags = s.tags := rfl
@[simp] theorem post_istore (i : Item) (s : State) : ((Upd.post i).apply s).istore = s.istore := rfl
@[simp] theorem post_sstore (i : Item) (s : State) : ((Upd.post i).apply s).sstore = s.sstore := rfl
@[simp] theorem post_planes (i : Item) (s : State) : ((Upd.post i).apply s).planes = s.planes := rfl
@[simp] theorem post_spad (i : Item) (s : State) : ((Upd.post i).apply s).spad = s.spad := rfl
@[simp] theorem post_dram (i : Item) (s : State) : ((Upd.post i).apply s).dram = s.dram := rfl
@[simp] theorem post_hostm (i : Item) (s : State) : ((Upd.post i).apply s).hostm = s.hostm := rfl
@[simp] theorem post_upsets (i : Item) (s : State) : ((Upd.post i).apply s).upsets = s.upsets := rfl
@[simp] theorem post_cores (i : Item) (s : State) : ((Upd.post i).apply s).cores = s.cores := rfl
@[simp] theorem post_vaults (i : Item) (s : State) : ((Upd.post i).apply s).vaults = s.vaults := rfl
@[simp] theorem post_yards (i : Item) (s : State) : ((Upd.post i).apply s).yards = s.yards := rfl
@[simp] theorem post_tasks (i : Item) (s : State) : ((Upd.post i).apply s).tasks = s.tasks := rfl
@[simp] theorem post_scopes (i : Item) (s : State) : ((Upd.post i).apply s).scopes = s.scopes := rfl
@[simp] theorem post_ctxs (i : Item) (s : State) : ((Upd.post i).apply s).ctxs = s.ctxs := rfl
@[simp] theorem post_ops (i : Item) (s : State) : ((Upd.post i).apply s).ops = s.ops := rfl
@[simp] theorem post_reqs (i : Item) (s : State) : ((Upd.post i).apply s).reqs = s.reqs := rfl
@[simp] theorem post_pkts (i : Item) (s : State) : ((Upd.post i).apply s).pkts = s.pkts := rfl
@[simp] theorem post_dev (i : Item) (s : State) : ((Upd.post i).apply s).dev = s.dev := rfl
@[simp] theorem post_agenda (i : Item) (s : State) : ((Upd.post i).apply s).agenda = postItem i s.agenda := rfl
@[simp] theorem post_fresh (i : Item) (s : State) : ((Upd.post i).apply s).fresh = s.fresh := rfl
@[simp] theorem post_nid (i : Item) (s : State) : ((Upd.post i).apply s).nid = s.nid := rfl
@[simp] theorem post_iss (i : Item) (s : State) : ((Upd.post i).apply s).iss = s.iss := rfl

@[simp] theorem fresh_cycle (s : State) : (Upd.fresh.apply s).cycle = s.cycle := rfl
@[simp] theorem fresh_xreg (s : State) : (Upd.fresh.apply s).xreg = s.xreg := rfl
@[simp] theorem fresh_vreg (s : State) : (Upd.fresh.apply s).vreg = s.vreg := rfl
@[simp] theorem fresh_preg (s : State) : (Upd.fresh.apply s).preg = s.preg := rfl
@[simp] theorem fresh_breg (s : State) : (Upd.fresh.apply s).breg = s.breg := rfl
@[simp] theorem fresh_latch (s : State) : (Upd.fresh.apply s).latch = s.latch := rfl
@[simp] theorem fresh_tile (s : State) : (Upd.fresh.apply s).tile = s.tile := rfl
@[simp] theorem fresh_sysreg (s : State) : (Upd.fresh.apply s).sysreg = s.sysreg := rfl
@[simp] theorem fresh_tags (s : State) : (Upd.fresh.apply s).tags = s.tags := rfl
@[simp] theorem fresh_istore (s : State) : (Upd.fresh.apply s).istore = s.istore := rfl
@[simp] theorem fresh_sstore (s : State) : (Upd.fresh.apply s).sstore = s.sstore := rfl
@[simp] theorem fresh_planes (s : State) : (Upd.fresh.apply s).planes = s.planes := rfl
@[simp] theorem fresh_spad (s : State) : (Upd.fresh.apply s).spad = s.spad := rfl
@[simp] theorem fresh_dram (s : State) : (Upd.fresh.apply s).dram = s.dram := rfl
@[simp] theorem fresh_hostm (s : State) : (Upd.fresh.apply s).hostm = s.hostm := rfl
@[simp] theorem fresh_upsets (s : State) : (Upd.fresh.apply s).upsets = s.upsets := rfl
@[simp] theorem fresh_cores (s : State) : (Upd.fresh.apply s).cores = s.cores := rfl
@[simp] theorem fresh_vaults (s : State) : (Upd.fresh.apply s).vaults = s.vaults := rfl
@[simp] theorem fresh_yards (s : State) : (Upd.fresh.apply s).yards = s.yards := rfl
@[simp] theorem fresh_tasks (s : State) : (Upd.fresh.apply s).tasks = s.tasks := rfl
@[simp] theorem fresh_scopes (s : State) : (Upd.fresh.apply s).scopes = s.scopes := rfl
@[simp] theorem fresh_ctxs (s : State) : (Upd.fresh.apply s).ctxs = s.ctxs := rfl
@[simp] theorem fresh_ops (s : State) : (Upd.fresh.apply s).ops = s.ops := rfl
@[simp] theorem fresh_reqs (s : State) : (Upd.fresh.apply s).reqs = s.reqs := rfl
@[simp] theorem fresh_pkts (s : State) : (Upd.fresh.apply s).pkts = s.pkts := rfl
@[simp] theorem fresh_dev (s : State) : (Upd.fresh.apply s).dev = s.dev := rfl
@[simp] theorem fresh_agenda (s : State) : (Upd.fresh.apply s).agenda = s.agenda := rfl
@[simp] theorem fresh_fresh (s : State) : (Upd.fresh.apply s).fresh = s.fresh + 1 := rfl
@[simp] theorem fresh_nid (s : State) : (Upd.fresh.apply s).nid = s.nid := rfl
@[simp] theorem fresh_iss (s : State) : (Upd.fresh.apply s).iss = s.iss := rfl

@[simp] theorem iss_cycle (i : Iss) (s : State) : ((Upd.iss i).apply s).cycle = s.cycle := rfl
@[simp] theorem iss_xreg (i : Iss) (s : State) : ((Upd.iss i).apply s).xreg = s.xreg := rfl
@[simp] theorem iss_vreg (i : Iss) (s : State) : ((Upd.iss i).apply s).vreg = s.vreg := rfl
@[simp] theorem iss_preg (i : Iss) (s : State) : ((Upd.iss i).apply s).preg = s.preg := rfl
@[simp] theorem iss_breg (i : Iss) (s : State) : ((Upd.iss i).apply s).breg = s.breg := rfl
@[simp] theorem iss_latch (i : Iss) (s : State) : ((Upd.iss i).apply s).latch = s.latch := rfl
@[simp] theorem iss_tile (i : Iss) (s : State) : ((Upd.iss i).apply s).tile = s.tile := rfl
@[simp] theorem iss_sysreg (i : Iss) (s : State) : ((Upd.iss i).apply s).sysreg = s.sysreg := rfl
@[simp] theorem iss_tags (i : Iss) (s : State) : ((Upd.iss i).apply s).tags = s.tags := rfl
@[simp] theorem iss_istore (i : Iss) (s : State) : ((Upd.iss i).apply s).istore = s.istore := rfl
@[simp] theorem iss_sstore (i : Iss) (s : State) : ((Upd.iss i).apply s).sstore = s.sstore := rfl
@[simp] theorem iss_planes (i : Iss) (s : State) : ((Upd.iss i).apply s).planes = s.planes := rfl
@[simp] theorem iss_spad (i : Iss) (s : State) : ((Upd.iss i).apply s).spad = s.spad := rfl
@[simp] theorem iss_dram (i : Iss) (s : State) : ((Upd.iss i).apply s).dram = s.dram := rfl
@[simp] theorem iss_hostm (i : Iss) (s : State) : ((Upd.iss i).apply s).hostm = s.hostm := rfl
@[simp] theorem iss_upsets (i : Iss) (s : State) : ((Upd.iss i).apply s).upsets = s.upsets := rfl
@[simp] theorem iss_cores (i : Iss) (s : State) : ((Upd.iss i).apply s).cores = s.cores := rfl
@[simp] theorem iss_vaults (i : Iss) (s : State) : ((Upd.iss i).apply s).vaults = s.vaults := rfl
@[simp] theorem iss_yards (i : Iss) (s : State) : ((Upd.iss i).apply s).yards = s.yards := rfl
@[simp] theorem iss_tasks (i : Iss) (s : State) : ((Upd.iss i).apply s).tasks = s.tasks := rfl
@[simp] theorem iss_scopes (i : Iss) (s : State) : ((Upd.iss i).apply s).scopes = s.scopes := rfl
@[simp] theorem iss_ctxs (i : Iss) (s : State) : ((Upd.iss i).apply s).ctxs = s.ctxs := rfl
@[simp] theorem iss_ops (i : Iss) (s : State) : ((Upd.iss i).apply s).ops = s.ops := rfl
@[simp] theorem iss_reqs (i : Iss) (s : State) : ((Upd.iss i).apply s).reqs = s.reqs := rfl
@[simp] theorem iss_pkts (i : Iss) (s : State) : ((Upd.iss i).apply s).pkts = s.pkts := rfl
@[simp] theorem iss_dev (i : Iss) (s : State) : ((Upd.iss i).apply s).dev = s.dev := rfl
@[simp] theorem iss_agenda (i : Iss) (s : State) : ((Upd.iss i).apply s).agenda = s.agenda := rfl
@[simp] theorem iss_fresh (i : Iss) (s : State) : ((Upd.iss i).apply s).fresh = s.fresh := rfl
@[simp] theorem iss_nid (i : Iss) (s : State) : ((Upd.iss i).apply s).nid = s.nid := rfl
@[simp] theorem iss_iss (i : Iss) (s : State) : ((Upd.iss i).apply s).iss = i := rfl

@[simp] theorem cycle_cycle (c : Nat) (s : State) : ((Upd.cycle c).apply s).cycle = c := rfl
@[simp] theorem cycle_xreg (c : Nat) (s : State) : ((Upd.cycle c).apply s).xreg = s.xreg := rfl
@[simp] theorem cycle_vreg (c : Nat) (s : State) : ((Upd.cycle c).apply s).vreg = s.vreg := rfl
@[simp] theorem cycle_preg (c : Nat) (s : State) : ((Upd.cycle c).apply s).preg = s.preg := rfl
@[simp] theorem cycle_breg (c : Nat) (s : State) : ((Upd.cycle c).apply s).breg = s.breg := rfl
@[simp] theorem cycle_latch (c : Nat) (s : State) : ((Upd.cycle c).apply s).latch = s.latch := rfl
@[simp] theorem cycle_tile (c : Nat) (s : State) : ((Upd.cycle c).apply s).tile = s.tile := rfl
@[simp] theorem cycle_sysreg (c : Nat) (s : State) : ((Upd.cycle c).apply s).sysreg = s.sysreg := rfl
@[simp] theorem cycle_tags (c : Nat) (s : State) : ((Upd.cycle c).apply s).tags = s.tags := rfl
@[simp] theorem cycle_istore (c : Nat) (s : State) : ((Upd.cycle c).apply s).istore = s.istore := rfl
@[simp] theorem cycle_sstore (c : Nat) (s : State) : ((Upd.cycle c).apply s).sstore = s.sstore := rfl
@[simp] theorem cycle_planes (c : Nat) (s : State) : ((Upd.cycle c).apply s).planes = s.planes := rfl
@[simp] theorem cycle_spad (c : Nat) (s : State) : ((Upd.cycle c).apply s).spad = s.spad := rfl
@[simp] theorem cycle_dram (c : Nat) (s : State) : ((Upd.cycle c).apply s).dram = s.dram := rfl
@[simp] theorem cycle_hostm (c : Nat) (s : State) : ((Upd.cycle c).apply s).hostm = s.hostm := rfl
@[simp] theorem cycle_upsets (c : Nat) (s : State) : ((Upd.cycle c).apply s).upsets = s.upsets := rfl
@[simp] theorem cycle_cores (c : Nat) (s : State) : ((Upd.cycle c).apply s).cores = s.cores := rfl
@[simp] theorem cycle_vaults (c : Nat) (s : State) : ((Upd.cycle c).apply s).vaults = s.vaults := rfl
@[simp] theorem cycle_yards (c : Nat) (s : State) : ((Upd.cycle c).apply s).yards = s.yards := rfl
@[simp] theorem cycle_tasks (c : Nat) (s : State) : ((Upd.cycle c).apply s).tasks = s.tasks := rfl
@[simp] theorem cycle_scopes (c : Nat) (s : State) : ((Upd.cycle c).apply s).scopes = s.scopes := rfl
@[simp] theorem cycle_ctxs (c : Nat) (s : State) : ((Upd.cycle c).apply s).ctxs = s.ctxs := rfl
@[simp] theorem cycle_ops (c : Nat) (s : State) : ((Upd.cycle c).apply s).ops = s.ops := rfl
@[simp] theorem cycle_reqs (c : Nat) (s : State) : ((Upd.cycle c).apply s).reqs = s.reqs := rfl
@[simp] theorem cycle_pkts (c : Nat) (s : State) : ((Upd.cycle c).apply s).pkts = s.pkts := rfl
@[simp] theorem cycle_dev (c : Nat) (s : State) : ((Upd.cycle c).apply s).dev = s.dev := rfl
@[simp] theorem cycle_agenda (c : Nat) (s : State) : ((Upd.cycle c).apply s).agenda = s.agenda := rfl
@[simp] theorem cycle_fresh (c : Nat) (s : State) : ((Upd.cycle c).apply s).fresh = s.fresh := rfl
@[simp] theorem cycle_nid (c : Nat) (s : State) : ((Upd.cycle c).apply s).nid = s.nid := rfl
@[simp] theorem cycle_iss (c : Nat) (s : State) : ((Upd.cycle c).apply s).iss = s.iss := rfl

@[simp] theorem unagenda_cycle (keep : Item → Bool) (s : State) : ((Upd.unagenda keep).apply s).cycle = s.cycle := rfl
@[simp] theorem unagenda_xreg (keep : Item → Bool) (s : State) : ((Upd.unagenda keep).apply s).xreg = s.xreg := rfl
@[simp] theorem unagenda_vreg (keep : Item → Bool) (s : State) : ((Upd.unagenda keep).apply s).vreg = s.vreg := rfl
@[simp] theorem unagenda_preg (keep : Item → Bool) (s : State) : ((Upd.unagenda keep).apply s).preg = s.preg := rfl
@[simp] theorem unagenda_breg (keep : Item → Bool) (s : State) : ((Upd.unagenda keep).apply s).breg = s.breg := rfl
@[simp] theorem unagenda_latch (keep : Item → Bool) (s : State) : ((Upd.unagenda keep).apply s).latch = s.latch := rfl
@[simp] theorem unagenda_tile (keep : Item → Bool) (s : State) : ((Upd.unagenda keep).apply s).tile = s.tile := rfl
@[simp] theorem unagenda_sysreg (keep : Item → Bool) (s : State) : ((Upd.unagenda keep).apply s).sysreg = s.sysreg := rfl
@[simp] theorem unagenda_tags (keep : Item → Bool) (s : State) : ((Upd.unagenda keep).apply s).tags = s.tags := rfl
@[simp] theorem unagenda_istore (keep : Item → Bool) (s : State) : ((Upd.unagenda keep).apply s).istore = s.istore := rfl
@[simp] theorem unagenda_sstore (keep : Item → Bool) (s : State) : ((Upd.unagenda keep).apply s).sstore = s.sstore := rfl
@[simp] theorem unagenda_planes (keep : Item → Bool) (s : State) : ((Upd.unagenda keep).apply s).planes = s.planes := rfl
@[simp] theorem unagenda_spad (keep : Item → Bool) (s : State) : ((Upd.unagenda keep).apply s).spad = s.spad := rfl
@[simp] theorem unagenda_dram (keep : Item → Bool) (s : State) : ((Upd.unagenda keep).apply s).dram = s.dram := rfl
@[simp] theorem unagenda_hostm (keep : Item → Bool) (s : State) : ((Upd.unagenda keep).apply s).hostm = s.hostm := rfl
@[simp] theorem unagenda_upsets (keep : Item → Bool) (s : State) : ((Upd.unagenda keep).apply s).upsets = s.upsets := rfl
@[simp] theorem unagenda_cores (keep : Item → Bool) (s : State) : ((Upd.unagenda keep).apply s).cores = s.cores := rfl
@[simp] theorem unagenda_vaults (keep : Item → Bool) (s : State) : ((Upd.unagenda keep).apply s).vaults = s.vaults := rfl
@[simp] theorem unagenda_yards (keep : Item → Bool) (s : State) : ((Upd.unagenda keep).apply s).yards = s.yards := rfl
@[simp] theorem unagenda_tasks (keep : Item → Bool) (s : State) : ((Upd.unagenda keep).apply s).tasks = s.tasks := rfl
@[simp] theorem unagenda_scopes (keep : Item → Bool) (s : State) : ((Upd.unagenda keep).apply s).scopes = s.scopes := rfl
@[simp] theorem unagenda_ctxs (keep : Item → Bool) (s : State) : ((Upd.unagenda keep).apply s).ctxs = s.ctxs := rfl
@[simp] theorem unagenda_ops (keep : Item → Bool) (s : State) : ((Upd.unagenda keep).apply s).ops = s.ops := rfl
@[simp] theorem unagenda_reqs (keep : Item → Bool) (s : State) : ((Upd.unagenda keep).apply s).reqs = s.reqs := rfl
@[simp] theorem unagenda_pkts (keep : Item → Bool) (s : State) : ((Upd.unagenda keep).apply s).pkts = s.pkts := rfl
@[simp] theorem unagenda_dev (keep : Item → Bool) (s : State) : ((Upd.unagenda keep).apply s).dev = s.dev := rfl
@[simp] theorem unagenda_agenda (keep : Item → Bool) (s : State) : ((Upd.unagenda keep).apply s).agenda = s.agenda.filter keep := rfl
@[simp] theorem unagenda_fresh (keep : Item → Bool) (s : State) : ((Upd.unagenda keep).apply s).fresh = s.fresh := rfl
@[simp] theorem unagenda_nid (keep : Item → Bool) (s : State) : ((Upd.unagenda keep).apply s).nid = s.nid := rfl
@[simp] theorem unagenda_iss (keep : Item → Bool) (s : State) : ((Upd.unagenda keep).apply s).iss = s.iss := rfl

@[simp] theorem x_cycle (n r : Nat) (v : Word) (s : State) : ((Upd.x n r v).apply s).cycle = s.cycle := by
  cases r <;> rfl
@[simp] theorem x_vreg (n r : Nat) (v : Word) (s : State) : ((Upd.x n r v).apply s).vreg = s.vreg := by
  cases r <;> rfl
@[simp] theorem x_preg (n r : Nat) (v : Word) (s : State) : ((Upd.x n r v).apply s).preg = s.preg := by
  cases r <;> rfl
@[simp] theorem x_breg (n r : Nat) (v : Word) (s : State) : ((Upd.x n r v).apply s).breg = s.breg := by
  cases r <;> rfl
@[simp] theorem x_latch (n r : Nat) (v : Word) (s : State) : ((Upd.x n r v).apply s).latch = s.latch := by
  cases r <;> rfl
@[simp] theorem x_tile (n r : Nat) (v : Word) (s : State) : ((Upd.x n r v).apply s).tile = s.tile := by
  cases r <;> rfl
@[simp] theorem x_sysreg (n r : Nat) (v : Word) (s : State) : ((Upd.x n r v).apply s).sysreg = s.sysreg := by
  cases r <;> rfl
@[simp] theorem x_tags (n r : Nat) (v : Word) (s : State) : ((Upd.x n r v).apply s).tags = s.tags := by
  cases r <;> rfl
@[simp] theorem x_istore (n r : Nat) (v : Word) (s : State) : ((Upd.x n r v).apply s).istore = s.istore := by
  cases r <;> rfl
@[simp] theorem x_sstore (n r : Nat) (v : Word) (s : State) : ((Upd.x n r v).apply s).sstore = s.sstore := by
  cases r <;> rfl
@[simp] theorem x_planes (n r : Nat) (v : Word) (s : State) : ((Upd.x n r v).apply s).planes = s.planes := by
  cases r <;> rfl
@[simp] theorem x_spad (n r : Nat) (v : Word) (s : State) : ((Upd.x n r v).apply s).spad = s.spad := by
  cases r <;> rfl
@[simp] theorem x_dram (n r : Nat) (v : Word) (s : State) : ((Upd.x n r v).apply s).dram = s.dram := by
  cases r <;> rfl
@[simp] theorem x_hostm (n r : Nat) (v : Word) (s : State) : ((Upd.x n r v).apply s).hostm = s.hostm := by
  cases r <;> rfl
@[simp] theorem x_upsets (n r : Nat) (v : Word) (s : State) : ((Upd.x n r v).apply s).upsets = s.upsets := by
  cases r <;> rfl
@[simp] theorem x_cores (n r : Nat) (v : Word) (s : State) : ((Upd.x n r v).apply s).cores = s.cores := by
  cases r <;> rfl
@[simp] theorem x_vaults (n r : Nat) (v : Word) (s : State) : ((Upd.x n r v).apply s).vaults = s.vaults := by
  cases r <;> rfl
@[simp] theorem x_yards (n r : Nat) (v : Word) (s : State) : ((Upd.x n r v).apply s).yards = s.yards := by
  cases r <;> rfl
@[simp] theorem x_tasks (n r : Nat) (v : Word) (s : State) : ((Upd.x n r v).apply s).tasks = s.tasks := by
  cases r <;> rfl
@[simp] theorem x_scopes (n r : Nat) (v : Word) (s : State) : ((Upd.x n r v).apply s).scopes = s.scopes := by
  cases r <;> rfl
@[simp] theorem x_ctxs (n r : Nat) (v : Word) (s : State) : ((Upd.x n r v).apply s).ctxs = s.ctxs := by
  cases r <;> rfl
@[simp] theorem x_ops (n r : Nat) (v : Word) (s : State) : ((Upd.x n r v).apply s).ops = s.ops := by
  cases r <;> rfl
@[simp] theorem x_reqs (n r : Nat) (v : Word) (s : State) : ((Upd.x n r v).apply s).reqs = s.reqs := by
  cases r <;> rfl
@[simp] theorem x_pkts (n r : Nat) (v : Word) (s : State) : ((Upd.x n r v).apply s).pkts = s.pkts := by
  cases r <;> rfl
@[simp] theorem x_dev (n r : Nat) (v : Word) (s : State) : ((Upd.x n r v).apply s).dev = s.dev := by
  cases r <;> rfl
@[simp] theorem x_agenda (n r : Nat) (v : Word) (s : State) : ((Upd.x n r v).apply s).agenda = s.agenda := by
  cases r <;> rfl
@[simp] theorem x_fresh (n r : Nat) (v : Word) (s : State) : ((Upd.x n r v).apply s).fresh = s.fresh := by
  cases r <;> rfl
@[simp] theorem x_nid (n r : Nat) (v : Word) (s : State) : ((Upd.x n r v).apply s).nid = s.nid := by
  cases r <;> rfl
@[simp] theorem x_iss (n r : Nat) (v : Word) (s : State) : ((Upd.x n r v).apply s).iss = s.iss := by
  cases r <;> rfl

@[simp] theorem p_cycle (n r : Nat) (m v : PWord) (s : State) : ((Upd.p n r m v).apply s).cycle = s.cycle := by
  cases r <;> rfl
@[simp] theorem p_xreg (n r : Nat) (m v : PWord) (s : State) : ((Upd.p n r m v).apply s).xreg = s.xreg := by
  cases r <;> rfl
@[simp] theorem p_vreg (n r : Nat) (m v : PWord) (s : State) : ((Upd.p n r m v).apply s).vreg = s.vreg := by
  cases r <;> rfl
@[simp] theorem p_breg (n r : Nat) (m v : PWord) (s : State) : ((Upd.p n r m v).apply s).breg = s.breg := by
  cases r <;> rfl
@[simp] theorem p_latch (n r : Nat) (m v : PWord) (s : State) : ((Upd.p n r m v).apply s).latch = s.latch := by
  cases r <;> rfl
@[simp] theorem p_tile (n r : Nat) (m v : PWord) (s : State) : ((Upd.p n r m v).apply s).tile = s.tile := by
  cases r <;> rfl
@[simp] theorem p_sysreg (n r : Nat) (m v : PWord) (s : State) : ((Upd.p n r m v).apply s).sysreg = s.sysreg := by
  cases r <;> rfl
@[simp] theorem p_tags (n r : Nat) (m v : PWord) (s : State) : ((Upd.p n r m v).apply s).tags = s.tags := by
  cases r <;> rfl
@[simp] theorem p_istore (n r : Nat) (m v : PWord) (s : State) : ((Upd.p n r m v).apply s).istore = s.istore := by
  cases r <;> rfl
@[simp] theorem p_sstore (n r : Nat) (m v : PWord) (s : State) : ((Upd.p n r m v).apply s).sstore = s.sstore := by
  cases r <;> rfl
@[simp] theorem p_planes (n r : Nat) (m v : PWord) (s : State) : ((Upd.p n r m v).apply s).planes = s.planes := by
  cases r <;> rfl
@[simp] theorem p_spad (n r : Nat) (m v : PWord) (s : State) : ((Upd.p n r m v).apply s).spad = s.spad := by
  cases r <;> rfl
@[simp] theorem p_dram (n r : Nat) (m v : PWord) (s : State) : ((Upd.p n r m v).apply s).dram = s.dram := by
  cases r <;> rfl
@[simp] theorem p_hostm (n r : Nat) (m v : PWord) (s : State) : ((Upd.p n r m v).apply s).hostm = s.hostm := by
  cases r <;> rfl
@[simp] theorem p_upsets (n r : Nat) (m v : PWord) (s : State) : ((Upd.p n r m v).apply s).upsets = s.upsets := by
  cases r <;> rfl
@[simp] theorem p_cores (n r : Nat) (m v : PWord) (s : State) : ((Upd.p n r m v).apply s).cores = s.cores := by
  cases r <;> rfl
@[simp] theorem p_vaults (n r : Nat) (m v : PWord) (s : State) : ((Upd.p n r m v).apply s).vaults = s.vaults := by
  cases r <;> rfl
@[simp] theorem p_yards (n r : Nat) (m v : PWord) (s : State) : ((Upd.p n r m v).apply s).yards = s.yards := by
  cases r <;> rfl
@[simp] theorem p_tasks (n r : Nat) (m v : PWord) (s : State) : ((Upd.p n r m v).apply s).tasks = s.tasks := by
  cases r <;> rfl
@[simp] theorem p_scopes (n r : Nat) (m v : PWord) (s : State) : ((Upd.p n r m v).apply s).scopes = s.scopes := by
  cases r <;> rfl
@[simp] theorem p_ctxs (n r : Nat) (m v : PWord) (s : State) : ((Upd.p n r m v).apply s).ctxs = s.ctxs := by
  cases r <;> rfl
@[simp] theorem p_ops (n r : Nat) (m v : PWord) (s : State) : ((Upd.p n r m v).apply s).ops = s.ops := by
  cases r <;> rfl
@[simp] theorem p_reqs (n r : Nat) (m v : PWord) (s : State) : ((Upd.p n r m v).apply s).reqs = s.reqs := by
  cases r <;> rfl
@[simp] theorem p_pkts (n r : Nat) (m v : PWord) (s : State) : ((Upd.p n r m v).apply s).pkts = s.pkts := by
  cases r <;> rfl
@[simp] theorem p_dev (n r : Nat) (m v : PWord) (s : State) : ((Upd.p n r m v).apply s).dev = s.dev := by
  cases r <;> rfl
@[simp] theorem p_agenda (n r : Nat) (m v : PWord) (s : State) : ((Upd.p n r m v).apply s).agenda = s.agenda := by
  cases r <;> rfl
@[simp] theorem p_fresh (n r : Nat) (m v : PWord) (s : State) : ((Upd.p n r m v).apply s).fresh = s.fresh := by
  cases r <;> rfl
@[simp] theorem p_nid (n r : Nat) (m v : PWord) (s : State) : ((Upd.p n r m v).apply s).nid = s.nid := by
  cases r <;> rfl
@[simp] theorem p_iss (n r : Nat) (m v : PWord) (s : State) : ((Upd.p n r m v).apply s).iss = s.iss := by
  cases r <;> rfl

@[simp] theorem mem_cycle (sp : Space) (a : Nat) (l : List Byte) (s : State) : ((Upd.mem sp a l).apply s).cycle = s.cycle := by
  cases sp <;> rfl
@[simp] theorem mem_xreg (sp : Space) (a : Nat) (l : List Byte) (s : State) : ((Upd.mem sp a l).apply s).xreg = s.xreg := by
  cases sp <;> rfl
@[simp] theorem mem_vreg (sp : Space) (a : Nat) (l : List Byte) (s : State) : ((Upd.mem sp a l).apply s).vreg = s.vreg := by
  cases sp <;> rfl
@[simp] theorem mem_preg (sp : Space) (a : Nat) (l : List Byte) (s : State) : ((Upd.mem sp a l).apply s).preg = s.preg := by
  cases sp <;> rfl
@[simp] theorem mem_breg (sp : Space) (a : Nat) (l : List Byte) (s : State) : ((Upd.mem sp a l).apply s).breg = s.breg := by
  cases sp <;> rfl
@[simp] theorem mem_latch (sp : Space) (a : Nat) (l : List Byte) (s : State) : ((Upd.mem sp a l).apply s).latch = s.latch := by
  cases sp <;> rfl
@[simp] theorem mem_tile (sp : Space) (a : Nat) (l : List Byte) (s : State) : ((Upd.mem sp a l).apply s).tile = s.tile := by
  cases sp <;> rfl
@[simp] theorem mem_sysreg (sp : Space) (a : Nat) (l : List Byte) (s : State) : ((Upd.mem sp a l).apply s).sysreg = s.sysreg := by
  cases sp <;> rfl
@[simp] theorem mem_tags (sp : Space) (a : Nat) (l : List Byte) (s : State) : ((Upd.mem sp a l).apply s).tags = s.tags := by
  cases sp <;> rfl
@[simp] theorem mem_istore (sp : Space) (a : Nat) (l : List Byte) (s : State) : ((Upd.mem sp a l).apply s).istore = s.istore := by
  cases sp <;> rfl
@[simp] theorem mem_sstore (sp : Space) (a : Nat) (l : List Byte) (s : State) : ((Upd.mem sp a l).apply s).sstore = s.sstore := by
  cases sp <;> rfl
@[simp] theorem mem_planes (sp : Space) (a : Nat) (l : List Byte) (s : State) : ((Upd.mem sp a l).apply s).planes = s.planes := by
  cases sp <;> rfl
@[simp] theorem mem_upsets (sp : Space) (a : Nat) (l : List Byte) (s : State) : ((Upd.mem sp a l).apply s).upsets = s.upsets := by
  cases sp <;> rfl
@[simp] theorem mem_cores (sp : Space) (a : Nat) (l : List Byte) (s : State) : ((Upd.mem sp a l).apply s).cores = s.cores := by
  cases sp <;> rfl
@[simp] theorem mem_vaults (sp : Space) (a : Nat) (l : List Byte) (s : State) : ((Upd.mem sp a l).apply s).vaults = s.vaults := by
  cases sp <;> rfl
@[simp] theorem mem_yards (sp : Space) (a : Nat) (l : List Byte) (s : State) : ((Upd.mem sp a l).apply s).yards = s.yards := by
  cases sp <;> rfl
@[simp] theorem mem_tasks (sp : Space) (a : Nat) (l : List Byte) (s : State) : ((Upd.mem sp a l).apply s).tasks = s.tasks := by
  cases sp <;> rfl
@[simp] theorem mem_scopes (sp : Space) (a : Nat) (l : List Byte) (s : State) : ((Upd.mem sp a l).apply s).scopes = s.scopes := by
  cases sp <;> rfl
@[simp] theorem mem_ctxs (sp : Space) (a : Nat) (l : List Byte) (s : State) : ((Upd.mem sp a l).apply s).ctxs = s.ctxs := by
  cases sp <;> rfl
@[simp] theorem mem_ops (sp : Space) (a : Nat) (l : List Byte) (s : State) : ((Upd.mem sp a l).apply s).ops = s.ops := by
  cases sp <;> rfl
@[simp] theorem mem_reqs (sp : Space) (a : Nat) (l : List Byte) (s : State) : ((Upd.mem sp a l).apply s).reqs = s.reqs := by
  cases sp <;> rfl
@[simp] theorem mem_pkts (sp : Space) (a : Nat) (l : List Byte) (s : State) : ((Upd.mem sp a l).apply s).pkts = s.pkts := by
  cases sp <;> rfl
@[simp] theorem mem_dev (sp : Space) (a : Nat) (l : List Byte) (s : State) : ((Upd.mem sp a l).apply s).dev = s.dev := by
  cases sp <;> rfl
@[simp] theorem mem_agenda (sp : Space) (a : Nat) (l : List Byte) (s : State) : ((Upd.mem sp a l).apply s).agenda = s.agenda := by
  cases sp <;> rfl
@[simp] theorem mem_fresh (sp : Space) (a : Nat) (l : List Byte) (s : State) : ((Upd.mem sp a l).apply s).fresh = s.fresh := by
  cases sp <;> rfl
@[simp] theorem mem_nid (sp : Space) (a : Nat) (l : List Byte) (s : State) : ((Upd.mem sp a l).apply s).nid = s.nid := by
  cases sp <;> rfl
@[simp] theorem mem_iss (sp : Space) (a : Nat) (l : List Byte) (s : State) : ((Upd.mem sp a l).apply s).iss = s.iss := by
  cases sp <;> rfl

end Sys2Proof.Machine
end

