-- ==== Sys2Proof/Laws/Ops.lean ====
section
/-! SUPPORT. Laws of the shared operations: tables, memory and its canonical form, updates in sequence. -/

namespace Sys2Proof.Machine

set_option Elab.async false

/-! ### Updates in sequence -/

@[simp] theorem applyAll_nil (s : State) : applyAll [] s = s := rfl
@[simp] theorem applyAll_cons (u : Upd) (l : List Upd) (s : State) : applyAll (u :: l) s = applyAll l (u.apply s) := rfl
@[simp] theorem applyAll_append (a b : List Upd) (s : State) : applyAll (a ++ b) s = applyAll b (applyAll a s) := by
  induction a generalizing s with
  | nil => rfl
  | cons u r ih => exact ih _
@[simp] theorem applyAll_seqA_nil (s : State) : applyAll (seqA [] s) s = s := rfl
@[simp] theorem applyAll_seqA_cons (a : Act) (r : List Act) (s : State) :
    applyAll (seqA (a :: r) s) s = applyAll (seqA r (applyAll (a s) s)) (applyAll (a s) s) := by
  simp [seqA]
theorem applyAll_whenA (c : State → Bool) (a : Act) (s : State) :
    applyAll (whenA c a s) s = if c s then applyAll (a s) s else s := by
  unfold whenA; split <;> simp_all
@[simp] theorem pureA_eq (l : List Upd) (s : State) : pureA l s = l := rfl
@[simp] theorem done_eq (a : Act) (s : State) : done a s = .next (applyAll (a s) s) := rfl

/-- What every update keeps, a sequence keeps. -/
theorem applyAll_keeps (P : State → Prop) (h : ∀ u s, P s → P (Upd.apply u s)) (l : List Upd) (s : State) (hs : P s) :
    P (applyAll l s) := by
  induction l generalizing s with
  | nil => exact hs
  | cons u r ih => exact ih _ (h u s hs)

/-! ### Tables -/

@[simp] theorem tget_tput_same {α : Type} (d v : α) (m : Tab α) (k : Nat) : tget d (tput m k v) k = v := by
  induction m with
  | nil => simp [tput, tget]
  | cons e r ih =>
    obtain ⟨a, w⟩ := e
    simp only [tput]
    split
    · simp [tget]
    · split
      · simp [tget]
      · simp_all [tget] <;> omega

theorem tget_tput_other {α : Type} (d v : α) (m : Tab α) (k j : Nat) (h : j ≠ k) :
    tget d (tput m k v) j = tget d m j := by
  induction m with
  | nil =>
    simp only [tput, tget]
    have : ¬ k = j := fun e => h e.symm
    simp [this]
  | cons e r ih =>
    obtain ⟨a, w⟩ := e
    have hk : ¬ k = j := fun e => h e.symm
    simp only [tput]
    split
    · rename_i hak
      have hak : a = k := by simpa using hak
      subst hak
      simp [tget, hk]
    · split
      · rename_i hka
        have hka : k < a := by simpa using hka
        simp only [tget]
        have hne : (k == j) = false := by simpa using hk
        rw [hne]
        by_cases hjk : j < k
        · have : ¬ a = j := by omega
          have : j < a := by omega
          simp [*]
        · simp [hjk]
      · simp only [tget, ih]

@[simp] theorem tfind_tput_same {α : Type} (v : α) (m : Tab α) (k : Nat) : tfind (tput m k v) k = some v := by
  induction m with
  | nil => simp [tput, tfind]
  | cons e r ih =>
    obtain ⟨a, w⟩ := e
    simp only [tput]
    split
    · simp [tfind]
    · split
      · simp [tfind]
      · simp_all [tfind]

/-! ### Memory -/

theorem wfFrom_mono {lo lo' : Nat} {m : List Host.Cell} (h : lo' ≤ lo) (hw : Memory.wfFrom lo m = true) :
    Memory.wfFrom lo' m = true := by
  cases m with
  | nil => rfl
  | cons e r =>
    obtain ⟨a, v⟩ := e
    simp only [Memory.wfFrom, Bool.and_eq_true, decide_eq_true_eq] at hw ⊢
    exact ⟨⟨Nat.le_trans h hw.1.1, hw.1.2⟩, hw.2⟩

theorem memDrop_wf {lo : Nat} {m : List Host.Cell} (a : Nat) (hw : Memory.wfFrom lo m = true) :
    Memory.wfFrom lo (memDrop m a) = true := by
  induction m generalizing lo with
  | nil => rfl
  | cons e r ih =>
    obtain ⟨b, w⟩ := e
    simp only [Memory.wfFrom, Bool.and_eq_true, decide_eq_true_eq] at hw
    simp only [memDrop]
    split
    · exact wfFrom_mono (by omega) hw.2
    · split
      · simp only [Memory.wfFrom, Bool.and_eq_true, decide_eq_true_eq]; exact hw
      · simp only [Memory.wfFrom, Bool.and_eq_true, decide_eq_true_eq]
        exact ⟨hw.1, ih hw.2⟩

theorem tput_wf {lo : Nat} {m : List Host.Cell} (a : Nat) (v : Byte) (hv : v ≠ 0#8) (hlo : lo ≤ a)
    (hw : Memory.wfFrom lo m = true) : Memory.wfFrom lo (tput m a v) = true := by
  induction m generalizing lo with
  | nil => simp [tput, Memory.wfFrom, hv, hlo]
  | cons e r ih =>
    obtain ⟨b, w⟩ := e
    simp only [Memory.wfFrom, Bool.and_eq_true, decide_eq_true_eq] at hw
    simp only [tput]
    split
    · rename_i h
      have h : b = a := by simpa using h
      subst h
      simp [Memory.wfFrom, hv, hlo, hw.2]
    · rename_i hne
      have hne : ¬ b = a := by simpa using hne
      split
      · simp only [Memory.wfFrom, Bool.and_eq_true, decide_eq_true_eq]
        refine ⟨⟨hlo, by simpa using hv⟩, ⟨by omega, hw.1.2⟩, hw.2⟩
      · simp only [Memory.wfFrom, Bool.and_eq_true, decide_eq_true_eq]
        exact ⟨hw.1, ih (by omega) hw.2⟩

theorem memSet_wf {m : List Host.Cell} (a : Nat) (v : Byte) (hw : Memory.wf m = true) : Memory.wf (memSet m a v) = true := by
  unfold memSet
  split
  · exact memDrop_wf a hw
  · rename_i h
    exact tput_wf a v (by simpa using h) (Nat.zero_le _) hw

theorem memSets_wf (l : List Byte) {m : List Host.Cell} (a : Nat) (hw : Memory.wf m = true) :
    Memory.wf (memSets m a l) = true := by
  induction l generalizing m a with
  | nil => exact hw
  | cons v r ih => exact ih (a + 1) (memSet_wf a v hw)

theorem memGet_below {lo a : Nat} {m : List Host.Cell} (hw : Memory.wfFrom lo m = true) (h : a < lo) : memGet m a = 0#8 := by
  cases m with
  | nil => rfl
  | cons e r =>
    obtain ⟨b, w⟩ := e
    simp only [Memory.wfFrom, Bool.and_eq_true, decide_eq_true_eq] at hw
    have h1 : ¬ b = a := by omega
    have h2 : a < b := by omega
    simp [memGet, tget, h1, h2]

theorem memGet_memDrop {lo : Nat} {m : List Host.Cell} (a : Nat) (hw : Memory.wfFrom lo m = true) (j : Nat) :
    memGet (memDrop m a) j = if j = a then 0#8 else memGet m j := by
  induction m generalizing lo with
  | nil => simp [memDrop, memGet, tget]
  | cons e r ih =>
    obtain ⟨b, w⟩ := e
    simp only [Memory.wfFrom, Bool.and_eq_true, decide_eq_true_eq] at hw
    have ih' := ih hw.2
    simp only [memGet] at ih' ⊢
    simp only [memDrop]
    split
    · rename_i h
      have h : b = a := by simpa using h
      subst h
      split
      · subst_vars
        exact memGet_below hw.2 (by omega)
      · rename_i hj
        have hb : ¬ b = j := fun e => hj e.symm
        simp only [tget, beq_iff_eq, hb, if_false]
        split
        · exact memGet_below hw.2 (by omega)
        · rfl
    · rename_i h
      have h : ¬ b = a := by simpa using h
      split
      · split
        · subst_vars
          have h2 : j < b := by assumption
          simp [tget, h, h2]
        · rfl
      · simp only [tget]
        by_cases hbj : b = j
        · subst hbj; simp [h]
        · simp only [beq_iff_eq, hbj, if_false]
          split
          · split <;> rfl
          · exact ih'

/-- Reading a byte after writing one. -/
theorem memGet_memSet {m : List Host.Cell} (a : Nat) (v : Byte) (hw : Memory.wf m = true) (j : Nat) :
    memGet (memSet m a v) j = if j = a then v else memGet m j := by
  unfold memSet
  split
  · rename_i h
    have h : v = 0#8 := by simpa using h
    rw [memGet_memDrop a hw j, h]
  · split
    · subst_vars; exact tget_tput_same _ _ _ _
    · rename_i h; exact tget_tput_other _ _ _ _ _ h

/-- Writing bytes leaves every address outside them. -/
theorem memGet_memSets_out (l : List Byte) {m : List Host.Cell} (a : Nat) (hw : Memory.wf m = true) (j : Nat)
    (h : j < a ∨ a + l.length ≤ j) : memGet (memSets m a l) j = memGet m j := by
  induction l generalizing m a with
  | nil => rfl
  | cons v r ih =>
    simp only [memSets, List.length_cons] at h ⊢
    rw [ih (a + 1) (memSet_wf a v hw) (by omega), memGet_memSet a v hw]
    have : ¬ j = a := by omega
    simp [this]

/-- Writing bytes, then reading them. -/
theorem memGets_memSets (l : List Byte) {m : List Host.Cell} (a : Nat) (hw : Memory.wf m = true) :
    memGets (memSets m a l) a l.length = l := by
  induction l generalizing m a with
  | nil => rfl
  | cons v r ih =>
    simp only [memSets, List.length_cons, memGets]
    rw [ih (a + 1) (memSet_wf a v hw),
      memGet_memSets_out r (a + 1) (memSet_wf a v hw) a (by omega), memGet_memSet a v hw]
    simp

end Sys2Proof.Machine
end

