-- ==== Sys2Proof/Laws/Exec.lean ====
section
/-! SUPPORT. What the shared operations of the meanings can do, said once: every meaning is a list of updates, a check
that finds a fault takes it, and each update keeps the invariants of the machine. -/

namespace Sys2Proof.Machine

set_option Elab.async false

/-! ### Meanings -/

/-- Every meaning answers a next state, reached by updates. -/
theorem exec_applyAll (i : Instr) (s : State) : ∃ us, exec i s = .next (applyAll us s) := by
  cases i <;> exact ⟨_, rfl⟩

theorem guarded_none {c : State → Option Flt} {a : Act} {s : State} (h : c s = none) : guarded c a s = a s := by
  simp [guarded, h]

theorem guarded_some {c : State → Option Flt} {a : Act} {s : State} {f : Flt} (h : c s = some f) :
    guarded c a s = faultAt s.me f s := by
  simp [guarded, h]

theorem andThen_none {a b : State → Option Flt} {s : State} (h : andThen a b s = none) : a s = none ∧ b s = none := by
  unfold andThen at h
  split at h
  · exact absurd h (by simp)
  · rename_i e; exact ⟨e, h⟩

theorem checked_none {l c : State → Option Flt} {a : Act} {s : State} (h : l s = none) (h' : c s = none) :
    checked l c a s = a s := by
  simp [checked, guarded, andThen, h, h']

/-- What a scalar result without flags does: one entry on its way, and nothing else. -/
theorem emitX_spec (lat d : Nat) (nb : Bool) (v : Word) (s : State) :
    ∃ p, applyAll (emitX lat d nb v s) s = s.queued s.me p ∧
      PlainResult s lat (if nb then [] else [.x d v]) (some (v.setWidth 1024)) p := by
  refine ⟨_, rfl, ?_⟩
  cases nb <;> simp [PlainResult, mkPend, wrX, latX]

/-! ### Tables -/

theorem risingFrom_mono {α : Type} {m : Tab α} : ∀ {lo lo' : Nat}, lo' ≤ lo → risingFrom lo m = true → risingFrom lo' m = true := by
  cases m with
  | nil => intros; rfl
  | cons e r =>
    intro lo lo' h hw
    simp only [risingFrom, Bool.and_eq_true, decide_eq_true_eq] at hw ⊢
    exact ⟨by omega, hw.2⟩

theorem tput_rising {α : Type} (k : Nat) (v : α) {m : Tab α} : ∀ {lo : Nat}, lo ≤ k → risingFrom lo m = true →
    risingFrom lo (tput m k v) = true := by
  induction m with
  | nil => intro lo h _; simp [tput, risingFrom, h]
  | cons e r ih =>
    intro lo h hw
    obtain ⟨a, b⟩ := e
    simp only [risingFrom, Bool.and_eq_true, decide_eq_true_eq] at hw
    simp only [tput]
    split
    · rename_i e; obtain rfl := by simpa using e
      simp [risingFrom, hw.1, hw.2]
    · split
      · simp only [risingFrom, Bool.and_eq_true, decide_eq_true_eq]
        exact ⟨h, by omega, hw.2⟩
      · rename_i h1 h2
        simp only [risingFrom, Bool.and_eq_true, decide_eq_true_eq]
        refine ⟨hw.1, ih ?_ hw.2⟩
        have : a ≠ k := by simpa using h1
        omega

theorem filter_rising {α : Type} (f : Nat × α → Bool) {m : Tab α} : ∀ {lo : Nat}, risingFrom lo m = true →
    risingFrom lo (m.filter f) = true := by
  induction m with
  | nil => intros; rfl
  | cons e r ih =>
    intro lo hw
    obtain ⟨a, b⟩ := e
    simp only [risingFrom, Bool.and_eq_true, decide_eq_true_eq] at hw
    simp only [List.filter]
    split
    · simp only [risingFrom, Bool.and_eq_true, decide_eq_true_eq]
      exact ⟨hw.1, ih hw.2⟩
    · exact risingFrom_mono (by omega) (ih hw.2)

theorem tclear_rising {α : Type} (lo n : Nat) {m : Tab α} (h : risingFrom 0 m = true) : risingFrom 0 (tclear m lo n) = true := by
  unfold tclear; exact filter_rising _ h

theorem tdel_rising {α : Type} (k : Nat) {m : Tab α} (h : risingFrom 0 m = true) : risingFrom 0 (tdel m k) = true :=
  filter_rising _ h

theorem tplace_rising {α : Type} (lo : Nat) (l : Tab α) : ∀ {m : Tab α}, risingFrom 0 m = true → risingFrom 0 (tplace m lo l) = true := by
  induction l with
  | nil => intro m h; exact h
  | cons e r ih => intro m h; exact ih (tput_rising _ _ (Nat.zero_le _) h)

theorem tfind_tput_other {α : Type} (v : α) (m : Tab α) (k j : Nat) (h : j ≠ k) : tfind (tput m k v) j = tfind m j := by
  induction m with
  | nil => simp [tput, tfind, Ne.symm h]
  | cons e r ih =>
    obtain ⟨a, b⟩ := e
    simp only [tput]
    split
    · rename_i e; obtain rfl := by simpa using e
      simp [tfind, Ne.symm h]
    · split
      · simp [tfind, Ne.symm h]
      · simp only [tfind, List.find?] at ih ⊢
        split
        · rfl
        · exact ih

/-! ### The agenda -/

theorem agendaFrom_mono {l : List Item} {d p d' p' : Nat} (h : d' < d ∨ (d' = d ∧ p' ≤ p)) (hl : agendaFrom d p l = true) :
    agendaFrom d' p' l = true := by
  cases l with
  | nil => rfl
  | cons i r =>
    simp only [agendaFrom, Bool.and_eq_true, Bool.or_eq_true, decide_eq_true_eq, beq_iff_eq] at hl ⊢
    exact ⟨by omega, hl.2⟩

theorem postItem_order (i : Item) {l : List Item} : ∀ {d p : Nat}, (d < i.due ∨ (d = i.due ∧ p ≤ i.ph)) → agendaFrom d p l = true →
    agendaFrom d p (postItem i l) = true := by
  induction l with
  | nil => intro d p h _; simp [postItem, agendaFrom]; omega
  | cons j r ih =>
    intro d p h hl
    simp only [agendaFrom, Bool.and_eq_true, Bool.or_eq_true, decide_eq_true_eq, beq_iff_eq] at hl
    simp only [postItem]
    split
    · rename_i hc
      simp only [Bool.or_eq_true, Bool.and_eq_true, decide_eq_true_eq, beq_iff_eq] at hc
      simp only [agendaFrom, Bool.and_eq_true, Bool.or_eq_true, decide_eq_true_eq, beq_iff_eq]
      exact ⟨by omega, by omega, hl.2⟩
    · rename_i hc
      simp only [Bool.or_eq_true, Bool.and_eq_true, decide_eq_true_eq, beq_iff_eq] at hc
      simp only [agendaFrom, Bool.and_eq_true, Bool.or_eq_true, decide_eq_true_eq, beq_iff_eq]
      exact ⟨hl.1, ih (by omega) hl.2⟩

theorem filter_order (f : Item → Bool) {l : List Item} : ∀ {d p : Nat}, agendaFrom d p l = true → agendaFrom d p (l.filter f) = true := by
  induction l with
  | nil => intros; rfl
  | cons j r ih =>
    intro d p hl
    simp only [agendaFrom, Bool.and_eq_true, Bool.or_eq_true, decide_eq_true_eq, beq_iff_eq] at hl
    simp only [List.filter]
    split
    · simp only [agendaFrom, Bool.and_eq_true, Bool.or_eq_true, decide_eq_true_eq, beq_iff_eq]
      exact ⟨hl.1, ih hl.2⟩
    · exact agendaFrom_mono hl.1 (ih hl.2)

/-! ### Each update keeps the invariants -/

theorem reset_rising : risingFrom 0 State.reset.sysreg = true := by decide +kernel

theorem setMem_memOk (s : State) (sp : Space) (m : List Host.Cell) (hs : s.memOk = true) (hm : Memory.wf m = true) :
    (s.setMem sp m).memOk = true := by
  simp only [State.memOk, Bool.and_eq_true] at hs ⊢
  cases sp <;> simp [State.setMem, hs.1.1, hs.1.2, hs.2, hm]

theorem mem_wf (s : State) (sp : Space) (hs : s.memOk = true) : Memory.wf (s.mem sp) = true := by
  simp only [State.memOk, Bool.and_eq_true] at hs
  cases sp <;> simp [State.mem, hs.1.1, hs.1.2, hs.2]

/-- Every update keeps the memories in canonical form. -/
theorem apply_memOk (u : Upd) (s : State) (hs : s.memOk = true) : (u.apply s).memOk = true := by
  cases u with
  | mem sp a bs => exact setMem_memOk s sp _ hs (memSets_wf bs a (mem_wf s sp hs))
  | bring fw keep =>
    simp only [State.memOk, Bool.and_eq_true] at hs ⊢
    exact ⟨⟨rfl, rfl⟩, hs.2⟩
  | x n r v => simp only [Upd.apply]; split <;> exact hs
  | p n r m v => simp only [Upd.apply]; split <;> exact hs
  | _ => exact hs

/-- Every update keeps the agenda in order. -/
theorem apply_agendaOk (u : Upd) (s : State) (hs : s.agendaOk = true) : (u.apply s).agendaOk = true := by
  unfold State.agendaOk at hs ⊢
  cases u with
  | post i => exact postItem_order i (by omega) hs
  | unagenda f => exact filter_order f hs
  | bring fw keep => exact postItem_order _ (by omega) (filter_order keep hs)
  | mem sp a bs => cases sp <;> exact hs
  | x n r v => simp only [Upd.apply]; split <;> exact hs
  | p n r m v => simp only [Upd.apply]; split <;> exact hs
  | _ => exact hs

/-- Every update keeps the register tables in order. -/
theorem apply_regsOk (u : Upd) (s : State) (hs : s.regsOk = true) : (u.apply s).regsOk = true := by
  have hs' := hs
  simp only [State.regsOk, Bool.and_eq_true] at hs'
  obtain ⟨⟨⟨⟨⟨⟨h1, h2⟩, h3⟩, h4⟩, h5⟩, h6⟩, h7⟩ := hs'
  have z (n : Nat) : 0 ≤ n := Nat.zero_le n
  cases u with
  | x n r v => simp only [Upd.apply]; split <;> simp [State.regsOk, tput_rising _ _ (z _), *]
  | v n r m v => simp [Upd.apply, State.regsOk, tput_rising _ _ (z _), *]
  | p n r m v => simp only [Upd.apply]; split <;> simp [State.regsOk, tput_rising _ _ (z _), *]
  | b n r bx => cases bx <;> simp [Upd.apply, State.regsOk, tput_rising _ _ (z _), tdel_rising, *]
  | lat n k v => simp [Upd.apply, State.regsOk, tput_rising _ _ (z _), *]
  | tile k v => simp [Upd.apply, State.regsOk, tput_rising _ _ (z _), *]
  | sr n r v => simp [Upd.apply, State.regsOk, tput_rising _ _ (z _), *]
  | clear n => simp [Upd.apply, State.regsOk, tclear_rising, *]
  | unlatch n => simp [Upd.apply, State.regsOk, tclear_rising, *]
  | restore n c =>
    simp [Upd.apply, State.regsOk, tclear_rising, tplace_rising, *]
    exact tplace_rising _ _ (tclear_rising _ _ (tclear_rising _ _ h7))
  | bring fw keep => simp [Upd.apply, State.regsOk, reset_rising]; simp [State.reset, risingFrom]
  | mem sp a bs => cases sp <;> exact hs
  | _ => exact hs

/-- Updates keep all three. -/
theorem applyAll_invariants (us : List Upd) (s : State) :
    (s.memOk = true → (applyAll us s).memOk = true) ∧ (s.agendaOk = true → (applyAll us s).agendaOk = true) ∧
      (s.regsOk = true → (applyAll us s).regsOk = true) :=
  ⟨applyAll_keeps (·.memOk = true) apply_memOk us s, applyAll_keeps (·.agendaOk = true) apply_agendaOk us s,
    applyAll_keeps (·.regsOk = true) apply_regsOk us s⟩

end Sys2Proof.Machine
end

