-- ==== Sys2Proof/Laws/Lanes.lean ====
section
/-! SUPPORT. Laws of lanes: the lanes of a number by index, and the lane-wise frame as a list over the lane numbers. -/

namespace Sys2Proof.Machine

set_option Elab.async false

theorem lanesOf_length (sz n v : Nat) : (lanesOf sz n v).length = n := by
  induction n generalizing v with
  | zero => rfl
  | succ k ih => simp [lanesOf, ih]

/-- Lane i of a number is its bits from sz·i. -/
theorem lanesOf_getD (sz n v i : Nat) (h : i < n) : (lanesOf sz n v).getD i 0 = bitsOf v (sz * i) sz := by
  induction n generalizing v i with
  | zero => omega
  | succ k ih =>
    cases i with
    | zero => simp [lanesOf, bitsOf]
    | succ j =>
      have := ih (v / 2 ^ sz) j (by omega)
      simp only [lanesOf, List.getD_cons_succ, this, bitsOf, Nat.div_div_eq_div_mul, ← Nat.pow_add]
      congr 3
      rw [Nat.mul_succ, Nat.add_comm]

theorem lanesOf_tail (sz n v : Nat) : (lanesOf sz (n + 1) v).tail = lanesOf sz n (v / 2 ^ sz) := rfl

/-- The frame of R149 lane by lane. -/
theorem lanes3_eq (f : Nat → Nat → Nat → Nat → Nat × Nat) (ms : List Bool) (k : Nat) (as bs ds : List Nat) :
    lanes3 f k ms as bs ds = (List.range ms.length).map (fun i =>
      if ms.getD i false then some (f (k + i) (as.getD i 0) (bs.getD i 0) (ds.getD i 0)) else none) := by
  induction ms generalizing k as bs ds with
  | nil => rfl
  | cons m r ih =>
    simp only [lanes3, List.length_cons, List.range_succ_eq_map, List.map_cons, List.map_map, ih]
    congr 1
    · cases as <;> cases bs <;> cases ds <;> simp
    · apply List.map_congr_left
      intro i _
      have h : ∀ l : List Nat, l.tail.getD i 0 = l.getD (i + 1) 0 := by
        intro l; cases l <;> simp
      simp only [Function.comp, List.getD_cons_succ, h, Nat.add_assoc, Nat.add_comm 1]

theorem maskBits_length (s : State) (sz n : Nat) : (s.maskBits sz n).length = n := by simp [State.maskBits]

theorem maskBits_getD (s : State) (sz n i : Nat) (h : i < n) :
    (s.maskBits sz n).getD i false = (s.pn s.selector.1).getLsbD (i * sz / 8) := by
  simp [State.maskBits, List.getD, h]

end Sys2Proof.Machine
end

