-- ==== Sys2Proof/Tests/Slice0.lean ====
section
/-! SUPPORT. Tests of one instruction or one step each, and for every statement with hypotheses a state and operands that
meet them. Expected values come from the rules each comment names. -/

namespace Sys2Proof.Tests

set_option Elab.async false

open Sys2Proof Sys2Proof.Machine

/-! ### Well-formedness: a term for each check, which the check refuses -/

theorem test_wf_refuses_control : [Instr.br 16384, .brc 64 0 0, .brc 0 6 0, .brc 0 0 16384, .brl 64 0, .brl 0 16384, .brx 64,
    .zloop 64 0, .zloop 0 16384, .waitc 64 0, .waitc 0 1048576, .waitt 64, .syncd 0, .syncd 4, .syncd 6, .setfmt 64 0,
    .setfmt 0 16, .setmsk 16 0 0 0 0 0 0, .setmsk 0 2 0 0 0 0 0, .setmsk 0 0 16 0 0 0 0, .setmsk 0 0 0 2 0 0 0,
    .setmsk 0 0 0 0 16 0 0, .setmsk 0 0 0 0 0 2 0, .setmsk 0 0 0 0 0 0 8, .setmsk 1 0 0 0 0 0 1, .setmsk 0 0 0 1 0 0 2,
    .setmsk 0 0 0 0 1 0 4, .spawn 4 0, .spawn 0 16384, .tcall 1024 0 0 0 0, .tcall 0 64 0 0 0, .tcall 0 0 4 0 0,
    .tcall 0 0 0 9 0, .tcall 0 0 0 0 9, .finopen 64, .finwait 64, .trap 65536, .svc 65536, .mfs 64 0, .mfs 0 4096, .mts 64 0,
    .mts 0 4096, .hdr 8 0 0 0 0 0, .hdr 0 32 0 0 0 0, .hdr 0 0 8 0 0 0, .hdr 0 0 0 32 0 0, .hdr 0 0 0 0 8 0,
    .hdr 0 0 0 0 0 32].all (fun i => !i.wf) = true := by decide

theorem test_wf_refuses_operands : [Instr.movi 64 0, .movi 0 16384, .movhi 0 (-16385), .addi 64 (.reg 0) 0, .addi 0 (.reg 64) 0,
    .addi 0 (.lat 0) 0, .addi 0 (.lat 8) 0, .add 64 false (.reg 0) (.reg 0), .add 1 true (.reg 0) (.reg 0),
    .add 0 false (.reg 0) (.lat 0), .mulh 0 false (.reg 0) (.reg 0) 2, .fadd 0 false (.reg 0) (.reg 0) 4,
    .fcvt 0 false (.reg 0) 16 0, .fcvt 0 false (.reg 0) 0 4, .fexp2 0 false (.lat 0), .fdiv 0 true (.reg 64) (.reg 0),
    .vadd 0 false (.reg 0) (.reg 0) 3, .vabs 64 false (.reg 0) 0, .vcmp 4 0 false (.reg 0) (.reg 0) 0,
    .vcmp 0 16 false (.reg 0) (.reg 0) 0, .vcmp 1 0 true (.reg 0) (.reg 0) 0, .pand 16 false (.reg 0) (.reg 0),
    .pand 0 false (.reg 16) (.reg 0), .pcnt 0 false (.lat 8), .pset 0 false 128, .pset 16 false 0].all
      (fun i => !i.wf) = true := by decide

theorem test_wf_refuses_units : [Instr.ldw 16 0 0, .ldw 0 64 0, .ldw 0 0 12, .ldws 0 16 0 0, .mma 8 0 0 0 0, .mma 0 16 0 0 0,
    .mma 0 0 64 0 0, .mma 0 0 0 64 0, .mma 0 0 0 0 12, .mmaz 8 0 0 0 0, .tst 0 0 0 0 13, .trd 8 0 0, .trd 0 64 0, .twr 0 0 64, .tzero 8,
    .outer 0 16 0 0 0, .outer 0 0 16 0 0, .outer 0 0 0 64 0, .outer 0 0 0 0 16, .ld 0 false 16 0, .ld 0 false 0 64, .st 64 0 0,
    .vld 0 false 0 0 3, .vst 0 0 0 3, .vldx 0 false 0 (.lat 0) 0, .vstx 0 16 (.reg 0) 0, .ldt 1 true 0 0, .vldt 0 false 16 0 0,
    .vldz 0 false 0 64 0, .boxsub 4 0 0 0 0, .boxsub 0 16 0 0 0, .boxsub 0 0 2 0 0, .boxsub 0 0 0 16 0, .boxsub 0 0 0 0 64,
    .boxinf 0 false 16 0, .boxinf 0 false 0 7, .boxinf 0 false 0 15, .boxinf 0 false 0 17, .boxmov 16 0, .boxmov 0 17, .fence 7 0,
    .fence 0 3, .pub (.lat 0), .cpy 16 0 0 0 0 0 0 0, .cpy 0 0 0 9 0 0 0 0, .cpy 0 0 0 0 2 0 0 0, .cpy 0 0 0 0 0 1 0 0,
    .cpy 0 0 0 0 0 0 0 1, .cpy 0 0 0 1 0 0 0 5, .cpy 0 0 63 8 0 0 0 0, .gath 16 0 0, .gath 0 16 0, .gath 0 0 16, .scac 0 0 0 0 6 0,
    .scac 0 0 0 0 1 1, .scac 0 0 0 1 0 0, .scac 0 0 0 1 3 0, .fold 0 0 8 0 0 0, .fold 0 0 0 64 0 0, .fold 0 0 0 0 2 0,
    .fold 0 0 0 0 0 2, .scan 0 0 0 0 0 2 0 0, .scan 0 0 0 0 0 0 1 0, .zip 0 0 0 64 0, .zip 0 0 0 0 2, .vrun 16 0 0, .vrun 0 63 0,
    .vrun 0 0 4096, .vstop 16, .rbfill 0, .rbfill 17, .dlvset 16 0 0 0, .dlvset 0 0 0 64, .dlvwait 16 0, .dlvwait 0 64].all
      (fun i => !i.wf) = true := by decide

theorem test_wf_refuses_exchange_and_vault : [Instr.send 2 0 0 0, .send 0 4 0 0, .send 1 64 0 0, .send 0 0 16 0, .send 0 0 0 64,
    .recv 0 4 0 0, .recvop 0 0 0 0 4 0, .recvop 0 0 0 0 0 1, .recvop 0 0 0 0 3 64, .coll 16 0 0 1 0 0, .coll 0 0 0 4 0 0,
    .coll 0 0 0 1 2 0, .coll 0 0 0 1 0 5, .ttarm 64 0, .ttarm 0 4096, .lsend 16 0 0, .lsend 0 0 16, .xstat 64 0 0, .xstat 0 4 0,
    .xstat 0 3 16, .xstat 0 0 1, .vaultHalt 32, .act 32 0 0 0 0, .act 0 4 0 0 0, .act 0 0 4 0 0, .act 0 0 0 4 0, .act 0 0 0 0 32768,
    .rd 0 0 0 0 16 0 0, .rda 0 0 0 0 0 8 0, .wr 0 0 0 0 0 0 512, .wra 32 0 0 0 0 0 0, .pre 0 0 0 4, .prea 0 4, .refpb 0 0 4 0,
    .refab 32 0, .wait 0 4194304, .loop 0 1024 0, .loop 0 0 4096, .jump 0 4096, .start 0 4194304, .vopen 32 0, .tagw 0 8 0,
    .tagw 0 0 512].all (fun i => !i.wf) = true := by decide

/-! ### Decoding: a word of every instruction, its fields at the places the rules give -/

/-- The fields of R41: class, opcode, dest, nowb, srcA, srcB, mod. -/
def reg (c o d nb a b m : Nat) : Nat := c * 2 ^ 29 + o * 2 ^ 23 + d * 2 ^ 17 + nb * 2 ^ 16 + a * 2 ^ 9 + b * 2 ^ 2 + m
/-- The control slot of R34: opcode and bits 25–0. -/
def ctl (o w : Nat) : Nat := o * 2 ^ 26 + w
/-- A vault command of R258: code, gap and bits 21–0. -/
def cmd (o g w : Nat) : Nat := o * 2 ^ 27 + g * 2 ^ 22 + w
def slotIs (l : List (Nat × Instr)) : Bool := l.all (fun e => match decodeSlot e.1 none with
  | .ok i => i == e.2
  | .error _ => false)
def ctlIs (l : List (Nat × Instr)) : Bool := l.all (fun e => match decodeControl e.1 with
  | .ok i => i == e.2
  | .error _ => false)
def cmdIs (l : List (Nat × Instr)) : Bool := l.all (fun e => match decodeVault e.1 with
  | .ok i => i == e.2
  | .error _ => false)

/-- The words the rules write out themselves. -/
theorem test_words_of_the_text : (slotIs [(0x20860000, .movi 3 0), (0x21060300, .movhi 3 (-256)),
      (0x484A0209, .vcmp 2 5 false (.reg 1) (.reg 2) 1), (0x80088600, .ldw 1 4 3), (0x81000000, .swpw), (0x82800200, .trd 0 0 2),
      (0x83000100, .twr 0 0 1), (0x83821060, .tst 0 2 4 6 0), (0x81801063, .mma 0 0 4 6 3), (0x84923180, .outer 1 2 3 6 0),
      (0x84000000, .tzero 0), (0xA6000602, .fence 3 2), (0xA6800A00, .pub (.reg 5)), (0xC4100000, .rbfill 4), (0xC3B80000, .vstop 7),
      (0xC3380000, .vrun 7 0 0), (0xC12B3800, .scac 5 6 7 0 0 0), (0xE0012100, .send 0 1 2 4), (0xE0803140, .recv 0 0 3 5),
      (0xE1A1AD00, .coll 4 3 5 5 0 0), (0xE2120000, .ttarm 9 0), (0xE2A12800, .lsend 4 2 5), (0xE30A6400, .xstat 5 3 2),
      (0xA4B00010, .boxsub 1 8 0 0 4)] &&
    ctlIs [(0x2CC00006, .setmsk 3 0 0 0 0 0 6), (0x20900000, .waitt 9), (0x1C000064, .waitc 0 100), (0x18000000, .close),
      (0x15400040, .zloop 20 0x40), (0x3400A088, .tcall 0 40 0 8 8), (0x32000100, .spawn 2 0x100), (0x3E800000, .finopen 40),
      (0x42800000, .finwait 40), (0x24800000, .syncd 1), (0x48000C00, .svc 3), (0x44001C00, .trap 7), (0x4C000000, .eret)]) = true := by
  decide +kernel

/-- Control (R34, R38, R114, R347). -/
theorem test_words_control : ctlIs [(0, .nop), (ctl 1 9, .br 9), (ctl 2 (5 * 2 ^ 20 + 4 * 2 ^ 17 + 9), .brc 5 4 9),
    (ctl 3 (5 * 2 ^ 20 + 9), .brl 5 9), (ctl 4 (5 * 2 ^ 20), .brx 5), (ctl 0xA (5 * 2 ^ 20 + 1 * 2 ^ 16), .setfmt 5 1),
    (ctl 0xE 0, .tret), (ctl 0x3E 0, .halt), (ctl 0x3F (1 * 2 ^ 21 + 2 * 2 ^ 16 + 3 * 2 ^ 13 + 4 * 2 ^ 8 + 5 * 2 ^ 5 + 6), .hdr 1 2 3 4 5 6)] =
    true := by decide +kernel

/-- The S class (R58, R59). -/
theorem test_words_scalar : slotIs [(reg 1 0 5 0 6 0 0, .mov 5 false (.reg 6)), (reg 1 3 5 0 6 7 0, .add 5 false (.reg 6) (.reg 7)),
    (reg 1 5 5 0 6 7 0, .sub 5 false (.reg 6) (.reg 7)), (reg 1 6 5 0 6 7 0, .mul 5 false (.reg 6) (.reg 7)),
    (reg 1 7 5 0 6 7 1, .mulh 5 false (.reg 6) (.reg 7) 1), (reg 1 8 5 0 6 7 1, .div 5 false (.reg 6) (.reg 7) 1),
    (reg 1 9 5 0 6 7 0, .rem 5 false (.reg 6) (.reg 7) 0), (reg 1 0xA 5 0 6 7 0, .and 5 false (.reg 6) (.reg 7)),
    (reg 1 0xB 5 0 6 7 0, .or 5 false (.reg 6) (.reg 7)), (reg 1 0xC 5 0 6 7 0, .xor 5 false (.reg 6) (.reg 7)),
    (reg 1 0xD 5 0 6 7 0, .andn 5 false (.reg 6) (.reg 7)), (reg 1 0xE 5 0 6 7 0, .shl 5 false (.reg 6) (.reg 7)),
    (reg 1 0xF 5 0 6 7 0, .shr 5 false (.reg 6) (.reg 7)), (reg 1 0x10 5 0 6 7 0, .sar 5 false (.reg 6) (.reg 7)),
    (reg 1 0x11 5 0 6 0 0, .clz 5 false (.reg 6)), (reg 1 0x12 5 0 6 0 0, .popc 5 false (.reg 6)),
    (reg 1 0x13 5 0 6 7 1, .bfx 5 false (.reg 6) (.reg 7) 1), (reg 1 0x14 5 0 6 7 0, .bfi 5 false (.reg 6) (.reg 7)),
    (reg 1 0x15 5 0 6 7 1, .min 5 false (.reg 6) (.reg 7) 1), (reg 1 0x16 5 0 6 7 0, .max 5 false (.reg 6) (.reg 7) 0),
    (reg 1 0x17 5 0 6 7 1, .cmp 5 false (.reg 6) (.reg 7) 1), (reg 1 0x18 5 0 6 7 0, .sel 5 false (.reg 6) (.reg 7)),
    (reg 1 0x19 5 0 6 7 3, .fadd 5 false (.reg 6) (.reg 7) 3), (reg 1 0x1A 5 0 6 7 2, .fmul 5 false (.reg 6) (.reg 7) 2),
    (reg 1 0x1B 5 0 6 7 1, .ffma 5 false (.reg 6) (.reg 7) 1), (reg 1 0x1C 5 0 6 7 0, .fcmp 5 false (.reg 6) (.reg 7)),
    (reg 1 0x1D 5 0 6 2 3, .fcvt 5 false (.reg 6) 2 3)] = true := by decide +kernel

/-- The F class (R60). -/
theorem test_words_special : slotIs [(reg 3 0 5 0 6 0 0, .fexp2 5 false (.reg 6)), (reg 3 1 5 0 6 0 0, .flog2 5 false (.reg 6)),
    (reg 3 2 5 0 6 0 0, .frcp 5 false (.reg 6)), (reg 3 3 5 0 6 0 0, .frsq 5 false (.reg 6)), (reg 3 4 5 0 6 0 0, .fsqrt 5 false (.reg 6)),
    (reg 3 5 5 0 6 0 0, .fsin 5 false (.reg 6)), (reg 3 6 5 0 6 0 0, .fcos 5 false (.reg 6)), (reg 3 7 5 0 6 0 0, .ftanh 5 false (.reg 6)),
    (reg 3 8 5 0 6 0 0, .fsigm 5 false (.reg 6)), (reg 3 9 0 1 66 67 0, .fdiv 0 true (.lat 2) (.lat 3))] = true := by decide +kernel

/-- The V class (R61), width 512. -/
theorem test_words_vector : slotIs ([(0, fun a b => Instr.vadd 5 false a b 1), (1, fun a b => .vsub 5 false a b 1),
      (2, fun a b => .vmul 5 false a b 1), (3, fun a b => .vfma 5 false a b 1), (4, fun a b => .vfnma 5 false a b 1),
      (5, fun a b => .vmin 5 false a b 1), (6, fun a b => .vmax 5 false a b 1), (9, fun a b => .vand 5 false a b 1),
      (0xA, fun a b => .vor 5 false a b 1), (0xB, fun a b => .vxor 5 false a b 1), (0xC, fun a b => .vandn 5 false a b 1),
      (0xD, fun a b => .vshl 5 false a b 1), (0xE, fun a b => .vshr 5 false a b 1), (0xF, fun a b => .vsar 5 false a b 1),
      (0x11, fun a b => .vsel 5 false a b 1), (0x14, fun a b => .vextr 5 false a b 1), (0x15, fun a b => .vins 5 false a b 1),
      (0x16, fun a b => .vpermz 5 false a b 1), (0x17, fun a b => .vrot 5 false a b 1), (0x1F, fun a b => .vqnt 5 false a b 1),
      (0x20, fun a b => .vperm 5 false a b 1), (0x21, fun a b => .vdqnt 5 false a b 1), (0x22, fun a b => .vpack 5 false a b 1),
      (0x23, fun a b => .vunpk 5 false a b 1), (0x24, fun a b => .vscale 5 false a b 1), (0x25, fun a b => .vclamp 5 false a b 1)].map
      (fun (e : Nat × (Src → Src → Instr)) => (reg 2 e.1 5 0 6 7 1, e.2 (.reg 6) (.reg 7))) ++
    [(7, Instr.vabs 5 false (.reg 6) 1), (8, .vneg 5 false (.reg 6) 1), (0x12, .vmov 5 false (.reg 6) 1),
      (0x13, .vbcast 5 false (.reg 6) 1), (0x18, .viota 5 false (.reg 6) 1), (0x19, .vredadd 5 false (.reg 6) 1),
      (0x1A, .vredmax 5 false (.reg 6) 1), (0x1B, .vredmin 5 false (.reg 6) 1), (0x1C, .vmaxi 5 false (.reg 6) 1),
      (0x1D, .vmini 5 false (.reg 6) 1), (0x1E, .vcvt 5 false (.reg 6) 1)].map
      (fun (e : Nat × Instr) => (reg 2 e.1 5 0 6 0 1, e.2))) = true := by decide +kernel

/-- The predicate operations (R61, R66). -/
theorem test_words_predicate : slotIs [(reg 2 0x26 5 0 6 7 0, .pand 5 false (.reg 6) (.reg 7)),
    (reg 2 0x27 5 0 6 7 0, .por 5 false (.reg 6) (.reg 7)), (reg 2 0x28 5 0 6 7 0, .pxor 5 false (.reg 6) (.reg 7)),
    (reg 2 0x29 5 0 6 0 0, .pnot 5 false (.reg 6)), (reg 2 0x2A 5 0 6 0 0, .pcnt 5 false (.reg 6)),
    (reg 2 0x2B 5 0 36 1 0, .pset 5 false 100)] = true := by decide +kernel

/-- The M class (R165, R169). -/
theorem test_words_matrix : slotIs [(4 * 2 ^ 29 + 1 * 2 ^ 23 + 1 * 2 ^ 19 + 2 * 2 ^ 15 + 4 * 2 ^ 9 + 3 * 2 ^ 5, .ldws 1 2 4 3),
    (4 * 2 ^ 29 + 4 * 2 ^ 23 + 3 * 2 ^ 20 + 2 * 2 ^ 16 + 4 * 2 ^ 10 + 6 * 2 ^ 4 + 6, .mmaz 3 2 4 6 6)] = true := by decide +kernel

/-- The L class (R63, R225, R342, R343). -/
theorem test_words_local : slotIs [(reg 5 0 5 0 3 20 0, .ld 5 false 3 20), (reg 5 1 5 0 3 20 0, .st 5 3 20),
    (reg 5 2 5 0 3 20 1, .vld 5 false 3 20 1), (reg 5 3 5 0 3 20 1, .vst 5 3 20 1), (reg 5 4 5 0 3 20 2, .vldx 5 false 3 (.reg 20) 2),
    (reg 5 5 5 0 3 20 2, .vstx 5 3 (.reg 20) 2), (reg 5 6 5 0 3 20 0, .ldt 5 false 3 20), (reg 5 7 5 0 3 20 1, .vldt 5 false 3 20 1),
    (reg 5 8 5 0 3 20 1, .vldz 5 false 3 20 1), (reg 5 0xA 5 0 3 16 0, .boxinf 5 false 3 16), (reg 5 0xB 5 0 16 0 0, .boxmov 5 16)] =
    true := by decide +kernel

/-- The E class (R64, R190, R237, R243, R247, R248). -/
theorem test_words_engine : slotIs [
    (6 * 2 ^ 29 + 1 * 2 ^ 19 + 2 * 2 ^ 15 + 9 * 2 ^ 9 + 7 * 2 ^ 5 + 1 * 2 ^ 4 + 1 * 2 ^ 3 + 1 * 2 ^ 2, .cpy 1 2 9 7 1 1 1 0),
    (6 * 2 ^ 29 + 1 * 2 ^ 23 + 1 * 2 ^ 19 + 2 * 2 ^ 15 + 3 * 2 ^ 11, .gath 1 2 3),
    (6 * 2 ^ 29 + 3 * 2 ^ 23 + 1 * 2 ^ 19 + 2 * 2 ^ 15 + 3 * 2 ^ 12 + 4 * 2 ^ 6 + 1 * 2 ^ 5, .fold 1 2 3 4 1 0),
    (6 * 2 ^ 29 + 5 * 2 ^ 23 + 1 * 2 ^ 19 + 2 * 2 ^ 15 + 3 * 2 ^ 11 + 4 * 2 ^ 5 + 1 * 2 ^ 4, .zip 1 2 3 4 1),
    (6 * 2 ^ 29 + 9 * 2 ^ 23 + 1 * 2 ^ 19 + 2 * 2 ^ 13 + 3 * 2 ^ 7 + 4 * 2, .dlvset 1 2 3 4),
    (6 * 2 ^ 29 + 0xA * 2 ^ 23 + 1 * 2 ^ 19 + 2 * 2 ^ 13, .dlvwait 1 2)] = true := by decide +kernel

/-- SCAN and RECVOP take a header's extension bits (R190, R313). -/
theorem test_words_with_extension :
    [(6 * 2 ^ 29 + 4 * 2 ^ 23 + 1 * 2 ^ 19 + 2 * 2 ^ 15 + 3 * 2 ^ 12 + 4 * 2 ^ 6 + 1 * 2 ^ 5 + 1 * 2 ^ 4 + 6, 1, Instr.scan 1 2 3 4 1 1 6 1),
      (7 * 2 ^ 29 + 2 * 2 ^ 23 + 1 * 2 ^ 22 + 9 * 2 ^ 16 + 3 * 2 ^ 12 + 20 * 2 ^ 6 + 3 * 2 ^ 2 + 1 * 2, 5, .recvop 1 9 3 20 3 37)].all
      (fun e => match decodeSlot e.1 (some e.2.1) with
        | .ok i => i == e.2.2
        | .error _ => false) = true := by decide +kernel

/-- Vault commands (R70, R258). -/
theorem test_words_vault : cmdIs [(cmd 0 3 0, .vaultHalt 3), (cmd 2 3 (1 * 2 ^ 20 + 2 * 2 ^ 18 + 3 * 2 ^ 16 + 4 * 2 ^ 12 + 5 * 2 ^ 9 + 6), .rd 3 1 2 3 4 5 6),
    (cmd 3 3 (1 * 2 ^ 20 + 2 * 2 ^ 18 + 3 * 2 ^ 16 + 4 * 2 ^ 12 + 5 * 2 ^ 9 + 6), .rda 3 1 2 3 4 5 6),
    (cmd 4 3 (1 * 2 ^ 20 + 2 * 2 ^ 18 + 3 * 2 ^ 16 + 4 * 2 ^ 12 + 5 * 2 ^ 9 + 6), .wr 3 1 2 3 4 5 6),
    (cmd 5 3 (1 * 2 ^ 20 + 2 * 2 ^ 18 + 3 * 2 ^ 16 + 4 * 2 ^ 12 + 5 * 2 ^ 9 + 6), .wra 3 1 2 3 4 5 6),
    (cmd 6 3 (1 * 2 ^ 20 + 2 * 2 ^ 18 + 3 * 2 ^ 16), .pre 3 1 2 3), (cmd 7 3 (1 * 2 ^ 20), .prea 3 1),
    (cmd 8 3 (1 * 2 ^ 20 + 2 * 2 ^ 18 + 3 * 2 ^ 16), .refpb 3 1 2 3), (cmd 9 3 (1 * 2 ^ 20), .refab 3 1), (cmd 0xA 3 77, .wait 3 77),
    (cmd 0xB 3 (5 * 2 ^ 12 + 6), .loop 3 5 6), (cmd 0xD 3 77, .start 3 77), (cmd 0xE 3 77, .vopen 3 77),
    (cmd 0xF 3 (5 * 2 ^ 19 + 6 * 2 ^ 10), .tagw 3 5 6)] = true := by decide +kernel

/-- Reserved encodings are refused (R34, R40, R42, R55, R66, R70). -/
theorem test_words_refused : [ctl 0x16 0, ctl 2 (6 * 2 ^ 17), ctl 0x3E 1].all (fun w => match decodeControl w with
      | .ok _ => false
      | .error _ => true) = true ∧
    [reg 1 0x1E 0 0 0 0 0, reg 1 3 0 0 64 0 0, reg 1 3 0 0 72 0 0, reg 1 0 0 0 0 1 0, reg 2 0 0 0 0 0 3, reg 2 0x26 0 0 16 0 0, 1,
      reg 5 0xC 0 0 7 0 0].all (fun w => match decodeSlot w none with
      | .ok _ => false
      | .error _ => true) = true ∧
    [cmd 0x10 0 0, cmd 0 0 1].all (fun w => match decodeVault w with
      | .ok _ => false
      | .error _ => true) = true := by decide +kernel

/-! ### States -/

/-- Core 0 issues in cycle 10; the operation stands in slot 3. -/
def core0 : Core := { Core.start with run := .issuing }
def on (c : Core) : State := { State.reset with
  cycle := 10
  cores := [(0, c)]
  nid := 100
  iss := ⟨0, 3, 0, 0⟩ }
def one : State := on core0
def withX (l : Tab Word) (s : State) : State := { s with xreg := l }
def withV (l : Tab VWord) (s : State) : State := { s with vreg := l }
def withB (l : Tab Box) (s : State) : State := { s with breg := l }
def withSr (r : Nat) (w : Word) (s : State) : State := { s with sysreg := tput s.sysreg r w }
/-- FMT of an element type and a conversion type. -/
def withFmt (e c : Nat) (s : State) : State := withSr 1 (BitVec.ofNat 64 (e + 16 * c)) s
/-- T1 boxes of core 0 with both rights and ZERO mode. -/
def vec (fmt n : Nat) : Box := ⟨1, fmt, [n], [1], 0, 0, 0, true, true, 1, 1, 0, 0, 0, 0, false⟩
def mat (fmt r c : Nat) : Box := ⟨1, fmt, [r, c], [(c : Int), 1], 0, 0, 0, true, true, 1, 1, 0, 0, 0, 0, false⟩
/-- Visibility, writes and flags of the result an operation queues. -/
def result (i : Instr) (s : State) : Option (Nat × List Wr × Nat) :=
  match exec i s with
  | .next t => ((t.core s.me).pend.getLast?).map (fun p => (p.vis, p.wr, p.flags))
  | _ => none
def yields (i : Instr) (s : State) (vis d : Nat) (v : Int) (fl : Nat) : Bool :=
  result i s == some (vis, [.x d (BitVec.ofInt 64 v)], fl)
def nextOf (i : Instr) (s : State) : State := match exec i s with
  | .next t => t
  | _ => s

/-! ### One instruction -/

/-- R137 to R139 on a = -7, b = 3, old d = 5, and the field 0x404 (pos 4, length 4). -/
theorem test_scalar_table :
    (let s := withX [(1, BitVec.ofInt 64 (-7)), (2, 3), (3, 5), (4, 0x404)] one
     let a := Src.reg 1
     let b := Src.reg 2
     [(Instr.mov 3 false a, (-7 : Int)), (.movi 3 (-5), -5), (.movhi 3 7, 163847), (.add 3 false a b, -4), (.addi 3 a 10, 3),
      (.sub 3 false a b, -10), (.and 3 false a b, 1), (.or 3 false a b, -5), (.xor 3 false a b, -6), (.andn 3 false a b, -8),
      (.shl 3 false a b, -56), (.shr 3 false a b, 2305843009213693951), (.sar 3 false a b, -1), (.clz 3 false a, 0), (.popc 3 false a, 62),
      (.bfx 3 false a (.reg 4) 0, -1), (.bfx 3 false a (.reg 4) 1, 15), (.bfx 3 false a b 0, 0), (.bfi 3 false a (.reg 4), 0x95),
      (.bfi 3 false a b, 5), (.min 3 false a b 0, -7), (.min 3 false a b 1, 3), (.max 3 false a b 0, 3), (.max 3 false a b 1, -7),
      (.cmp 3 false a b 0, -1), (.cmp 3 false a b 1, 1), (.sel 3 false a b, -7)].all (fun e => yields e.1 s 11 3 e.2 0) &&
     [(Instr.mul 3 false a b, (-21 : Int)), (.mulh 3 false a b 0, -1), (.mulh 3 false a b 1, 2)].all (fun e => yields e.1 s 13 3 e.2 0) &&
     [(Instr.div 3 false a b 0, (-2 : Int)), (.div 3 false a b 1, 6148914691236517203), (.rem 3 false a b 0, -1), (.rem 3 false a b 1, 0),
      (.div 3 false a (.reg 0) 0, -1), (.rem 3 false a (.reg 0) 1, -7)].all (fun e => yields e.1 s 28 3 e.2 0)) = true := by
  decide +kernel

/-- A nowb result writes no register (R43). -/
theorem test_nowb_writes_nothing : result (.add 0 true (.reg 1) (.reg 1)) (withX [(1, 4)] one) = some (11, [], 0) := by decide +kernel

/-- R140 and R143 on 1.0 and 2.0; 1/0 raises DZ (bit 1 of the flags). -/
theorem test_float_table :
    (let s := withX [(1, 0x3F800000), (2, 0x40000000), (3, 0x40800000)] one
     let a := Src.reg 1
     let b := Src.reg 2
     yields (.fadd 3 false a b 0) s 14 3 0x40400000 0 && yields (.fmul 3 false a b 0) s 14 3 0x40000000 0 &&
     yields (.ffma 3 false a b 0) s 14 3 0x40C00000 0 && yields (.fcmp 3 false a b) s 12 3 (-1) 0 &&
     yields (.fdiv 3 false a b) s 20 3 0x3F000000 0 && yields (.frcp 3 false b) s 16 3 0x3F000000 0 &&
     yields (.fsqrt 3 false (.reg 3)) s 20 3 0x40000000 0 && yields (.frcp 3 false (.reg 0)) s 16 3 0x7F800000 DZ &&
     yields (.fcos 3 false (.reg 0)) s 18 3 0x3F800000 0 && yields (.fsigm 3 false (.reg 0)) s 18 3 0x3F000000 0) = true := by
  decide +kernel

/-- The transcendental operations at exact points: 2^2, log2 4, 1/√4 (R142). -/
theorem test_special_exact :
    (let s := withX [(2, 0x40000000), (3, 0x40800000)] one
     yields (.fexp2 3 false (.reg 2)) s 16 3 0x40800000 0 && yields (.flog2 3 false (.reg 3)) s 16 3 0x40000000 0 &&
     yields (.frsq 3 false (.reg 3)) s 16 3 0x3F000000 0) = true := by decide +kernel

/-- Lanes of .s8 at width 256, 127 + 1 wrapping in lane 0; the sum and the greatest lane (R150, R154, R155). -/
theorem test_vector_lanes :
    (let s := withV [(1, 0x0203FF7F), (2, 0x01010101)] (withFmt 6 0 one)
     let val := fun i => (result i s).map (fun r => (r.1, r.2.1.map (fun w => match w with
       | .v d _ v => (d, v.toNat % 2 ^ 32)
       | _ => (0, 0))))
     val (.vadd 5 false (.reg 1) (.reg 2) 0) == some (11, [(5, 0x03040080)]) &&
     val (.vsub 5 false (.reg 1) (.reg 2) 0) == some (11, [(5, 0x0102FE7E)]) &&
     val (.vredadd 5 false (.reg 1) 0) == some (16, [(5, 0x83)]) &&
     val (.vmaxi 5 false (.reg 1) 0) == some (16, [(5, 0x7F)]) &&
     val (.vmini 5 false (.reg 1) 0) == some (16, [(5, 0x1FF)])) = true := by decide +kernel

/-- TWR then TRD through the same column block (R175). -/
theorem test_tile_words :
    (let s := withV [(1, 0x1122334455667788)] (withX [(4, 0x103)] one)
     let t := nextOf (.twr 2 4 1) s
     (t.t 0 2 3 32, t.t 0 2 3 33, (result (.trd 2 4 5) t).map (fun r => (r.1, r.2.1)))) =
    (0x55667788, 0x11223344, some (13, [.v 5 (BitVec.allOnes 1024) 0x1122334455667788])) := by decide +kernel

/-- A signed byte loaded, and a store's bytes two cycles on (R226). -/
theorem test_load_and_store :
    (let s := { withB [(3, vec 6 16)] (withX [(5, 0x1FE), (20, 2)] one) with spad := [(2, 0x80)] }
     yields (.ld 5 false 3 20) s 14 5 (-128) 0 &&
     result (.st 5 3 20) s == some (12, [.mem .spad 2 [0xFE]], 0)) = true := by decide +kernel

/-- BRC's conditions on -7, and BRL's link (R35). -/
theorem test_branches :
    (let s := withX [(1, BitVec.ofInt 64 (-7))] (on { core0 with pc := 4 })
     ((List.range 6).map (fun c => ((nextOf (.brc 1 c 9) s).core 0).taken), ((nextOf (.brl 5 9) s).core 0).tgt,
       result (.brl 5 9) s)) = ([false, true, true, false, false, true], 9, some (11, [.x 5 7], 0)) := by decide +kernel

/-- A fault's trap: EPC, cause and program number of TRAP 7 at bundle 4, and the handler three cycles on (R363, R371). -/
theorem test_trap :
    (let t := nextOf (.trap 7) (withSr srSVEC 0x30 (on { core0 with pc := 4 }))
     (t.sr 0 srEPC, (t.sr 0 srTREC0).toNat / 2 ^ 16 % 2 ^ 16, t.sr 0 (srTREC0 + 4), (t.core 0).sup, (t.core 0).pc, (t.core 0).nextAt)) =
    (4, 0x1F, 7, true, 0x30, 13) := by decide +kernel

/-- MFS of PODLAT at reset reads 0xFFFF (R395); an unassigned register is illegal with reason 2 (R346). -/
theorem test_system_registers :
    (yields (.mfs 5 0x015) one 12 5 0xFFFF 0 && (checkOf (.mfs 5 0x0FF) one).map (·.cause) == some 1) = true := by decide +kernel

/-- CLOSE from VBASE 0, PBASE 0 with two iterations left (R281). -/
theorem test_close :
    (let t := nextOf .close (withSr srTRIPC 0x100000002 one)
     (t.sr 0 srROTB, t.sr 0 srTRIPC)) = (47 + 7 * 256, 0x100000001) := by decide +kernel

/-! ### States and operands that meet the hypotheses of the statements: core operations -/

/-- An associative, commutative add of .f32 with identity 0, as a routine table entry (R180 to R186). -/
def addRoutine : List Nat := [2 * 2 ^ 26 + 2 * 2 ^ 24 + 15 * 2 ^ 16 + 15 * 2 ^ 8 + 7 * 2 ^ 5, 0, 0, 0, 0, 0, 0, 0, 0, 0, 0, 2 ^ 27 + 2 ^ 14, 0]
/-- Context slot 0 holds an image with that routine. -/
def withCtx (k : Ctx) (s : State) : State := { s with ctxs := [(0, k)] }
def image : Code := ⟨[], [], [addRoutine], [], [], []⟩
def ctx0 : Ctx := { Ctx.start with
  code := some image
  accepted := true
  keyed := true }

/-- CompareCountAndBitFieldResults and DivideNeverFaults: the two mods, b = 0, the overflow pair and an ordinary one. -/
theorem test_meets_scalar :
    (let s := withX [(1, 0x8000000000000000), (2, 0xFFFFFFFFFFFFFFFF), (3, 7)] one
     0 < 2 ∧ 1 < 2 ∧ s.srcX (.reg 0) = 0#64 ∧ s.srcX (.reg 1) = 0x8000000000000000#64 ∧ s.srcX (.reg 2) = 0xFFFFFFFFFFFFFFFF#64 ∧
     s.srcX (.reg 3) ≠ 0#64 ∧ ¬((0 : Nat) = 0 ∧ s.srcX (.reg 3) = 0x8000000000000000#64 ∧ s.srcX (.reg 3) = 0xFFFFFFFFFFFFFFFF#64)) := by
  decide +kernel

/-- ArithmeticLanes, PlainLanesAndPredicates, CrossLaneResults and ReductionResults: the widest width, float and integer
types, a type that is only plain, a count of 127, every lane fetched, and no lane active. -/
theorem test_meets_vector :
    (let f := withFmt 2 0 one
     let i := withFmt 11 0 one
     let p := withFmt 4 0 one
     let no := withSr 2 1 i
     2 < 3 ∧ tyArith f.ety = true ∧ tyArith i.ety = true ∧ tyInt i.ety = true ∧ tyPlain p.ety = true ∧ tyPlain i.ety = true ∧ 127 < 128 ∧
     3 < 4 ∧ (∀ k, k < i.lanes 2 → i.active k = true → (i.laneOf (.reg 2) k < i.lanes 2 && i.active (i.laneOf (.reg 2) k)) = true) ∧
     (∀ k, k < no.lanes 2 → no.active k = false)) := by decide +kernel

/-- ReductionResults: lanes 5, −1 and 3 of .s32 and no other active; of .f32 a signalling NaN and 1.0, and 1.0 alone. -/
theorem test_meets_extremes :
    (let s := { withV [(1, 0x00000003FFFFFFFF00000005)] (withFmt 8 0 one) with preg := [(0, 0x111)] }
     let f := { withV [(1, 0x3F8000007F800001)] (withFmt 0 0 one) with preg := [(0, 0x11)] }
     (∃ j, j < s.lanes 0 ∧ s.active j = true) ∧ tyFloat s.ety = false ∧
     s.lop.int (s.laneOf (.reg 1) 1) = -1 ∧ treeNode s.lop.add (s.leaf (.reg 1) 0) 7 0 = (some 7, 0) ∧
     tyFloat f.ety = true ∧ (∃ j, j < f.lanes 0 ∧ f.active j = true ∧ snanFlag [f.lop.rd (f.laneOf (.reg 1) j)] ≠ 0)) := by
  decide +kernel

/-- OperationFaults, permutes: lane 31 of 32 names lane 200; and names an inactive lane. -/
theorem test_meets_permute_fault :
    (let s := withV [(2, BitVec.ofNat 1024 (200 * 2 ^ 248))] (withFmt 6 0 one)
     0 < 3 ∧ tyPlain s.ety = true ∧ 31 < s.lanes 0 ∧ s.active 31 = true ∧
     (s.laneOf (.reg 2) 31 < s.lanes 0 → s.active (s.laneOf (.reg 2) 31) = false) ∧
     ∀ i, i < 31 → s.active i = true → s.laneOf (.reg 2) i < s.lanes 0 ∧ s.active (s.laneOf (.reg 2) i) = true) ∧
    (let s := { withV [(2, 1)] (withSr 2 1 (withFmt 6 0 one)) with preg := [(1, 1)] }
     0 < s.lanes 0 ∧ s.active 0 = true ∧ (s.laneOf (.reg 2) 0 < s.lanes 0 → s.active (s.laneOf (.reg 2) 0) = false)) := by decide +kernel

/-- OperationFaults, an empty random-bit queue under .sr. -/
theorem test_meets_underrun :
    (let s := withSr 1 (BitVec.ofNat 64 (16 * 1 + 4 * 2 ^ 8)) one
     tyPlain s.ety = true ∧ tyPlain s.cty = true ∧ (s.core s.me).rbq.length < s.popCount (vcvtLanes s 2)) := by decide +kernel

/-- OperationFaults, the matrix array: tile 4 of a core of four, a fill that ends in the next cycle, a plane in use. -/
theorem test_meets_matrix_faults :
    tilesOf (withSr 5 0 one) 0 ≤ 4 ∧
    (let s := withB [(1, mat 3 256 256)] (on { core0 with fill := 11 })
     s.cycle < (s.core s.me).fill ∧ (checkOf (.ldw 1 4 3) s).map (fun f => (f.cause, f.sub)) = some (7, 2)) ∧
    (let s := withB [(1, mat 3 256 256)] (on { core0 with use1 := 10 })
     (checkOf (.ldw 1 4 3) s).map (fun f => (f.cause, f.sub)) = some (7, 3)) := by decide +kernel

/-- OperationFaults, control: a delay bundle; a level ending at the first and at the second delay bundle; a seventh level,
an END at pc, 257 bundles on, and past the level around it; CLOSE outside the kernel and inside a level. -/
theorem test_meets_control_faults :
    (5 < 6 ∧ (({ core0 with dly := 1 }) : Core).dly ≠ 0) ∧
    (let s := on { core0 with pc := 4, zl := [⟨1, 4, 2⟩] }
     (s.core 0).dly = 0 ∧ ∃ l ∈ (s.core 0).zl, s.pcNow ≤ l.last ∧ l.last < s.pcNow + 2) ∧
    (let s := on { core0 with pc := 4, zl := [⟨1, 5, 2⟩] }
     (s.core 0).dly = 0 ∧ (∃ l ∈ (s.core 0).zl, s.pcNow ≤ l.last ∧ l.last < s.pcNow + 2) ∧ (∃ l ∈ (s.core 0).zl, l.last < 6) ∧
       (s.core 0).zl ≠ []) ∧
    (let k : Core := { core0 with pc := 4, zl := List.replicate 6 ⟨1, 99, 2⟩ }
     k.dly = 0 ∧ 6 ≤ k.zl.length) ∧
    (let k : Core := { core0 with pc := 4 }
     4 ≤ k.pc ∧ k.pc + 256 < 261) ∧
    (one.sr one.me srTRIPC).getLsbD 32 = false := by decide +kernel

/-- ConversionResults: .bf16 to .f32 and to .s16, quantising to .e4m3 and to .qc4 at width 1,024, packing .f32 to .f16. -/
theorem test_meets_conversions :
    (let s := withFmt 1 7 one
     2 < 3 ∧ tyPlain s.ety = true ∧ tyPlain s.cty = true ∧ (s.core s.me).rbq.length ≥ s.popCount (vcvtLanes s 2)) ∧
    (let s := withFmt 1 3 one
     quantOk s.ety s.cty 0 = true ∧ s.cty ≠ 5 ∧ (s.core s.me).rbq.length ≥ s.popCount (s.lanes 0)) ∧
    (let s := withFmt 1 5 one
     quantOk s.ety s.cty 2 = true ∧ s.cty = 5 ∧ (s.core s.me).rbq.length ≥ s.popCount (s.lanes 2)) ∧
    (let s := withFmt 0 2 one
     packOk s.ety s.cty = true) := by decide +kernel

/-- MatrixOperationsAndFillsStart and TileMovesAndStore: 128 rows on a dense plane, an outer routine, both fills, the last
tile, and a store of .f32. -/
theorem test_meets_matrix :
    (let s := withCtx ctx0 (withX [(6, 128)] (withB [(0, mat 3 128 256), (1, mat 3 256 256), (2, vec 0 256), (3, vec 0 256),
       (4, mat 9 256 256), (5, mat 0 128 256)] one))
     s.b s.me 0 = some (mat 3 128 256) ∧ s.b s.me 1 = some (mat 3 256 256) ∧ s.b s.me 2 = some (vec 0 256) ∧
     checkOf (.mma 7 0 10 6 3) s = none ∧ checkOf (.mmaz 0 0 10 6 3) s = none ∧ checkOf (.outer 7 2 3 6 0) s = none ∧
     checkOf (.ldw 1 10 3) s = none ∧ checkOf (.ldws 1 4 10 3) s = none ∧ checkOf (.tst 7 5 10 6 0) s = none ∧
     (s.core s.me).act < 2 ∧ (s.core s.me).fill ≤ s.cycle ∧ 7 < tilesOf s s.me) := by decide +kernel

/-- MatrixRows: the last row of the last tile, on an integer plane, on a sparse one, on one of .e4m3 with finite operands, on
one of .e5m2 and on one of QC4; an MMAZ; and an OUTER in flight. -/
def mop (kind ty : Nat) : MOp := ⟨kind, 10, 7, 128, 1, ty, 0, mat ty 128 256, 0, 0, mat ty 128 256, [], 0, 0, false, 0, [], none⟩
def onPlane (p : Plane) : State := { one with planes := [(0, p)], spad := [(5, 0x38)] }
theorem test_meets_matrix_rows :
    (let s := onPlane ⟨6, false, [(0, 255)], [], []⟩
     ((mop 2 6).kind = 2 ∨ (mop 2 6).kind = 3) ∧ (mop 3 6).kind = 3 ∧ 127 < 128 ∧ 255 < 256 ∧ tyFloat (mop 2 6).ty = false ∧
     ((mop 2 6).kept.getD (s.plane 0 (mop 2 6).plane)) = ⟨6, false, [(0, 255)], [], []⟩ ∧ (s.plane 0 0).ty ≠ 5) ∧
    (let s := onPlane ⟨3, false, [(0, 0x38)], [], []⟩
     let m := mop 2 3
     tyFloat m.ty = true ∧ (s.plane 0 0).ty ≠ 5 ∧ m.ty ≠ 1 ∧ m.ty ≠ 2 ∧ (fDecode 0 (s.t 0 m.tile 127 255).toNat).isNan = false ∧
     (fDecode 0 (s.t 0 m.tile 127 255).toNat).isInf = false ∧
     ∀ q ∈ (List.range 256).map (fun (r : Nat) => (fDecode m.ty (m.boxA.load s [m.c0 + 127, m.c1 + (r : Int)]),
       fDecode (s.plane 0 0).ty (tget 0 (s.plane 0 0).w (512 * r + 255)))),
       (q.1.isNan = false ∧ q.1.isInf = false) ∧ q.2.isNan = false ∧ q.2.isInf = false) ∧
    (let s := onPlane ⟨5, false, [(511, 3)], [], [(2047, 0x3F800000)]⟩
     tyFloat (mop 2 1).ty = true ∧ (s.plane 0 0).ty = 5 ∧ (s.plane 0 0).sparse = false ∧ 511 < 512) ∧
    (let s := on { core0 with mops := [mop 4 0] }
     (mop 4 0).kind = 4 ∧ mop 4 0 ∈ (s.core 0).mops) := by decide +kernel

/-- MatrixRows, a sparse plane: its routes are of two bits. -/
theorem test_meets_sparse_row :
    (((mop 2 6).kept.getD ((onPlane ⟨6, true, [(0, 255)], [(0, 3)], []⟩).plane 0 0)).sparse = true) ∧
      ∀ q, tget 0 ((mop 2 6).kept.getD ((onPlane ⟨6, true, [(0, 255)], [(0, 3)], []⟩).plane 0 0)).route q < 4 := by
  refine ⟨by decide +kernel, fun q => ?_⟩
  have h : (mop 2 6).kept.getD ((onPlane ⟨6, true, [(0, 255)], [(0, 3)], []⟩).plane 0 0) = ⟨6, true, [(0, 255)], [(0, 3)], []⟩ := by
    decide +kernel
  rw [h]
  cases q with
  | zero => decide
  | succ q => simp [tget]

/-- MatrixEventsComplete: an operation that is over, and flags it leaves; one whose tile another still keeps busy; a fill. -/
theorem test_meets_matrix_events :
    (let m : MOp := ⟨2, 0, 0, 1, 1, 6, 0, mat 6 1 256, 0, 0, mat 6 1 256, [], 1, 8, false, 0, [], none⟩
     let s := { on { core0 with mops := [m], busy := [(0, 266), (1, 300)] } with cycle := 266 }
     let u := applyAll (readsDue 0 (s.cycle - 1) s) s
     (∀ e ∈ (u.core 0).mops, 2 ≤ e.kind ∧ e.reads ≤ e.next ∧ (∀ k ∈ e.tiles, tget 0 (u.core 0).busy k ≤ s.cycle) ∧
       (u.core 0).task.getD e.task = e.task ∧ (BitVec.ofNat 64 (e.flags * 2 ^ 16)).getLsbD 19 = true) ∧
     ¬(∀ k ∈ ({ m with tile := 1 } : MOp).tiles, tget 0 (u.core 0).busy k ≤ s.cycle)) ∧
    (let m : MOp := ⟨0, 0, 0, 0, 1, 3, 1, mat 3 256 256, 0, 0, mat 3 256 256, [], 256, 0, false, 0, [], none⟩
     m.kind < 2 ∧ m.reads ≤ m.next) := by decide +kernel

/-- LocalLoads and LocalStores: scalar, vector and indexed forms of a T1 box; a landing at the last byte of a scratchpad. -/
theorem test_meets_local :
    (let s := withB [(3, vec 11 64)] one
     s.b s.me 3 = some (vec 11 64) ∧ (vec 11 64).tier = 1 ∧ checkOf (.ld 5 false 3 20) s = none ∧ checkOf (.vld 5 false 3 20 2) s = none ∧
     checkOf (.vldx 5 false 3 (.reg 2) 2) s = none ∧ checkOf (.st 5 3 20) s = none ∧ checkOf (.vst 5 3 20 2) s = none ∧
     checkOf (.vstx 5 3 (.reg 2) 2) s = none) ∧
    (let s := withSr 0xC 0 (withB [(3, { vec 11 64 with tb := 1 })] one)
     let t := { s with tags := [(0, 1)] }
     checkOf (.ldt 5 false 3 20) t = none ∧ checkOf (.vldt 5 false 3 20 0) t = none) ∧
    (∀ g ∈ [Again.value, .rmw],
     let p : Pend := ⟨10, 0, 1, 0, [.mem .spad 4194303 [7]], none, 0, none, g, false, false, false, [], none, 0, []⟩
     let s := on { core0 with pend := [p] }
     s.memOk = true ∧ (s.core 0).pend = [p] ∧ p.vis ≤ s.cycle ∧ p.flt = none ∧ (p.again = .value ∨ p.again = .rmw) ∧ p.wr = [.mem .spad 4194303 [7]] ∧
     p.lat = none ∧ p.flags = 0) := by decide +kernel

/-- FarAccessesAndRecords: a T2 box of vault 3, an element within it; a record of two words that fits and one that does not. -/
theorem test_meets_far :
    (let b : Box := ⟨2, 11, [64], [1], 3, 0, 0, true, true, 1, 1, 0, 0, 0, 0, false⟩
     let s := withB [(3, b)] (withX [(20, 5)] one)
     s.b s.me 3 = some b ∧ (b.tier = 2 ∨ b.tier = 3) ∧ b.resolve (coordRegs s 20 b.rank) = .elem 5 ∧
     checkOf (.ld 5 false 3 20) s = none ∧ checkOf (.st 5 3 20) s = none) ∧
    (let s := { withB [(3, vec 11 3), (4, vec 11 2)] one with spad := [(0, 3), (4, 9), (8, 8)] }
     2 < 3 ∧ s.b s.me 3 = some (vec 11 3) ∧ checkOf (.vldz 5 false 3 20 2) s = none ∧ hitVal s (vec 11 3) ((vec 11 3).resolve [0]) = 3 ∧
     s.b s.me 4 = some (vec 11 2) ∧ checkOf (.vldz 5 false 4 20 2) s = none) := by decide +kernel

/-- The place of that element, for a read and a write. -/
theorem test_meets_far_place :
    (let b : Box := ⟨2, 11, [64], [1], 3, 0, 0, true, true, 1, 1, 0, 0, 0, 0, false⟩
     b.place one 5 true false = .at_ .dram (3 * 2 ^ 31 + 20) ∧ b.place one 5 false true = .at_ .dram (3 * 2 ^ 31 + 20)) := ⟨rfl, rfl⟩

/-- BoxNarrowing and BoxReadingFenceAndPub: rows 2 to 4 of a matrix, an empty register, a mapped window. -/
theorem test_meets_boxes :
    (let s := withX [(10, 2), (12, 3), (13, 16)] (withB [(3, mat 6 16 16)] one)
     s.b s.me 3 = some (mat 6 16 16) ∧ 0 < 2 ∧ checkOf (.boxsub 1 4 0 3 10) s = none ∧ s.b s.me 5 = none) ∧
    (let b := mat 6 16 16
     b.tier < 8 ∧ b.fmt < 16 ∧ b.rank < 8 ∧ b.merge < 4 ∧ b.oob < 4 ∧ b.fop < 4 ∧ b.rt < 64) ∧ 15 < 16 ∧ 16 < 17 ∧
    (let s := withCtx { ctx0 with wins := [(0, ⟨0, 4096, false, 0, 0, false, false⟩)] } one
     checkOf (.pub (.reg 1)) s = none) ∧
    (let q : Req := ⟨1, 0, none, 0, 3, 0, 4, [1, 2, 3, 4], 9, 20, 0, 0, 0, false, false, 0, false, 0, 0, [], 1, 0⟩
     fenceWaits { one with reqs := [(0, q)] } 0 4 0 ≠ []) := by decide +kernel

/-- BranchesAndDelayBundles and LoopsTurn: a branch at the last bundle, an END 256 bundles on and
at the enclosing END, levels with passes left, exhausted, and around one another; CLOSE with two iterations and with one. -/
theorem test_meets_control :
    (let s := on { core0 with pc := 16383 }
     (s.core 0).dly = 0 ∧ (∀ l ∈ (s.core 0).zl, ¬(s.pcNow ≤ l.last ∧ l.last < s.pcNow + 2)) ∧ (s.core 0).pc < 16384 ∧ (s.core 0).sup = false) ∧
    (let k : Core := { core0 with dly := 3, tgt := 9, taken := true }
     k.sup = false ∧ k.zl = [] ∧ k.dly = 3 ∧ k.tgt = 9 ∧ k.pc < 16384) ∧
    (let k : Core := { core0 with pc := 4, zl := [⟨1, 260, 2⟩] }
     k.dly = 0 ∧ k.zl.length < 6 ∧ k.pc < 260 ∧ 260 ≤ k.pc + 256 ∧ ∀ l ∈ k.zl, 260 ≤ l.last) ∧
    (let k : Core := { core0 with pc := 7, zl := [⟨5, 7, 2⟩, ⟨3, 7, 2⟩] }
     let l : ZLev := ⟨5, 7, 2⟩
     k.zl = l :: [⟨3, 7, 2⟩] ∧ l.last = k.pc ∧ 2 ≤ l.left) ∧
    (let l : ZLev := ⟨5, 7, 0⟩
     let r : List ZLev := [⟨3, 7, 2⟩]
     l.left = 0 ∧ l.left ≤ 1 ∧ r = ⟨3, 7, 2⟩ :: [] ∧ (⟨3, 7, 2⟩ : ZLev).last = l.last ∧ 2 ≤ (⟨3, 7, 2⟩ : ZLev).left ∧ l.last ≠ 6) ∧
    (let s := withSr srTRIPC 0x100000002 one
     let t := withSr srTRIPC 0x100000001 one
     (s.core s.me).dly = 0 ∧ (s.sr s.me srTRIPC).getLsbD 32 = true ∧ (s.core s.me).zl = [] ∧ 1 < (s.sr s.me srTRIPC).toNat % 2 ^ 32 ∧
     (t.sr t.me srTRIPC).getLsbD 32 = true ∧ (t.sr t.me srTRIPC).toNat % 2 ^ 32 = 1) := by decide +kernel

/-- A level with no level of the same END around it (LoopsTurn). -/
theorem test_meets_level_exit : (⟨5, 7, 0⟩ : ZLev).left = 0 ∧ ∀ m q, [(⟨3, 9, 2⟩ : ZLev)] = m :: q → m.last ≠ (⟨5, 7, 0⟩ : ZLev).last := by
  refine ⟨rfl, fun m q h => ?_⟩
  injection h with h1 _
  subst h1
  decide

/-- WaitsHoldIssue and ShadowsBeginAndEnd: a WAITC over and not over, a WAITT over, images that pass and fail, and shadows
at their end. -/
theorem test_meets_waits_and_shadows :
    (let s := on { core0 with hold := .until 10 }
     let t := on { core0 with hold := .ctime 10 }
     (s.core 0).hold = .until 10 ∧ 10 ≤ s.cycle ∧ (on { core0 with hold := .until 11 }).cycle < 11 ∧ (t.core 0).hold = .ctime 10 ∧
     10 ≤ t.ctime) ∧
    (fmtBad 0x1F3F133B = false ∧ fmtBad 12 = true ∧ 0x7FFF < 2 ^ 15) ∧
    (let s := on { core0 with fmtQ := [⟨0, 2⟩], mskQ := [⟨0, 3, 4⟩] }
     (s.core 0).fmtQ = ⟨0, 2⟩ :: [] ∧ (s.core 0).mskQ = ⟨0, 3, 4⟩ :: [] ∧ ((0 : Nat) ≠ 0 ∨ (2 : Nat) ≠ srFMT) ∧ 2 < 4096) := by
  decide +kernel

/-! ### The same: registers, traps, engines and far accesses -/

/-- A result on its way to core 0 that is visible in cycle 10. -/
def pend0 (w : List Wr) (l : Option VWord) : Pend := ⟨10, 0, 7, 0, w, l, 0, none, .value, false, false, true, [], none, 0, []⟩
def fault0 (c : Nat) : Flt := ⟨c, 0, 0, [], 0, 0, [], 0⟩
def img0 : Image := ⟨[], [], 0, 0, false, [], [], [], .none, 0⟩
/-- An operation of core 0 that is over. -/
def op0 (k : OpK) : Op := ⟨k, 0, 0, 0, 0, 0, 1, false, 5, 0, 6, 0, 10, .running, [vec 0 64, vec 0 64], [], [], 0, 0, 0, 0, 0, 0, 0, [],
  0, 0, [], [], [], 0, [], 0, none, [], false, 0, none, none, 0, [], [], 0, 0, 0, []⟩
/-- A far access of core 0 to vault 3. -/
def req0 (k st : Nat) : Req := ⟨k, 0, none, 0, 3, 64, 4, [1, 2, 3, 4], 2, 10, 5, 1, 32, true, false, 0, false, 0, 0, [], st, 0⟩

/-- SystemRegisterMoves: the last task register, TRIPC in supervisor mode, TREC0 and DOMAIN from task mode, and a number
that is not assigned. -/
theorem test_meets_system_registers :
    (let s := withX [(1, 5)] one
     let v := withX [(1, 5)] (on { core0 with sup := true })
     srView 0x01F = some (true, true, true) ∧ srView 7 = some (true, false, true) ∧ (v.core v.me).sup = true ∧
     mtsRefused v 7 (v.x v.me 1).toNat = false ∧ mtsRefused s 0x013 (s.x s.me 1).toNat = false ∧ (s.core s.me).sup = false ∧
     srView 0x100 = some (false, false, false) ∧ srView 6 = some (true, false, true) ∧ mtsRefused s 6 (s.x s.me 1).toNat = false ∧
     srView 0x0FF = none) := by decide +kernel

/-- TrapsAndDoubleTraps and ServiceCallAndReturn: the last bundle and the last cause, a result still on its way; a
supervisor bundle of the last core; a return to bundle 3 and a failing one. -/
theorem test_meets_traps :
    (let p := pend0 [.x 1 2] none
     let s := { on { core0 with pc := 16383, pend := [p] } with cycle := 9 }
     (s.core 0).sup = false ∧ (fault0 0x27).cause < 2 ^ 16 ∧ (s.core 0).pc < 2 ^ 14 ∧ (∀ q ∈ (s.core 0).pend, s.cycle < q.vis ∧ q.matrix = false) ∧
     (s.core 0).dly = 0 ∧ (on { core0 with dly := 2 }).core 0 ≠ core0) ∧
    (let s := { one with cores := [(159, { core0 with sup := true })] }
     (s.core 159).sup = true ∧ 159 < 160) ∧
    (let s := withSr srEPC 3 (withSr srTREC0 0x50000 (on { core0 with sup := true, img := some img0 }))
     (s.core s.me).sup = true ∧ (s.sr s.me srEPC).getLsbD 63 = false ∧ (s.sr s.me srTREC0).toNat / 2 ^ 16 % 2 ^ 16 = 5 ∧
     (s.core s.me).img = some img0 ∧ img0.replay = []) ∧
    (let s := withSr srEPC 0x8000002000000000 (on { core0 with sup := true, task := some 4 })
     (s.core s.me).sup = true ∧ (s.sr s.me srEPC).getLsbD 63 = true ∧ (s.core s.me).task = some 4) := by decide +kernel

/-- ResultsBecomeVisible and DeferredFaults: a write of each kind, x0 and the last registers among them, a withheld one,
a due fault of the lowest code among two, and a bound that has passed. -/
theorem test_meets_results :
    (∀ w ∈ [[Wr.x 63 7], [.x 0 7], [.v 63 1 1], [.p 15 1 1], [.p 0 1 1], [.b 15 none], []],
      let s := on { core0 with pend := [pend0 w (some 9)] }
      (s.core 0).pend = [pend0 w (some 9)] ∧ (pend0 w (some 9)).vis ≤ s.cycle ∧ (pend0 w (some 9)).flt = none ∧
      (pend0 w (some 9)).again = .value ∧ (pend0 w (some 9)).flags = 0 ∧ (pend0 w (some 9)).lat = some 9 ∧ 0 < 164 ∧
      w.all (fun x => match x with
        | .x _ _ => true
        | .v _ _ _ => true
        | .p _ _ _ => true
        | .b _ _ => true
        | _ => false) = true) ∧
    (let p : Pend := { pend0 [.x 1 2] none with flags := 4, flt := some (fault0 5) }
     let s := on { core0 with pend := [p] }
     (s.core 0).pend = [p] ∧ p.vis ≤ s.cycle ∧ p.flt = some (fault0 5)) ∧
    (let d : Due := ⟨9, fault0 5, none, false⟩
     let s := on { core0 with due := [⟨9, fault0 6, none, false⟩, d], pc := 16383 }
     (s.core 0).run = .issuing ∧ firstDue s 0 = some d ∧ d.sup = false ∧ (s.core 0).sup = false ∧ d.flt.cause < 2 ^ 16 ∧
     (s.core 0).pc < 2 ^ 14) ∧
    firstDue one 0 = none ∧ overran one 0 = false ∧
    (let s := on { core0 with task := some 1, iter := 2, bound := 8, part := 1 }
     overran s 0 = true ∧ (s.core 0).pc < 2 ^ 14) := by decide +kernel

/-- EngineOperationsIssue: boxes and parameters of every engine operation, an .sr copy and both ends of RBFILL. -/
theorem test_meets_engine_issue :
    (let t2 : Box := ⟨2, 11, [64], [1], 3, 0, 0, true, true, 1, 1, 0, 0, 0, 0, false⟩
     let s := withCtx { ctx0 with code := some { image with vault := [0] } } (withB [(0, vec 0 64), (1, vec 0 64), (2, vec 8 64), (3, vec 0 1),
       (4, t2), (5, vec 1 64)] (withX [(9, 20)] one))
     s.b s.me 0 = some (vec 0 64) ∧ s.b s.me 1 = some (vec 0 64) ∧ s.b s.me 2 = some (vec 8 64) ∧ s.b s.me 3 = some (vec 0 1) ∧
     s.b s.me 4 = some t2 ∧ s.b s.me 5 = some (vec 1 64) ∧ checkOf (.gath 0 1 2) s = none ∧ checkOf (.scac 0 2 1 0 0 0) s = none ∧
     checkOf (.fold 3 1 0 0 0 0) s = none ∧ checkOf (.scan 0 1 0 0 0 0 0 0) s = none ∧ checkOf (.zip 0 1 1 0 0) s = none ∧
     checkOf (.vrun 4 0 0) s = none ∧ checkOf (.vstop 4) s = none ∧ checkOf (.cpy 0 1 9 0 0 0 0 0) s = none ∧
     checkOf (.cpy 5 1 9 1 0 0 0 4) s = none) := by decide +kernel

/-- CountedDelivery: the last record of a counter box at T1 and at T3; a box that is done, one that is not, one with a flag,
and a deadline that is reached. -/
theorem test_meets_counted_delivery :
    (let c := vec 11 8
     let s := withB [(3, c)] (withX [(1, 1), (3, 4294967295)] (on { core0 with hold := .dlv c 3 10 }))
     let w := { s with spad := [(3, 0x80), (4, 5)] }
     let g := { s with spad := [(12, 1)] }
     s.b s.me 3 = some c ∧ c.tier = 1 ∧ checkOf (.dlvset 3 1 2 3) s = none ∧ c.elemIdx 7 = some 7 ∧ c.place s 7 true true = .at_ .spad 28 ∧
     checkOf (.dlvwait 3 1) s = none ∧ (s.core 0).held = .dlv c 3 10 ∧
     (s.core 0).sup = false ∧ dlvFlagged s c = false ∧ dlvDone s c = true ∧ dlvFlagged w c = false ∧ dlvDone w c = false ∧
     dlvFlagged g c = true ∧ 10 ≠ 0 ∧ 10 ≤ s.ctime) := by decide +kernel

/-- CountedDelivery, deliveries: record 1 of a box of two names producer 5; a producer that none names. -/
theorem test_meets_deliveries :
    (let c := vec 11 8
     let s := { State.reset with spad := [(16, 5), (19, 0x80), (20, 7)] }
     let word := fun (j : Nat) => (counterWord s c j : Nat)
     c.tier = 1 ∧ c.rank = 1 ∧ c.fmt = 11 ∧ c.str = [1] ∧ c.ext = [8] ∧ 0 ≤ c.idx ∧ c.org + 4 * (c.idx.toNat + 8) ≤ 2 ^ 22 ∧
     s.memOk = true ∧ 4 * 1 + 3 < 8 ∧ word (4 * 1) = 5 + 2 ^ 31 ∧ (∀ k, k < 1 → ¬word (4 * k) = 5 + 2 ^ 31) ∧
     (∀ k, k < 8 / 4 → ¬word (4 * k) = 6 + 2 ^ 31) ∧ 3 < 8) := by decide +kernel
theorem test_meets_still : ({ State.reset with spad := [(16, 5), (19, 0x80), (20, 7)] } : State).still := fun _ => ⟨rfl, rfl⟩

/-- EngineEventsComplete: an operation that can start, a copy at the head of the board, a transfer that has ended, and
operations that are over. -/
theorem test_meets_engine_events :
    (let g : Op := { op0 .gath with st := .waiting }
     let s := { one with ops := [(7, g)] }
     tfind s.ops 7 = some g ∧ g.phase ≠ 9 ∧ engineBusy s g 7 = false) ∧
    (let c : Op := { op0 .cpy with st := .waiting, start := 10 }
     let s := { on { core0 with board := [7], depFree := 10 } with ops := [(7, c)] }
     tfind s.ops 7 = some c ∧ c.phase ≠ 9 ∧ c.dueAt s ≤ s.cycle ∧ (s.core c.core).board.head? = some 7 ∧ (s.core c.core).depFree ≤ s.cycle ∧
     cpyBar s c = none) ∧
    (∀ c ∈ [{ op0 .cpy with phase := 5, tend := 10, par := [7] }, { op0 .cpy with phase := 5, tend := 10 }],
      let s := { one with ops := [(7, c)] }
      tfind s.ops 7 = some c ∧ c.phase = 5 ∧ c.tend ≤ s.cycle ∧ c.src.remote (c.view s) = false ∧ c.dst.remote (c.view s) = false ∧ c.st = .running ∧
      c.fin ≤ s.cycle ∧ c.next = c.total ∧ c.flt = none ∧ c.bad = none ∧ c.reqs = 0 ∧ c.outs = [] ∧ c.gather = [] ∧ c.busy = none) ∧
    (let c : Op := op0 .scac
     let s := { one with ops := [(7, c)] }
     c.farHome (c.view s) = false ∧ (s.core c.core).task.getD c.task = c.task) := by decide +kernel

/-- An operation of core 0 between scratchpads, and its state; a vector at an address. -/
def opOf (k : OpK) (bs : List Box) (par : List Nat) : Op := { op0 k with
  boxes := bs
  par := par
  total := 4 }
def stillOf (p : Op) (mem : List Host.Cell) : State := { State.reset with
  cycle := 10
  ops := [(7, p)]
  spad := mem }
def vat (fmt n org : Nat) : Box := { vec fmt n with org := org }

theorem test_meets_stillness (p : Op) (mem : List Host.Cell) : (stillOf p mem).still := fun _ => ⟨rfl, rfl⟩

/-- CopiesAndGathersWrite, GATH: an index within, one outside a ZERO box and one outside a FAULT box. -/
theorem test_meets_gather :
    (let mem : List Host.Cell := [(2048, 3), (2052, 99)]
     let b := vat 0 64 1024
     let i := vat 8 64 2048
     let z := opOf .gath [b, vec 0 64, i] []
     let f := opOf .gath [b, { vec 0 64 with oob := 2 }, i] []
     let s := stillOf z mem
     let t := stillOf f mem
     tfind s.ops 7 = some z ∧ s.memOk = true ∧ z.kind = .gath ∧ z.boxes = [b, vec 0 64, i] ∧ b.tier = 1 ∧ i.tier = 1 ∧
     (vec 0 64).linear (sextOf 32 (s.elemAt i (i.at 0))) = .elem 3 ∧ (vec 0 64).linear (sextOf 32 (s.elemAt i (i.at 1))) = .zero ∧
     ({ vec 0 64 with oob := 2 } : Box).linear (sextOf 32 (t.elemAt i (i.at 1))) = .fault ∧ f.flt = none) := by decide +kernel

/-- CopiesAndGathersWrite, CPY: every transform, the formats it parts on, a scale of NaN, finite and infinite codes, mask words
that fit and that do not, and a routine that faults and one that does not. -/
theorem test_meets_copies :
    (∀ tr, tr < 9 →
      let p := opOf .cpy [vec 0 64, vat 0 64 1024] [tr]
      let s := stillOf p []
      tfind s.ops 7 = some p ∧ s.memOk = true ∧ p.kind = .cpy ∧ p.boxes = [vec 0 64, vat 0 64 1024] ∧ p.tr = tr ∧
      (vec 0 64).tier = 1 ∧ (vat 0 64 1024).tier = 1 ∧ p.repl = []) ∧
    (vat 3 66 1024).fmt ≠ 5 ∧ (vat 5 64 1024).fmt = 5 ∧
    (let a := vec 4 33
     let s := stillOf (opOf .cpy [a, vat 0 32 1024] [3]) [(0, 0x7C), (32, 127)]
     let n := stillOf (opOf .cpy [a, vat 0 32 1024] [3]) [(32, 0xFF)]
     a.fmt ≠ 5 ∧ n.elemAt a (a.at 32) = 0xFF ∧ s.elemAt a (a.at 32) ≠ 0xFF ∧ fDecode a.fmt (s.elemAt a (a.at 0)) = .inf false ∧
     fDecode a.fmt (s.elemAt a (a.at 1)) = .fin false 0 (-16)) ∧
    (let a := vec 8 20
     let s := stillOf (opOf .cpy [a, vat 8 70 1024] [5]) [(0, 3)]
     let n := stillOf (opOf .cpy [a, vat 8 70 1024] [5]) [(3, 0x80)]
     ¬((0 : Nat) % 32 = 0 ∧ (a.count ≤ 0 ∨ s.elemAt a (a.at 0) / 2 ^ min 32 70 ≠ 0 ∨
       a.count < 0 + 1 + ((List.range 32).filter (fun i => (s.elemAt a (a.at 0)).testBit i)).length)) ∧
     (a.count < 30 ∧ (30 : Nat) % 32 ≠ 0 ∧ (64 : Nat) % 32 = 0 ∧ n.elemAt a (a.at 0) / 2 ^ min 32 (70 - 64) ≠ 0)) ∧
    (rtComps addRoutine = 1 ∧ (rtApply ⟨false, 0, false⟩ addRoutine [1]).why = 0 ∧
      (rtApply ⟨false, 31, false⟩ addRoutine [0x7F7FFFFF, 0x7F7FFFFF]).why ≠ 0) := by decide +kernel
theorem test_meets_no_injector (tr d n : Nat) : injBits ((opOf .cpy [] [tr]).par.drop 5) d n = 0 := rfl

/-- CopiesAndGathersWrite, completions: units that are left of each kind, moved without a fault; and one that is ready. -/
theorem test_meets_units_left :
    (∀ p ∈ [opOf .gath [vat 0 4 1024, vec 0 4, vat 8 4 2048] [], { opOf .scac [vat 8 4 1024, vat 8 4 2048, vec 8 4] [0] with total := 65 },
        { opOf .fold [vat 0 1 1024, vec 0 3] [0] with rtn := addRoutine }, { opOf .cpy [vec 0 4, vat 0 4 1024] [0] with phase := 5 }],
      let s := stillOf p [(1, 7)]
      let v := p.view s
      let u := applyAll (moveUnits 7 (p.total - p.next) v) v
      tfind s.ops 7 = some p ∧ p.st = .running ∧ p.reqs = 0 ∧ p.outs = [] ∧ p.gather = [] ∧ p.busy = none ∧ p.flt = none ∧ p.fin ≤ s.cycle ∧
      (∀ b ∈ p.boxes, b.tier = 1) ∧ p.boxes ≠ [] ∧ (tfind u.ops 7).map (fun q => (q.flt, q.bad)) = some (none, none)) ∧
    (let p := opOf .gath [vat 0 4 1024, vec 0 4, vat 8 4 2048] []
     unitReady (stillOf p []) p = true) := by decide +kernel

theorem test_meets_clean_steps (ins : List Nat) : (rtWords ⟨false, 0, false⟩ addRoutine ins).why = 0 := by
  have h0 : rtStep addRoutine 0 = 2 ^ 27 + 2 ^ 14 := by decide
  have h1 : rtStep addRoutine 1 = 0 := by decide
  have hs : ∀ a b c, ∃ v, stepVal ⟨false, 0, false⟩ (2 ^ 27 + 2 ^ 14) a b c = .ok v := by
    intro a b c
    exact ⟨_, rfl⟩
  unfold rtWords
  unfold runSteps
  simp only [h0]
  obtain ⟨v, hv⟩ := hs (opndVal addRoutine ins (List.replicate 8 0) (bitsOf (2 ^ 27 + 2 ^ 14) 19 5))
    (opndVal addRoutine ins (List.replicate 8 0) (bitsOf (2 ^ 27 + 2 ^ 14) 14 5)) (opndVal addRoutine ins (List.replicate 8 0) (bitsOf (2 ^ 27 + 2 ^ 14) 9 5))
  rw [hv]
  simp only [Nat.and_zero]
  unfold runSteps
  simp [h1]
/-- The routine of the tests never faults where no flag is enabled (CombiningOperationsWrite). -/
theorem test_meets_clean (x y : List Nat) : (rtApply ⟨false, 0, false⟩ addRoutine (x ++ y)).why = 0 := by
  unfold rtApply
  simp only [test_meets_clean_steps, Nat.and_zero]
  rfl

/-- CombiningOperationsWrite, SCAC: xchg and cas at a home and at none, a window of an integer add with a home twice, its updates,
a routine's, and a .bin with its bins. -/
theorem test_meets_scatters :
    (let h := vat 8 64 1024
     let i := vat 8 8 2048
     let x := vat 8 8 4096
     let mem : List Host.Cell := [(0, 5), (4, 6), (2048, 3), (2052, 3), (2056, 99)]
     let z (op : Nat) : Op := opOf .scac [h, i, vec 8 64, x] [op]
     let a : Op := opOf .scac [h, i, vec 8 8] [0]
     let m : Op := { a with acc := encWin [(3, 11, 2, 0)] }
     let r : Op := { m with
       par := [5]
       rtn := addRoutine }
     let b : Op := { opOf .scac [vat 0 64 1024, i, vec 0 8] [0, 1] with acc := encWin [(3, 5, 0, 0), (3, 6, 0, 1)] }
     let s := stillOf a mem
     let hit := fun (j : Nat) => h.linear (sextOf 32 (s.elemAt i (i.at j)))
     (∀ op ∈ [3, 4], (z op).kind = .scac ∧ (z op).skip = 0 ∧ (z op).repl = [] ∧ (z op).par.getD 0 0 = op ∧ (z op).par.getD 1 0 ≠ 1 ∧
       (∀ b ∈ (z op).boxes, b.tier = 1) ∧ (z op).boxes.take 3 = [h, i, vec 8 64] ∧ (z op).boxes = [h, i, vec 8 64, x]) ∧
     s.memOk = true ∧ hit 0 = .elem 3 ∧ 3 ≠ noHome ∧ hit 2 = .zero ∧ x.linear 0 = .elem 0 ∧ x.linear 2 = .elem 2 ∧
     a.boxes = [h, i, vec 8 8] ∧ a.par.getD 0 0 ≤ 2 ∧ a.par.getD 1 0 ≠ 1 ∧ a.acc = [] ∧ (∀ j, j < 8 → hit j ≠ .fault) ∧
     i.count = 8 ∧ 1 % 65 = 0 + 1 ∧ (decWin m.acc)[0]? = some (3, 11, 2, 0) ∧ m.par.getD 0 0 ≤ 2 ∧
     r.par.getD 0 0 = 5 ∧ (rtApply ⟨false, r.enb, false⟩ r.rtn [1, 2]).why = 0 ∧
     b.par.getD 1 0 = 1 ∧ (∀ y ∈ decWin b.acc, y.1 ≠ noHome) ∧ 0 < i.count ∧ 8 = i.count + 0 ∧
     (((decWin b.acc).map (·.1)).eraseDups)[0]? = some 3) := by decide +kernel

/-- CombiningOperationsWrite, FOLD, SCAN and ZIP: reads, the values of a fiber in every form, a carry, and pairs. -/
theorem test_meets_routine_operations :
    (∀ par ∈ [[0, 0, 0], [0, 1, 0], [0, 0, 1]],
      let p : Op := { opOf .fold [vat 0 1 1024, vec 0 4] par with rtn := addRoutine }
      p.kind = .fold ∧ p.skip = 0 ∧ p.repl = [] ∧ (∀ b ∈ p.boxes, b.tier = 1) ∧ p.boxes = [vat 0 1 1024, vec 0 4] ∧ p.comps = 1 ∧
      (vec 0 4).ext.getD (p.par.getD 0 0) 1 = 4 ∧ 3 % 5 < 4 ∧ 4 % 5 = 4 ∧ rtEnv p = ⟨false, 0, false⟩ ∧ p.rtn = addRoutine ∧
      p.boxes.take 2 = [vat 0 1 1024, vec 0 4]) ∧
    (∀ c ∈ [0, 1],
      let p : Op := { opOf .scan ([vat 0 4 1024, vec 0 4] ++ if c = 1 then [vat 0 1 2048] else []) [0, 0, 0, c] with rtn := addRoutine }
      p.kind = .scan ∧ (∀ b ∈ p.boxes, b.tier = 1) ∧ p.boxes.take 2 = [vat 0 4 1024, vec 0 4] ∧
      p.boxes.length = (if p.par.getD 3 0 == 1 then 3 else 2) ∧ 0 < (vec 0 4).ext.getD 0 1 ∧ fiberCount (vec 0 4).ext 0 false = 1 ∧
      7 < 1 * (2 * 4) ∧ 3 % 8 < 4 ∧ 4 % 8 = 4 ∧ 4 < 7 % 8 ∧ 1 * (2 * 4) ≤ 8) ∧
    (∀ two ∈ [false, true],
      let p : Op := { opOf .zip ([vat 0 4 1024, vec 0 4] ++ if two then [vat 0 4 2048] else []) [] with
        rtn := addRoutine
        acc := [1, 2, 3, 4, 5, 6, 7, 8] }
      p.kind = .zip ∧ (∀ b ∈ p.boxes, b.tier = 1) ∧ p.boxes.take 2 = [vat 0 4 1024, vec 0 4] ∧ (vec 0 4).count / p.comps = 4 ∧ 3 < 4 ∧
      (rtApply (rtEnv p) p.rtn ((p.acc.drop ((if two then 2 else 1) * (7 - 4))).take (if two then 2 else 1))).why = 0) := by decide +kernel

/-- EngineEventsComplete, RBFILL's next word and a publication's version. -/
theorem test_meets_fill_and_publication :
    (let p : Op := { op0 .rbfill with start := 0, next := 0 - 0 }
     let s := { one with
       ops := [(7, p)]
       cycle := 12 }
     s.ops = [(7, p)] ∧ p.core = 0 ∧ p.kind = .rbfill ∧ p.st = .running ∧ p.start + 12 + 2 * p.next ≤ s.cycle) ∧
    (let p : Op := { op0 .pub with par := [63] }
     let x : Win := ⟨0, 4096, false, 0, 4096, false, true⟩
     let s := { withCtx { ctx0 with wins := [(63, x)] } one with ops := [(7, p)] }
     s.memOk = true ∧ tfind s.ops 7 = some p ∧ p.st = .running ∧ tfind (s.ctx p.ctx).wins (p.par.headD 0) = some x) := by decide +kernel

/-- FarRequestEvents: an arrival that finds room and one that does not, a write and a read being served, a reply. -/
theorem test_meets_far_requests :
    (let s := { one with
       reqs := [(7, req0 0 1)]
       vaults := [(3, { Vault.start with waiting := List.replicate 255 0 })] }
     tfind s.reqs 7 = some (req0 0 1) ∧ (req0 0 1).sealed = [] ∧ (req0 0 1).op = none ∧ (req0 0 1).arrive ≤ s.cycle ∧ vaultFenced s 3 = false ∧
     (s.vault 3).waiting.length < 256) ∧
    (let s := { on { core0 with task := some 0 } with
       reqs := [(7, req0 0 1)]
       vaults := [(3, { Vault.start with waiting := List.replicate 256 0 })] }
     256 ≤ (s.vault 3).waiting.length ∧ vaultFenced s 3 = false ∧ (s.core (req0 0 1).core).task = some (req0 0 1).task) ∧
    (let s := { one with
       reqs := [(7, req0 1 2)]
       vaults := [(3, { Vault.start with serve := some (7, 4, 4, 21) })] }
     (s.vault 3).serve = some (7, 4, 4, 21) ∧ (req0 1 2).page ≠ 4 ∧ ({ req0 1 2 with page := 4 } : Req).page = 4 ∧ 21 / 2 ≤ s.cycle ∧ s.memOk = true ∧ (req0 1 2).kind = 1 ∧ (req0 0 2).kind = 0) ∧
    (let s := { on { core0 with task := some 0 } with reqs := [(7, req0 0 3)] }
     let q := req0 0 3
     let l := { on { core0 with task := some 0, latAt := [(q.slot, (10, q.issue + 1))] } with reqs := [(7, q)] }
     tfind s.reqs 7 = some q ∧ q.st = 3 ∧ (s.core q.core).task = some q.task ∧ (s.core q.core).run ≠ .fenced ∧ q.reg < 64 ∧ q.slot < 8 ∧
     ¬((tget (0, 0) (s.core q.core).latAt q.slot).1 = s.cycle ∧ q.issue < (tget (0, 0) (s.core q.core).latAt q.slot).2) ∧
     (tget (0, 0) (l.core q.core).latAt q.slot).1 = l.cycle ∧ q.issue < (tget (0, 0) (l.core q.core).latAt q.slot).2 ∧
     ¬(((s.core q.core).sup = true ∧ q.sup = false) ∧ (s.core q.core).img.isSome = true)) ∧
    (let s := { on { core0 with task := some 0, sup := true, img := some img0 } with reqs := [(7, req0 0 3)] }
     let q := req0 0 3
     (s.core q.core).sup = true ∧ q.sup = false ∧ (s.core q.core).img = some img0 ∧ (s.core q.core).task = some q.task ∧ q.nb = false ∧
     ({ q with nb := true } : Req).nb = true) := by
  decide +kernel

/-- FarRequestEvents, sealed host memory: an element of a unit never written, and one of a unit whose tag, the free function of
log 9, a record of generation 1 does not hold: one of the two of it and another, which differ, does not. -/
def sealedReq (k : Nat) : Req := { req0 k 1 with sealed := [0, 16, 100, 0, 64] }
theorem test_meets_sealed :
    (let s := { one with reqs := [(7, sealedReq 0)] }
     let opened (j : Nat) := t4Open s 0 16 64 0 ((sealedReq 0).unit j).1
     tfind s.reqs 7 = some (sealedReq 0) ∧ (sealedReq 0).sealed ≠ [] ∧ (sealedReq 0).arrive ≤ s.cycle ∧ (sealedReq 0).kind = 0 ∧
     (sealedReq 1).kind = 1 ∧ ∀ j, j < (sealedReq 0).len → opened j ≠ none) := by decide +kernel

/-! ### The same: the signal box and the exchange -/

/-- A start request of core 0 for the whole of vault 0, and its program at real CK 200. -/
def start0 : VStart := ⟨0, 0, 0, 0, 0, 0, 0, 0, 0, 0, 0, 32768, true, true, 0, false, 7, 0, 0, []⟩
def prog0 : VProg := ⟨start0, ⟨0, 200, 0, 0⟩, ⟨0, 200, 0, 0⟩, [], 0, [], 0, none, none, none, false⟩
/-- Vault 0 runs the program in cycle 100, bank 63 as given; core 0 has platform 7. -/
def vaultOf (v : Vault) (s : State) : State := { s with
  vaults := [(0, v)]
  cycle := 100 }
def running (p : VProg) (b : Bank) : State := vaultOf { Vault.start with
  prog := some p
  banks := [(63, b)] } (withSr 0x1F 0x200000 (withCtx { ctx0 with code := some { image with vault := [4 * 2 ^ 27 + 7 * 2 ^ 9, 0] } } one))
def openRow : Bank := ⟨some 5, 1, 0, 0, 0, 0, 0⟩

/-- VaultCommands: bank 3 of group 3 of pseudo-channel 3, closed and open, debts at their limits. -/
theorem test_meets_vault_commands :
    (let s := running prog0 { Bank.start with debt := -7 }
     let t := s.vault s.iss.vault
     let r := ckReal s (prog0.cur.pos + 31)
     let k := bkey 3 3 3
     s.memOk = true ∧ t.prog = some prog0 ∧ 3 < 4 ∧ (t.bank k).row = none ∧ 32767 + prog0.req.roff < prog0.req.nrows ∧
     violated r (actCons t k) = none ∧ violated r (preCons t k) = none ∧ violated r ((banksOf 3).flatMap (preCons t)) = none ∧
     -8 < (t.bank k).debt ∧ violated r ((2, (t.bank k).pre, 24) :: rrdCons t 3 3 ++ refCons t k) = none ∧
     t.anyOpen (banksOf 3) = false ∧ (∀ j ∈ banksOf 3, -8 < (t.bank j).debt) ∧
     violated r ((banksOf 3).flatMap (fun j => (2, (t.bank j).pre, 24) :: refCons t j)) = none ∧
     (vaultWord s prog0.req 1).isSome = true ∧ 0 ≤ prog0.cur.idx ∧ prog0.cur.lc = 0 ∧ t.anyOpen (List.range 64) = false ∧
     prog0.ends = none) ∧
    (let s := running prog0 openRow
     let t := s.vault s.iss.vault
     let r := ckReal s prog0.cur.pos
     (t.bank (bkey 3 3 3)).row.isSome = true ∧ prog0.req.rd = true ∧ prog0.req.wr = true ∧ platBad s prog0 7 = false ∧
     violated r (colCons t (bkey 3 3 3) false) = none ∧ violated r (colCons t (bkey 3 3 3) true) = none) ∧
    (let p : VProg := { prog0 with cur := ⟨4, 200, 2, 4⟩ }
     4 ≤ p.cur.idx ∧ p.cur.lc ≠ 0 ∧ p.cur.li = p.cur.idx) ∧
    prog0.req.kind ≠ 1 ∧ ({ prog0 with req := { start0 with kind := 1 } } : VProg).req.kind = 1 := by decide +kernel

/-- InterlockRefuses: a command one CK early, on an open and on a closed bank, past the box's rows, and without a platform. -/
theorem test_meets_interlock :
    (let s := { running prog0 { openRow with act := 190, debt := -8 } with cores := [(0, { core0 with task := some 0 })] }
     let t := s.vault s.iss.vault
     let k := bkey 3 3 3
     t.prog = some prog0 ∧ prog0.ends = none ∧ (s.core prog0.req.issuer).task = some prog0.req.task ∧ (t.bank k).row.isSome = true ∧
     prog0.req.nrows ≤ 32768 + prog0.req.roff ∧ (violated (ckReal s 200) (actCons t k)).isSome = true ∧
     (violated (ckReal s 200) (colCons t k false)).isSome = true ∧ (violated (ckReal s 200) (preCons t k)).isSome = true ∧
     (t.bank k).debt ≤ -8 ∧ t.anyOpen (banksOf 3) = true ∧ platBad s prog0 6 = true ∧ (t.bank 0).row = none) := by decide +kernel

/-- VaultEventsComplete: requests that arrive, start, stop and end, a WR read ahead, deliveries. -/
theorem test_meets_vault_events :
    (let b : Box := ⟨2, 11, [64], [1], 0, 0, 0, true, true, 1, 1, 0, 0, 0, 0, false⟩
     let o : Op := { op0 .vrun with
       st := .waiting
       boxes := [b] }
     let s := vaultOf { Vault.start with queue := [start0, start0, start0] } { one with ops := [(7, o)] }
     tfind s.ops 7 = some o ∧ o.kind = .vrun ∧ o.boxes = b :: [] ∧ b.home = 0 ∧ o.behindHeld s = false ∧ vaultOff s 0 = false ∧
     (s.vault 0).queue.length < 4) ∧
    (let s := vaultOf { Vault.start with queue := [start0] } one
     (s.vault 0).prog = none ∧ (s.vault 0).serve = none ∧ (s.vault 0).queue = start0 :: [] ∧ (∀ pc, pc < 4 → ((s.vault 0).chan pc).forced = false) ∧
     aheadOfStart s (s.vault 0) = [] ∧ (s.vault 0).anyOpen (List.range 64) = false ∧ settleCycle s (s.vault 0) ≤ s.cycle) ∧
    (let s := running prog0 openRow
     159 < 4096 ∧ prog0.req.ctx = 159 / 256 ∧ prog0.req.kind ≠ 1 ∧ prog0.ends = none ∧ (s.vault 0).window = none ∧
     (aheadNext s prog0.req 256 prog0.ahead).any (fun e => e.1.any (fun w =>
       w.1 / 2 - 4 - coreVault prog0.req.owner 0 ≤ s.cycle)) = true) ∧
    (let s := withCtx { ctx0 with code := some { image with vault := [0xB * 2 ^ 27 + 1 * 2 ^ 12 + 4095, 0xC * 2 ^ 27] } } (running prog0 openRow)
     (aheadNext s prog0.req 256 prog0.ahead).any (fun e => e.1.isNone) = true) ∧
    (let p : VProg := { prog0 with ends := some 100 }
     p.ends = some 100 ∧ 100 ≤ (running p openRow).cycle) ∧
    (let k : Pkt := ⟨3, 0, 0, 0, 90, 100, false, 0, 0, 0, 4194240, List.replicate 64 7, none, 0, [], 0⟩
     let g : Pkt := ⟨3, 0, 0, 0, 90, 100, false, 0, 0, 0, 1024, [], some 9, 0, [], 0⟩
     let s := { running prog0 openRow with pkts := [(7, k), (8, g)] }
     tfind s.pkts 7 = some k ∧ k.kind = 3 ∧ k.arrive ≤ s.cycle ∧ k.data ≠ [] ∧ s.memOk = true ∧ tfind s.pkts 8 = some g ∧ g.data = [] ∧
     g.tag = some 9) := by decide +kernel

/-- VaultEventsComplete: nothing was written a moment ago. -/
theorem test_meets_before (m : Nat) : ((running prog0 openRow).core m).before = [] := by
  cases m <;> rfl

/-- VaultEventsComplete, refresh: a period that has passed, a forced refresh, and an inserted one. -/
theorem test_meets_refresh :
    (let s := { vaultOf { Vault.start with
        banks := [(63, { Bank.start with debt := 8 })]
        chans := [(3, { PChan.start with forced := true })] } one with cycle := 3200 }
     let t := s.vault 0
     3 < 4 ∧ (t.chan 3).accrue ≤ ckReal s (2 * s.cycle + 1) ∧ (t.chan 3).forced = true ∧ t.serve = none ∧
     t.anyOpen (banksOf 3) = false ∧ refabAt s t 3 ≤ ckReal s (2 * s.cycle + 1)) ∧
    (let s := vaultOf { Vault.start with banks := [(63, { Bank.start with debt := 1 })] } one
     let t := s.vault 0
     t.prog = none ∧ t.queue = [] ∧ t.serve = none ∧ (t.chan 3).forced = false ∧ (∃ j ∈ banksOf 3, 1 ≤ (t.bank j).debt) ∧
     t.anyOpen (banksOf 3) = false ∧ refabAt s t 3 ≤ ckReal s (2 * s.cycle + 1)) := by decide +kernel

/-- A domain of the whole quad at device level; an arrival of this cycle from position 1. -/
def quadDomain (s : State) : State := withSr srDOMAIN (BitVec.ofNat 64 (0xF * 2 ^ 36 + 2 * 2 ^ 33)) s
def arrival : Pkt := ⟨0, 1, 0, 0, 4, 10, false, 0, 0, 0, 0, List.replicate 128 3, none, 0, [], 0⟩
/-- One out entry of 2,047 flits on port 3, from platform 7, the last of its timetable (R319). -/
def outEntry : List Nat := [100, 3 * 2 ^ 28 + 9 * 2 ^ 20 + 5, 2 ^ 31 + 7 * 2 ^ 27 + 2047 * 2 ^ 16, 77]
def port3 : Port := { Port.start with
  mode := 1
  peer := 5
  attested := true }

/-- ExchangeOperations. -/
theorem test_meets_exchange_operations :
    (let t5 : Box := ⟨5, 0, [32], [1], 5, 0, 0, true, true, 0, 1, 0, 0, 0, 0, false⟩
     let c5 : Box := ⟨5, 11, [8], [1], 5, 0, 0, true, true, 0, 1, 0, 0, 0, 0, false⟩
     let s := { quadDomain (withCtx { ctx0 with code := some { image with timetable := [outEntry] } } (withSr 0x1F 0x200000
       (withB [(2, vec 0 32), (3, vec 11 8), (4, t5), (5, c5)] (withX [(9, 1000)] one)))) with
       pkts := [(7, arrival)]
       spad := [(4, 4)]
       dev := { Dev.start with ports := [(3, port3)] } }
     s.b s.me 2 = some (vec 0 32) ∧ s.b s.me 3 = some (vec 11 8) ∧ s.b s.me 4 = some t5 ∧ s.b s.me 5 = some c5 ∧
     checkOf (.send 0 1 2 20) s = none ∧ checkOf (.recv 0 1 2 20) s = none ∧ checkOf (.recvop 0 1 2 20 2 0) s = none ∧
     arrivalFor s 0 1 = some (7, arrival) ∧ 3 < 4 ∧ scopeLevel 3 ≤ domLvl s s.me ∧ checkOf (.ttarm 9 0) s = none ∧
     checkOf (.lsend 4 2 5) s = none ∧ forkBlocked s s.me = false ∧ s.upsets = [] ∧
     forkBlocked { s with cores := [(0, { core0 with fences := [⟨0, true, true, [1], 0⟩] })] } 0 = true) := by decide +kernel

/-- ExchangeOperations, RECVOP's second half: two lanes on one element of .s32, which wrap; of .f32, the sum of which overflows
with OF enabled. -/
theorem test_meets_recvop :
    (let q : Pend := { pend0 [] none with again := .recvop 0 0 8 [5, 0xFFFFFFFF] [1, 1] [] [] }
     let s := on { core0 with pend := [q] }
     (s.core 0).pend = [q] ∧ q.vis ≤ s.cycle ∧ q.flt = none ∧ q.again = .recvop 0 0 8 [5, 0xFFFFFFFF] [1, 1] [] [] ∧
     ∀ v ∈ [5, 0xFFFFFFFF], (combine 0 8 (s.turnNat .spad 0 4) v).2 &&& q.flags = 0) ∧
    (let q : Pend := { pend0 [] none with
       flags := 31
       again := .recvop 0 0 0 [0x7F7FFFFF, 0x7F7FFFFF] [1, 1] [] [] }
     let s := on { core0 with pend := [q] }
     (s.core 0).pend = [q] ∧ (1 : Nat) ≠ 0 ∧
     (combine 0 0 (combine 0 0 (s.turnNat .spad 0 4) 0x7F7FFFFF).1 0x7F7FFFFF).2 &&& q.flags ≠ 0) := by decide +kernel

/-- ExchangeOperations, links: a mesh packet of core 1 to core 4 in cycle 10 asks for the link from (1, 0) to (2, 0) in the
cycle in which one that core 0 sent core 3 in cycle 8 does, and is held back; one sent in cycle 4, or to core 11, is not met
(R13, R15). -/
theorem test_meets_contention :
    (let q : Pkt := ⟨0, 0, 3, 0, 8, 22, true, 0, 0, 0, 14, [], none, 0, [], 0⟩
     let s := { on core0 with iss := ⟨1, 7, 0, 0⟩ }
     meets s 1 4 q = (false, true) ∧ meets s 1 4 { q with issue := 4, arrive := 18 } = (false, false) ∧ meets s 1 11 q = (false, false) ∧
     meets s 1 4 { q with num := 1 } = (true, false) ∧ sendArrival s 1 4 = (24, false)) := by decide +kernel

/-- ExchangeOperations, COLL: an allreduce of .f32 in native form at quad scope, its descriptor at 1,024 (R328). -/
theorem test_meets_collective :
    (let q : Box := { vec 11 8 with org := 1024 }
     let s := { quadDomain (withB [(2, vec 0 32), (3, vec 0 32), (4, q)] one) with spad := [(1028, 0x44), (1029, 0x44), (1030, 4), (1040, 4)] }
     s.b s.me 2 = some (vec 0 32) ∧ s.b s.me 3 = some (vec 0 32) ∧ s.b s.me 4 = some q ∧ checkOf (.coll 3 2 4 1 0 0) s = none) := by
  decide +kernel

/-- ExchangeEvents: a barrier, an arrival nobody takes, entries due, a table that is over, one with a missing entry,
and a flit of an in entry. -/
theorem test_meets_exchange_events :
    (let s := on { core0 with hold := .syncd 3 }
     (s.core 0).hold = .syncd 3 ∧ (s.core 0).sup = false ∧ 3 < 4 ∧ arrival.kind = 0 ∧ arrival.issue < arrival.arrive ∧ arrival.arrive ≤ s.cycle ∧
     tfind { s with pkts := [(7, arrival)] }.pkts 7 = some arrival) ∧
    (let e : TEnt := { ttEntry outEntry with nf := 1 }
     let f : TEnt := { e with got := List.replicate 192 0 }
     let i : TEnt := { e with dirIn := true }
     let c : TTab := ⟨0, [e, f, i], 80⟩
     let s := { on { core0 with tt := some c } with
       cycle := 65700
       dev := { Dev.start with ports := [(3, port3)] } }
     let b : Core := { core0 with fences := [⟨0, true, true, [1], 0⟩] }
     fenceBlocks (s.core 0) false 0 c.pos = false ∧ fenceBlocks b false 0 c.pos = true ∧ (s.core 0).tt = some c ∧ c.ents[0]? = some e ∧ c.ents[1]? = some f ∧ c.ents[2]? = some i ∧ e.dirIn = false ∧ e.mark = 0 ∧
     ttCycle s (c.tbase + e.dt + e.got.length / 64) ≤ s.cycle ∧ e.got.length / 64 + 1 < 4 * e.nf ∧
     ttCycle s (c.tbase + f.dt + f.got.length / 64) ≤ s.cycle ∧ f.got.length / 64 + 1 = 4 * f.nf ∧ (s.port 3).mode ≠ 0 ∧ injectorsOf s 3 3 = [] ∧
     i.dirIn = true ∧ i.mark = 0 ∧ c.tbase + i.dt ≤ s.ctime ∧ c.tbase + i.dt + 65536 ≤ s.ctime) ∧
    (let c : TTab := ⟨0, [{ ttEntry outEntry with mark := 1 }], 0⟩
     let d : TTab := ⟨0, [{ ttEntry outEntry with mark := 4 }], 0⟩
     (∀ e ∈ c.ents, e.mark = 1) ∧ core0.ttStray = 0 ∧ (∀ e ∈ d.ents, e.mark = 1 ∨ 3 ≤ e.mark) ∧ ∃ e ∈ d.ents, e.mark = 4) ∧
    (let e : TEnt := ⟨100, 3, 9, 5, true, 7, 1, 0, 77, 0, []⟩
     let k : Pkt := ⟨1, 9 + 5 * 2 ^ 8, 0, 3, 0, 10, false, 77, 0, 0, 0, List.replicate 256 1, none, 0, [], 0⟩
     let s := { on { core0 with tt := some ⟨0, [e], 0⟩ } with pkts := [(7, k)] }
     tfind s.pkts 7 = some k ∧ k.kind = 1 ∧ k.dst = 0 ∧ s.memOk = true ∧ k.data.length = 256 ∧ (s.core 0).tt = some ⟨0, [e], 0⟩ ∧
     e.dirIn = true ∧ e.mark = 0 ∧ e.pcore + e.peer * 2 ^ 8 = k.src ∧ e.port = k.port ∧ e.seq = k.seq ∧ k.num < e.nf ∧ e.got = [] ∧
     core0.tt = none) := by decide +kernel

/-- LinkEvents: a counted send whose source is read, one that is done, flits of it here, not yet landing, landed and counted,
and on a port of either mode; a timetable flit sent; and a collective with and without an enabled flag. -/
theorem test_meets_link_events :
    (let r : Op := op0 .lsend
     let d : Op := { op0 .lsend with st := .done }
     let c : Op := { op0 .coll with phase := 2 }
     let e : Op := { c with flags := 4, enb := 4 }
     let l : Op := { op0 .land with par := [0, 9] }
     let k : Pkt := ⟨2, 0, 0, 3, 0, 10, false, 0, 0, 7, 0, [1], none, 0, [vec 0 64, vec 11 8], 0⟩
     let f : Pkt := { k with dst := 5, tries := 1 }
     let h : Pkt := { k with kind := 6 }
     let s := { on { core0 with task := some 0 } with
       ops := [(6, r), (7, d), (8, c)]
       pkts := [(9, k), (10, f), (11, h)]
       dev := { Dev.start with ports := [(3, port3), (4, { port3 with mode := 2 })] } }
     let z := { s with ops := [(6, l)] }
     tfind s.ops 6 = some r ∧ r.st = .running ∧ r.fin ≤ s.cycle ∧ tfind s.ops 7 = some d ∧ d.st = .done ∧
     (s.core d.core).task = some d.task ∧ { s with pkts := [] }.pkts = [] ∧ tfind s.pkts 9 = some k ∧ k.kind = 2 ∧ k.dst = s.dev.ident ∧
     (s.ops.find? (fun e => e.2.kind == .land && e.2.par == [0, 9])).isNone = true ∧
     z.ops.find? (fun e => e.2.kind == .land && e.2.par == [0, 9]) = some (6, l) ∧ tfind z.ops 6 = some l ∧ l.reqs = 0 ∧ l.outs = [] ∧
     l.phase = 0 ∧ 1 < k.boxes.length ∧ ({ l with phase := 1 } : Op).phase ≠ 0 ∧ k.prod % 2 ^ 20 = s.dev.ident ∧
     ({ k with prod := 5 } : Pkt).prod % 2 ^ 20 ≠ s.dev.ident ∧ (s.port 3).mode = 1 ∧ (s.port 4).mode = 2 ∧
     tfind s.pkts 10 = some f ∧ f.kind = 2 ∧ f.port = 3 ∧ f.dst ≠ s.dev.ident ∧ (s.port 3).waits = [] ∧ tfind s.pkts 11 = some h ∧
     h.kind = 6 ∧ h.port = 3 ∧ f.tries ≠ 0 ∧ h.tries = 0 ∧ tfind s.ops 8 = some c ∧ c.kind = .coll ∧ c.st = .running ∧ c.flt = none ∧
     c.phase = 2 ∧ c.reqs = 0 ∧ c.residual = none ∧ (collOut c).foldl (fun f x => f ||| elF x) c.flags &&& c.enb = 0 ∧
     (collOut e).foldl (fun f x => f ||| elF x) e.flags &&& e.enb ≠ 0 ∧ (s.core e.core).task = some e.task ∧
     { s with pkts := [(9, k)] }.pkts = [(9, k)] ∧ s.dev.lock = true) := by decide +kernel

/-- LinkEvents: sources read for this device, for a device of the pod behind a short-reach port and for another pod's behind a
long-haul one; the landing of a flit of two elements in a range of HBM; and the requests of a landing being served. -/
theorem test_meets_sends_and_landings :
    (let s := { one with dev := { Dev.start with
       routes := [(5, BitVec.ofNat 64 (2 ^ 63 + 3))]
       ports := [(3, port3), (4, { port3 with mode := 2 })] } }
     (∀ h ∈ [0, 5, 1029],
       let d := { vec 0 64 with home := h }
       let p : Op := { op0 .lsend with boxes := [d, vec 0 64, vec 11 8] }
       p.kind = .lsend ∧ p.st = .running ∧ p.fin ≤ s.cycle ∧ (elemBytes s p (vec 0 64) 0 (vec 0 64).count).length = 256) ∧
     0 = s.dev.ident ∧ 5 ≠ s.dev.ident ∧ portTo s 5 = 3 ∧ (s.port 3).mode = 1 ∧ injectorsOf s 3 3 = [] ∧ portTo s 1029 = 4 ∧
     (s.port 4).mode = 2 ∧ (s.port 4).retry.length + 1 ≤ 2 ^ 20 ∧ injectorsOf s 3 4 = []) ∧
    (let d := vec 0 2
     let k : Pkt := ⟨2, 0, 0, 3, 0, 10, false, 0, 0, 7, 0, List.replicate 8 1, none, 0, [d, vec 11 8], 0⟩
     let s := { one with
       pkts := [(9, k)]
       dram := [(8, 0xFF), (9, 0x0F), (18, 0x10), (24, 7)] }
     let z := d.landed
     let key := fun (j : Nat) => z.placeOff s (z.offset (z.at (256 / d.esize * k.num + j))) z.esize false true
     tfind s.pkts 9 = some k ∧ k.kind = 2 ∧ k.dst = s.dev.ident ∧ s.ops.find? (fun e => e.2.kind == .land && e.2.par == [0, 9]) = none ∧
     k.boxes = [d, vec 11 8] ∧ d.fmt ≠ 5 ∧ z.remote s = true ∧ min (256 / d.esize) (z.count - 256 / d.esize * k.num) = 2 ∧
     key 0 = .at_ .dram 206158434304 ∧ key 1 = .at_ .dram 206158434308 ∧ 206158434304 + z.esize ≤ 206158434308) ∧
    (∀ kind ∈ [1, 3],
      let l : Op := { op0 .land with par := [0, 9] }
      let z : Req := { req0 kind 2 with
        op := some 6
        data := [1, 0, 0, 0, 4, 0, 0, 0] }
      let s := { one with
        ops := [(6, l)]
        reqs := [(7, z)]
        vaults := [(3, { Vault.start with serve := some (7, 4, 4, 20) })] }
      tfind s.reqs 7 = some z ∧ 7 < s.nid ∧ z.op = some 6 ∧ tfind s.ops 6 = some l ∧ l.kind = .land ∧ l.par = [0, 9] ∧ l.refused = [] ∧
      (s.vault z.vault).serve = some (7, 4, 4, 20) ∧ 20 / 2 ≤ s.cycle ∧ s.memOk = true ∧ z.kind = kind) := by decide +kernel

/-! ### The same: tasks, yards, registers, power and the outside -/

/-- A record of one trip within 1,024 cycles, as words and decoded (R277). -/
def rec0 : List Nat := [0, 0, 0, 0, 0, 0, 1024 * 2 ^ 11, 1]
def task0 (st : TaskSt) (core : Option Nat) : Task := ⟨0, 0, recOf (recBits rec0), 1, some 9, some 3, 0, 0, 0, 1, 0, 5, [], [], [], st, core, 0, 0, 0,
  10, 0, 0, 0, 0, 0, none, 0, false, false, 0, 0, none, none, []⟩
def scope0 (ts : List Nat) : Scope := ⟨7, true, 5, none, ts, [], 0, 0, []⟩
def withDsr (l : Tab Word) (s : State) : State := { s with dev := { s.dev with sr := l.foldl (fun t e => tput t e.1 e.2) s.dev.sr } }
/-- Context 0 may be placed on every die, with a save area of 255 units (R304). -/
def placeable (s : State) : State :=
  withDsr [(0x120, BitVec.ofNat 64 (1 + 15 * 2 ^ 8 + 255 * 2 ^ 48))] (withCtx { ctx0 with code := some { image with records := [rec0] } } s)
/-- Task 5 runs on core 0. -/
def running5 (h : Hold) : State := placeable { on { core0 with
  task := some 5
  lrec := recOf (recBits rec0)
  hold := h } with tasks := [(5, task0 .running (some 0))] }

/-- TaskOperations: a table with free entries and one without, a freed handle, an owner's scope unfinished and another's,
a call and a spawn that pass their checks. -/
theorem test_meets_task_operations :
    (let s := quadDomain { withX [(40, 0x70003)] (running5 .none) with scopes := [(3, scope0 [6])], tasks := [(5, task0 .running (some 0)),
       (6, task0 .queued none)] }
     let c := s.core s.me
     freeEntries s 0 ≠ [] ∧ scopeOf s (s.x s.me 1).toNat = none ∧ scopeOf s (s.x s.me 40).toNat = some (3, scope0 [6]) ∧
     some (scope0 [6]).owner = c.task ∧ scopeDone s (scope0 [6]) = false ∧ c.held ≠ .save ∧ checkOf (.tcall 0 40 1 0 8) s = none ∧
     recordOf s c.ctx 0 = some (recOf (recBits rec0)) ∧ c.task = some 5 ∧ core0.task = none ∧ some (scope0 [6]).owner ≠ core0.task) ∧
    (let s := { one with scopes := (List.range 256).map (fun e => (e, scope0 [])) }
     freeEntries s 0 = []) ∧
    (let s := quadDomain { running5 .none with dev := { (running5 .none).dev with sr := (running5 .none).dev.sr } }
     checkOf (.spawn 2 0x100) s = none) := by decide +kernel

/-- TasksStart: a task whose images are ready, and no default generator running. -/
theorem test_meets_task_start :
    (let k := task0 .starting (some 0)
     let s := { one with tasks := [(5, k)] }
     tfind s.tasks 5 = some k ∧ k.st = .starting ∧ k.core = some 0 ∧ k.ready ≤ s.cycle) ∧ ∀ q, generating one q = false :=
  ⟨by decide +kernel, fun _ => rfl⟩

/-- A saved context of core 0 whose x5 holds 7, for a slot, with a tag. -/
def saved0 (scope : Option Nat) (slot : Nat) (tag : BitVec 128) : Saved :=
  ⟨0, core0, [(5, 7)], [], [], [], [], [], [], [], [], scope, 0, slot, 0, tag⟩

/-- YardEvents: a task to place on core 0, one that waits long, a request of a running one, saves and a restore. -/
theorem test_meets_yard_events :
    (let k := task0 .queued none
     let s := placeable { State.reset with tasks := [(5, k)] }
     nextPlace s 0 = some (5, k, [0]) ∧ unitOf s 5 k = [5] ∧ tfind s.tasks 5 = some k ∧ k.saved = none) ∧
    (let k := task0 .queued none
     let s := { placeable { one with tasks := [(5, k), (6, { task0 .running (some 0) with lead := 6 })] } with
       cycle := 262144
       cores := (List.range 160).map (fun n => (n, { core0 with task := some 6 })) }
     inOrder s 0 = (5, k) :: [] ∧ s.held = false ∧ reserved s 0 = false ∧ effPrio s k = 3 ∧ waitedLong s k = true ∧ placement s 5 k [] = none ∧
     (reservePlace s k).isSome = true) ∧
    (let s := running5 .none
     let k := task0 .running (some 0)
     tfind s.tasks 5 = some k ∧ k.st = .running ∧ s.held = false ∧ requestOpen s 0 = false ∧
     (∀ e ∈ s.tasks, e.2.lead = k.lead → ∀ m, m ≤ 0 → e.2.core = some m → atRest s m = false)) ∧
    (let s := running5 .save
     let k := task0 .running (some 0)
     tfind s.tasks 5 = some k ∧ k.st = .running ∧ k.core = some 0 ∧ (s.core 0).held = .save ∧ gangSaveReady s k = true) ∧
    (let s := running5 (.finwait 3 4 false)
     tfind s.tasks 5 = some (task0 .running (some 0)) ∧ (s.core 0).held = .finwait 3 4 false ∧ saveReady s 5 0 = true) ∧
    (let v := saved0 none 4 0
     let k := { task0 .restoring (some 0) with saved := some v }
     let s := { one with tasks := [(5, k)] }
     tfind s.tasks 5 = some k ∧ k.st = .restoring ∧ k.core = some 0 ∧ k.saved = some v ∧ v.scope = none ∧ k.ready ≤ s.cycle ∧
     v.genuine s.dev.sealEpoch 5 (tget 0 (s.ctx k.ctx).saves 5) = false ∧ risingFrom 0 (saved0 none 5 0).xs = true) := by
  decide +kernel

/-- YardEvents, a record that Sirlen sealed last for task 5, its tag the free function of log 103. -/
theorem test_meets_genuine : (saved0 none 5 (sealTag 1 (saved0 none 5 0))).genuine one.dev.sealEpoch 5 (tget 0 (one.ctx 0).saves 5) = true := by
  have h : tget 0 (one.ctx 0).saves 5 = 0 := by decide +kernel
  have e : one.dev.sealEpoch = 1 := by decide +kernel
  simp [Saved.genuine, saved0, h, e]

/-- YardEvents, a FINWAIT's save: any record overhead below 2^20 bytes fits the area. -/
theorem test_meets_finwait_save :
    (let s := running5 (.finwait 3 4 false)
     let k := task0 .running (some 0)
     areaUsed s k.ctx + 1024 * k.lrec.spad + 131072 * 8 + Config.freeNat k.lead % 2 ^ 20 ≤ areaSize s k.ctx) := by
  have h : Config.freeNat (task0 .running (some 0)).lead % 2 ^ 20 < 2 ^ 20 := Nat.mod_lt _ (by decide)
  have a : areaUsed (running5 (.finwait 3 4 false)) 0 = 0 := by decide +kernel
  have b : areaSize (running5 (.finwait 3 4 false)) 0 = 255 * 2 ^ 24 := by decide +kernel
  have c : (task0 .running (some 0)).lrec.spad = 0 := by decide +kernel
  have d : (task0 .running (some 0)).ctx = 0 := rfl
  simp only [a, b, c, d]
  omega

/-- ReturnsComplete: a return that is ready, one past its merges, and a scope that is over while its owner is suspended. -/
theorem test_meets_returns :
    (let k := task0 .running (some 0)
     let s := running5 .tret
     tfind s.tasks 5 = some k ∧ (s.core 0).spawner = none ∧ k.scopes = [] ∧ returnReady s 5 0 k = true ∧ k.imgs = []) ∧
    (let k := task0 .merging (some 0)
     let s := { running5 .tret with tasks := [(5, k)] }
     tfind s.tasks 5 = some k ∧ k.st = .merging ∧ k.ready ≤ s.cycle ∧ generating s 5 = false ∧ mustWait s 5 k = false ∧ k.seq = none ∧
     (s.core 0).run ≠ .fenced) ∧
    (let v := saved0 (some 3) 5 0
     let o := { task0 .suspended none with saved := some v }
     let s := { one with
       tasks := [(5, o), (6, task0 .done none)]
       scopes := [(3, scope0 [6])] }
     tfind s.scopes 3 = some (scope0 [6]) ∧ (scope0 [6]).live = true ∧ scopeDone s (scope0 [6]) = true ∧
     tfind s.tasks (scope0 [6]).owner = some o ∧ o.st = .suspended ∧ o.core = none ∧ o.saved = some v ∧ v.scope = some 3) := by
  decide +kernel

/-- ReturnsComplete, images: a DIRTY one of a writable box, and the join of one copied and of one folded. -/
def folded (merge fop fmt : Nat) : Img :=
  ⟨0, { vec fmt 8 with
    org := 64
    merge := merge
    fop := fop }, { vec fmt 8 with merge := merge }, [0], [], [(0, 7), (31, 9)], false⟩
def joining (g : Img) : State := { running5 .none with
  xreg := [(40, 0x70003)]
  scopes := [(3, scope0 [6])]
  tasks := [(5, task0 .running (some 0)), (6, { task0 .done none with imgs := [g] })] }
theorem test_meets_images :
    (let g := folded 2 0 0
     g.parent.wr = true ∧ g.child.tier = 1 ∧ 0 ≤ (g.child.org : Int) + g.child.first ∧
     g.child.org + g.child.first + g.child.imageLen ≤ 2 ^ 22 ∧ ({ task0 .merging (some 0) with imgs := [g] }).imgs[0]? = some g) ∧
    (∀ g ∈ [folded 1 0 0, folded 3 2 8],
      let s := joining g
      s.memOk = true ∧ scopeOf s (s.x s.me 40).toNat = some (3, scope0 [6]) ∧ some (scope0 [6]).owner = (s.core s.me).task ∧
      (scope0 [6]).tasks = [6] ∧ (tfind s.tasks 6).map (fun k => (k.st, k.imgs)) = some (.done, [g]) ∧ g.parent.wr = true ∧
      g.parent.tier = 1 ∧ g.parent.fmt ≠ 5 ∧ (g.parent.merge ≠ 3 ∨ (g.parent.merge = 3 ∧ g.parent.fop ≤ 2)) ∧
      0 ≤ (g.parent.org : Int) + g.parent.first ∧ g.parent.org + g.parent.first + g.parent.imageLen ≤ 2 ^ 22 ∧
      ∀ e ∈ g.out, e.1 < g.parent.imageLen) := by decide +kernel
theorem test_meets_joining_still (g : Img) : (joining g).still := by
  intro n
  cases n <;> exact ⟨rfl, rfl⟩

/-- FailuresAreHandled: a gang of two that runs, with a task that the second member called; a stopped one that may run again and
one that may not. -/
theorem test_meets_failures :
    (let a : Task := { task0 .running (some 0) with gang := 2 }
     let b : Task := { task0 .running (some 1) with member := 1 }
     let c : Task := { task0 .queued none with
       lead := 7
       caller := some 6 }
     let s : State := { placeable State.reset with
       tasks := [(5, a), (6, b), (7, c)]
       cores := [(0, { core0 with task := some 5 }), (1, { core0 with task := some 6 })] }
     tfind s.tasks 5 = some a ∧ a.st = .running ∧ s.tasks.filter (fun e => e.2.lead == a.lead) = [(5, a), (6, b)] ∧
     1 ∈ coresOf s 6 ∧ (s.core 1).run ≠ .fenced ∧ (7, c) ∈ s.tasks ∧ (6, b) ∈ s.tasks ∧ c.caller = some 6) ∧
    (let k := task0 .stopped none
     let r := { k with retries := 2 }
     let gang (k : Task) : State := { one with
       tasks := [(5, k), (6, { k with member := 1 })]
       scopes := [(3, scope0 [5, 6])] }
     risingFrom 0 (gang k).tasks = true ∧ tfind (gang k).tasks 5 = some k ∧ k.st = .stopped ∧
     (∀ e ∈ (gang k).tasks.filter (fun e => e.2.lead == k.lead), e.2.st = .stopped ∧ stopDrained (gang k) e.1 = true) ∧
     (∀ e ∈ (gang r).tasks, stopDrained (gang r) e.1 = true) ∧ k.scope = some 3 ∧ k.caller.isSome = true ∧ k.seq = none ∧
     mayRetry (gang k) [k, { k with member := 1 }] = true ∧ mayRetry (gang r) [r, { r with member := 1 }] = false ∧
     tfind (gang r).scopes 3 = some (scope0 [5, 6])) := by decide +kernel

/-- RegisterWritesGovern: time free and held, platform images, a placeable slot and one without an image, the register ranges. -/
theorem test_meets_register_writes :
    timeHeld one = false ∧ timeHeld (on { core0 with tt := some ⟨0, [], 0⟩ }) = true ∧ platBadImage 0x2F0000 = false ∧
    platBadImage 0x200000 = true ∧ (0x1#64).getLsbD 0 = true ∧ ((placeable one).ctx 0).accepted = true ∧ ((placeable one).ctx 1).accepted = false ∧
    4095 < 4096 ∧ 4095 ≠ wbits (one.sr 0 srTAGSEL) 0 12 ∧ 6 ≤ 0x14 ∧ 0x14 < 0x15 ∧ 0x14 ≠ 0xC ∧ 0x14 ≠ srROTB := by decide +kernel

/-- ContextsAndTheOutside, but for an accepted image: removals, windows, keys, a manifest of version 0, ports. -/
theorem test_meets_contexts :
    (let x : Win := ⟨0, 4096, false, 0, 0, false, false⟩
     let s := { withCtx { ctx0 with wins := [(63, x)] } one with dev := { Dev.start with xinv := [0, 3] } }
     s.dev.xinv = 0 :: [3] ∧ tfind (s.ctx 0).wins 1 = none ∧ tfind (s.ctx 0).wins 63 = some x ∧ x.sealed = false ∧ x.busy = false ∧
     4032 + 64 ≤ x.half ∧ 15 < 16 ∧ slotBusy s 15 = false ∧ (s.ctx 0).keyed = true ∧ manifestOk (fun o n => natOf (memGets s.hostm (0 + o) n)) = false ∧
     ((1 : Nat) = 1 ∨ (1 : Nat) = 2) ∧ 15 < 16 ∧ 255 < 256 ∧ 256 ≤ 256) := by decide +kernel

/-- An image of one bundle and one root box, .n32 at T3, its tag the free function of log 9 over the rest (R352, R353). -/
def imageBytes : List Byte :=
  Config.bytes 16 1 ++ bytesOf 4 1 ++ List.replicate 20 0 ++ bytesOf 8 1 ++ [3, 11, 1, 1] ++ List.replicate 12 0 ++ bytesOf 4 8 ++
    List.replicate 20 0 ++ bytesOf 4 1 ++ List.replicate 52 7
def imageTag : List Byte :=
  Config.gcmTag (Config.hkdf [] [0x69, 0x6D, 0x67]) (((imageBytes.drop 4).take 12).map BitVec.toNat) imageBytes
def hostImage : State := { withCtx { ctx0 with code := none, accepted := false } one with
  hostm := ((List.range 160).zip (imageBytes ++ imageTag)) }

/-- ContextsAndTheOutside, an accepted image. -/
theorem test_meets_image :
    (let m (o n : Nat) : Nat := natOf (memGets hostImage.hostm (0 + o) n)
     let len := 32 * m 16 4 + 32 * m 20 4 + 172 * m 24 4 + 4 * m 28 4 + 16 * m 32 4 + m 36 4
     let hd := 48 + 64 * m 40 2
     let entries := (List.range (m 40 2)).map (fun i => rootEntry (memGets hostImage.hostm (0 + 48 + 64 * i) 64))
     imageBytes.length = 144 ∧ manifestOk m = true ∧ entries.all (·.isSome) = true ∧ len = 32 ∧ hd = 112 ∧
     entries.all (fun e => e.all (fun b => b.tier == 3 && b.fmt == 11 && b.rank == 1 && b.rd && !b.wr)) = true ∧
     memGets hostImage.hostm 0 144 = imageBytes) := by decide +kernel
set_option maxRecDepth 20000 in
theorem test_meets_image_tag : Config.gcmTag (Config.hkdf (hostImage.ctx 0).key [0x69, 0x6D, 0x67])
      (((memGets hostImage.hostm (0 + 4) 12)).map BitVec.toNat) (memGets hostImage.hostm 0 144) = memGets hostImage.hostm (0 + 144) 16 := by
  rfl

/-- PowerAndTemperature: the ends of every range. -/
theorem test_meets_power :
    (1 ≤ 4 ∧ 4 ≤ 4 ∧ { one.dev with level := 1 }.level ≠ 0 ∧ one.dev.cap < 2001 ∧ 100 * 1899 < 95 * one.dev.cap ∧ 800 ≤ 800 ∧ 800 ≤ 2000 ∧
      800 % 50 = 0) ∧
    (let d : Dev := { one.dev with level := 1, deficits := [(0, 1)] }
     d.level ≠ 0 ∧ limitPassed d 192 = true ∧ d.peakTo < 192) ∧
    (95 ≤ 95 ∧ 105 ≤ 105 ∧ 100 ≤ 100 ∧ 110 ≤ 110 ∧ 163 < 164 ∧ 159 < 160) ∧ (1 ≤ 11 ∧ 11 ≤ 11 ∧ 11 ≠ 2 ∧ 7 < 8) := by decide +kernel

/-- ErrorsAndFences: no, one and two flipped bits in the last column, and injectors at the last places. -/
theorem test_meets_errors :
    (let at_ := 32767 * 65536 + 15 % 4 * 4096 + 15 / 4 % 4 * 16384 + 3 * 1024 + 15 * 64
     let bad (s : State) := ((upsetsAt s 1 (vkey 159 at_)).map (fun u => popcN 64 u.2.2)).foldl (· + ·) 0
     bad one = 0 ∧ bad { one with upsets := [(1, vkey 159 at_, 1)] } = 1 ∧ bad { one with upsets := [(1, vkey 159 at_, 3)] } = 2 ∧ 159 < 160 ∧
     7 < 8 ∧ 39 < 40 ∧ 3 < 4 ∧ 4 ≤ 7) ∧
    (let w : Word := BitVec.ofNat 64 (2 ^ 63 + 159 * 16 + 1)
     let s := withDsr [(0x141, BitVec.ofNat 64 (2 ^ 22 - 8)), (0x142, 1)] one
     w.getLsbD 63 = true ∧ wbits w 0 4 = 1 ∧ (s.dsr (0x142 + 4 * 0)).toNat ≠ 0 ∧ wbits w 4 8 < 160 ∧ (s.dsr (0x141 + 4 * 0)).toNat + 8 ≤ 2 ^ 22) ∧
    (let w : Word := BitVec.ofNat 64 (2 ^ 63 + 159 * 16 + 2)
     let s := withDsr [(0x14D, BitVec.ofNat 64 (2 ^ 31 - 8)), (0x14E, 1)] one
     w.getLsbD 63 = true ∧ wbits w 0 4 = 2 ∧ (s.dsr (0x142 + 4 * 3)).toNat ≠ 0 ∧ wbits w 4 8 < 160 ∧ (s.dsr (0x141 + 4 * 3)).toNat + 8 ≤ 2 ^ 31) ∧
    (5#64).getLsbD 63 = false := by decide +kernel

/-- ErrorsAndFences: an error found and one that is gone; the box's turn of scrubbing, another column, idle CK and none, with
scrubbing enabled and not, a channel that is off; a vault with a column of two flips; cores fenced and not. -/
theorem test_meets_scrubs :
    (let at_ := 5 * 65536 + 2 * 1024 + 64
     let s : State := { State.reset with
       cycle := 100000
       upsets := [(1, vkey 3 at_, 3)] }
     let off := withDsr [(0x13E, 0)] s
     let t : State := { s with vaults := [(3, { Vault.start with serve := some (7, 4, 4, 21) })] }
     upsetsAt s 1 (vkey 3 at_) ≠ [] ∧ upsetsAt one 1 (vkey 3 at_) = [] ∧ (1 : Nat) ≠ 512 ∧ (s.dsr 0x13E).getLsbD 0 = true ∧
     (off.dsr 0x13E).getLsbD 0 = false ∧ (scrubPlan s 3 at_).isSome = true ∧ (scrubPlan off 3 at_).isSome = true ∧
     ((scrubPlan t 3 at_).isNone = true ∧ channelOff t 3 2 = false) ∧
     (let u := withDsr [(0x134, 8)] s
      (scrubPlan u 3 at_).isNone = true ∧ channelOff u 3 2 = true) ∧
     s.memOk = true ∧ s.upsets = [(1, vkey 3 at_, 3)] ∧ vkey 3 at_ / 2 ^ 31 = 3 ∧ 1 < popcN 64 3 ∧
     (∀ e ∈ one.upsets, ¬(e.1 = 1 ∧ e.2.1 / 2 ^ 31 = 3))) ∧
    (let s := withDsr [(0x130, 1)] one
     coreFenced s 0 = true ∧ coreFenced s 1 = false ∧ (1#64).getLsbD 0 = true ∧ (1#64).getLsbD 1 = false) := by decide +kernel

/-- The first column of scrubbing is in its turn. -/
theorem test_meets_scrub_turn : scrubItem 3 2 (((State.reset.vault 3).chan 2).scrub) = .scrubRead 3 2 0 0 0 := rfl

/-- MailboxEntriesStartRoots: entry 0 with no boxes, of a good context and of a bad one. -/
def mailHost : List Host.Cell := (0, 1) :: (List.range 8).map (fun i => (400 + i, 255))
theorem test_meets_mailbox :
    (let s := { placeable one with hostm := mailHost }
     let w (o n : Nat) : Nat := natOf (memGets s.hostm (s.dev.mailbox + 256 * (0 % 255 + 1) + o) n)
     Memory.wf s.hostm = true ∧ 0 = s.dev.take ∧ 0 < natOf (memGets s.hostm s.dev.mailbox 8) ∧ w 8 2 < 16 ∧ (s.ctx (w 8 2)).accepted = true ∧
     recordOf s (w 8 2) (w 10 2) = some (recOf (recBits rec0)) ∧
     (∀ i, i < 8 → w (144 + i) 1 = 255 ∨ (rootBox s (w 8 2) (w (144 + i) 1)).isSome = true) ∧ w 0 8 = 0 ∧
     gangSize (recOf (recBits rec0)).gang = 1) ∧ (one.ctx 0).accepted = false := by decide +kernel
theorem test_meets_mailbox_extent (w : Nat) : 1 ≤ extentSize w := by
  unfold extentSize
  repeat' split
  all_goals decide

/-! ### Steps -/

/-- `add x5, x6, x7` in slot 1 and `act` of row 5, placed where the next step fetches them. -/
def addWord : Nat := reg 1 3 5 0 6 7 0
def addState : State := State.reset.withFetchWord 32 addWord
def actState : State := placeVault State.reset (cmd 1 0 5)

/-- The step after reset runs the word placed: its result is on its way, and issue moves on (R35, R51, R137). -/
theorem test_step_runs_add :
    (match step addState with
     | .next t => (t.core 0).pc == 1 && (t.core 0).pend.map (fun p => (p.vis, p.slot, p.wr)) == [(1, 1, [.x 5 0])]
     | _ => false) = true := by decide +kernel

/-- The step after reset runs a vault command: row 5 is open (R259). -/
theorem test_step_runs_act :
    (match step actState with
     | .next t => ((t.vault 0).bank 0).row == some 5
     | _ => false) = true := by decide +kernel

/-- A whole fault path: an S operation with a reserved opcode traps with cause 1, reason 1 in slot 1's byte (R55, R69, R365). -/
theorem test_step_illegal_traps :
    (match step (placeBundle State.reset false (oneSlot 1 (reg 1 0x1E 0 0 0 0 0))) with
     | .next t => (t.core 0).sup && (t.sr 0 srTREC0).toNat / 2 ^ 16 % 2 ^ 16 == 1 && (t.sr 0 (srTREC0 + 1)).toNat / 2 ^ 8 % 2 ^ 8 == 1
     | _ => false) = true := by decide +kernel

/-- StepRunsWhatIsNext. -/
theorem test_meets_step :
    (let s := addState
     let t := applyAll (tick 0 5 s) s
     let u := kernStart (shadowed 0 t) 0
     let b := bundleAt u 0 (u.core 0).pc
     s.dev.tripped = false ∧ nextUp s = some ⟨0, 5, .act 0⟩ ∧ (t.core 0).hold = .none ∧ (t.core 0).zl.all (fun l => l.left != 0) = true ∧
     (kernSkip t 0).isNone = true ∧
     1 < 8 ∧ (∀ j, j < 8 → j ≠ 1 → slotWord b j = 0) ∧ (match decodeSlot (slotWord b 1) none with
       | .ok i => i == .add 5 false (.reg 6) (.reg 7)
       | .error _ => false) = true ∧ illegalOf u 0 b = none ∧ holdsIssue u 0 (.add 5 false (.reg 6) (.reg 7)) = false ∧
     issueFault u 0 b = none ∧ (takeDeferred 0 t).isNone = true) := by decide +kernel

/-- StepRunsWhatIsNext: an event at the head of the agenda, a vault's command, a result that is due. -/
theorem test_meets_step_events :
    (let s := { State.reset with agenda := [⟨0, 3, .lockLoss⟩] }
     s.dev.tripped = false ∧ nextUp s = some ⟨0, 3, .event⟩ ∧ s.agenda = ⟨0, 3, .lockLoss⟩ :: []) ∧
    (let s := actState
     let t := applyAll (tick 0 3 s) s
     nextUp s = some ⟨0, 3, .command 0⟩ ∧ (nextCmd t 0).map (·.2) = some (some (cmd 1 0 5)) ∧ (match decodeVault (cmd 1 0 5) with
       | .ok i => i == .act 0 0 0 0 5
       | .error _ => false) = true) ∧
    (let s := on { core0 with pend := [pend0 [.x 1 2] none], nextAt := 20 }
     nextUp s = some ⟨10, 0, .write 0⟩) ∧
    (let s := placeVault State.reset (cmd 5 31 0)
     (match nextUp { s with agenda := [] } with
       | some ⟨_, _, .ahead 0⟩ => true
       | _ => false) = true) := by decide +kernel

/-- RoundTrip: an immediate at its lowest value, a register file's last numbers. -/
theorem test_meets_round_trip : (Instr.addi 63 (.reg 63) (-512)).wf = true ∧ (encode (.addi 63 (.reg 63) (-512))).isSome = true := by
  decide +kernel

/-- MemoryCanonicalKept, OrderKept and CheckedOperationsFault. -/
theorem test_meets_invariants :
    addState.memOk = true ∧ addState.agendaOk = true ∧ addState.regsOk = true ∧ (checkOf (.trap 7) one).isSome = true := by decide +kernel

end Sys2Proof.Tests
end

section
/-! Laws of the shared operations that the statements of this file rest on: tables, folds, what is left alone, events posted,
results taken. -/

namespace Sys2Proof.Machine

/-! ### Tables -/

theorem tfind_tdel_same {α : Type} (m : Tab α) (k : Nat) : tfind (tdel m k) k = none := by
  simp [tfind, tdel]

theorem le_of_mem_rising {α : Type} {m : Tab α} {lo : Nat} (h : risingFrom lo m = true) {e : Nat × α} (he : e ∈ m) :
    lo ≤ e.1 := by
  induction m generalizing lo with
  | nil => simp at he
  | cons y r ih =>
    simp only [risingFrom, Bool.and_eq_true, decide_eq_true_eq] at h
    rcases List.mem_cons.mp he with rfl | he
    · exact h.1
    · have := ih h.2 he
      omega

/-- In a table in rising order a key finds the entry listed under it. -/
theorem tfind_eq_some_iff {α : Type} {m : Tab α} {lo : Nat} (h : risingFrom lo m = true) (k : Nat) (v : α) :
    tfind m k = some v ↔ (k, v) ∈ m := by
  induction m generalizing lo with
  | nil => simp [tfind]
  | cons e r ih =>
    obtain ⟨a, w⟩ := e
    simp only [risingFrom, Bool.and_eq_true, decide_eq_true_eq] at h
    by_cases hak : a = k
    · subst hak
      have hnot : (a, v) ∉ r := fun hm => absurd (le_of_mem_rising h.2 hm) (Nat.not_succ_le_self a)
      simp [tfind, hnot, eq_comm]
    · have htail : tfind ((a, w) :: r) k = tfind r k := by simp [tfind, hak]
      rw [htail, ih h.2]
      simp [Ne.symm hak]

/-! ### Folds -/

/-- What holds after none of the steps of a fold over 0 to n − 1 and is handed on by each holds after all. -/
theorem foldl_range_invariant {α : Type} (P : Nat → α → Prop) (step : α → Nat → α) (a : α) (h0 : P 0 a)
    (hstep : ∀ i x, P i x → P (i + 1) (step x i)) (n : Nat) : P n ((List.range n).foldl step a) := by
  induction n with
  | zero => exact h0
  | succ n ih =>
    rw [List.range_succ, List.foldl_append]
    exact hstep n _ ih

/-! ### What is left alone -/

theorem sameRegs_of_files {s t : State} (hx : t.xreg = s.xreg) (hv : t.vreg = s.vreg) (hp : t.preg = s.preg)
    (hb : t.breg = s.breg) (hl : t.latch = s.latch) (ht : t.tile = s.tile) : SameRegs s t := by
  simp [SameRegs, State.x, State.v, State.p, State.b, State.l, State.t, hx, hv, hp, hb, hl, ht]

theorem sameSys_of_files {s t : State} (hs : t.sysreg = s.sysreg) (hd : t.dev = s.dev) : SameSys s t := by
  simp [SameSys, State.sr, hs, hd]

theorem sameMem_of_files {s t : State} (hs : t.spad = s.spad) (hd : t.dram = s.dram) (hh : t.hostm = s.hostm) :
    SameMem s t := by
  intro sp a
  cases sp <;> simp [State.mem, hs, hd, hh]

/-- The register files, the system registers with the device's record, and the memories: all that a program can see. -/
def State.visible (s : State) :=
  ((s.xreg, s.vreg, s.preg, s.breg, s.latch, s.tile), (s.sysreg, s.dev), s.spad, s.dram, s.hostm)

theorem sameAll_of_visible {s t : State} (h : t.visible = s.visible) : SameAll s t := by
  simp only [State.visible, Prod.mk.injEq] at h
  obtain ⟨⟨hx, hv, hp, hb, hl, ht⟩, ⟨hs, hd⟩, hspad, hdram, hhost⟩ := h
  exact ⟨sameRegs_of_files hx hv hp hb hl ht, sameSys_of_files hs hd, sameMem_of_files hspad hdram hhost⟩

/-! ### The agenda -/

theorem mem_postItem (i j : Item) (l : List Item) : j ∈ postItem i l ↔ j = i ∨ j ∈ l := by
  induction l with
  | nil => simp [postItem]
  | cons k r ih =>
    simp only [postItem]
    split
    · simp
    · simp only [List.mem_cons, ih]
      exact or_left_comm

/-- Posting events changes the agenda alone, and takes nothing off it. -/
theorem applyAll_posts {us : List Upd} (h : ∀ u ∈ us, ∃ i, u = .post i) (s : State) :
    applyAll us s = { s with agenda := (applyAll us s).agenda } ∧ ∀ e ∈ s.agenda, e ∈ (applyAll us s).agenda := by
  induction us generalizing s with
  | nil => exact ⟨rfl, fun _ he => he⟩
  | cons u r ih =>
    obtain ⟨i, rfl⟩ := h _ List.mem_cons_self
    obtain ⟨heq, hkeep⟩ := ih (fun u hu => h u (List.mem_cons_of_mem _ hu)) ((Upd.post i).apply s)
    rw [applyAll_cons]
    exact ⟨heq, fun e he => hkeep e ((mem_postItem i e s.agenda).mpr (.inr he))⟩

/-! ### Flipped bits that a read meets (R380) -/

theorem findUpsets_posts (l : List (Nat × Nat × Nat)) (s : State) : ∀ u ∈ findUpsets l s, ∃ i, u = .post i := by
  intro u hu
  simp only [findUpsets, List.mem_map] at hu
  obtain ⟨x, -, rfl⟩ := hu
  split
  · exact ⟨_, rfl⟩
  · split <;> exact ⟨_, rfl⟩

/-- A search for flipped bits that is made only where some are flipped finds errors and does nothing else. -/
theorem findsErrors_search (l : List (Nat × Nat × Nat)) {s u : State} (h : u.upsets = s.upsets) :
    FindsErrors u (applyAll (if s.upsets.isEmpty then [] else findUpsets l s) u) := by
  split
  · exact ⟨rfl, fun _ he => he, fun _ => rfl⟩
  · rename_i hne
    obtain ⟨heq, hkeep⟩ := applyAll_posts (findUpsets_posts l s) u
    exact ⟨heq, hkeep, fun hu => absurd (by simp [← h, hu]) hne⟩

theorem findsErrors_meetHits (bx : Box) (hs : List Hit) {s u : State} (h : u.upsets = s.upsets) :
    FindsErrors u (applyAll (meetHits bx hs s) u) := findsErrors_search _ h

theorem findsErrors_meetRecvop (op rt f : Nat) (lanes keys olds r : List Nat) {s u : State} (h : u.upsets = s.upsets) :
    FindsErrors u (applyAll (meetRecvop (.recvop op rt f lanes keys olds r) s) u) := findsErrors_search _ h

/-! ### Operations that pass their check -/

/-- An operation that finds no fault does what it is for. -/
theorem leaves_of_check {i : Instr} {a : Act} {s : State} {P : State → Prop}
    (hexec : exec i s = done (guarded (checkOf i) a) s) (hchk : checkOf i s = none) (h : P (applyAll (a s) s)) :
    Leaves i s P :=
  ⟨applyAll (a s) s, by rw [hexec, done_eq, guarded_none hchk], h⟩

/-- A task that escapes is marked, and nothing else changes (R375). -/
theorem applyAll_escapeU (k : Option Nat) (s : State) : ∃ l, applyAll (escapeU k) s = { s with tasks := l } := by
  cases k with
  | none => exact ⟨_, rfl⟩
  | some k => exact ⟨_, rfl⟩

/-! ### Results -/

theorem core_pushPend_pend (n : Nat) (p : Pend) (s : State) :
    (((pushPend n p).apply s).core n).pend = (s.core n).pend ++ [p] :=
  congrArg Core.pend (tget_tput_same _ _ _ _)

/-- The one result due of a core is the one that is taken. -/
theorem dueNow_single {s : State} {m : Nat} {q : Pend} (hp : (s.core m).pend = [q]) (hv : q.vis ≤ s.cycle) :
    dueNow s m = [q] := by
  simp [dueNow, hp, hv]

/-- A core's record once results l, all that are due, have been taken from it. -/
def takeDue (s : State) (l : List Pend) (c : Core) : Core := { c with
  pend := c.pend.filter (fun p => s.cycle < p.vis)
  latAt := (l.filter (fun p => p.lat.isSome && p.flt.isNone)).foldl (fun a p => tput a p.slot (s.cycle, p.ord)) c.latAt }

/-- One result due: it is taken, and performed. -/
theorem exec_resultWriteback_single {s : State} {m : Nat} {q : Pend} (hdue : dueNow s m = [q]) :
    exec (.resultWriteback m) s = .next (applyAll (performPend m q ((Upd.core m (takeDue s [q])).apply s))
      ((Upd.core m (takeDue s [q])).apply s)) := by
  show done (resultWritebackAct m) s = _
  simp only [done_eq, resultWritebackAct, hdue]
  show Host.Outcome.next (applyAll (seqA [pureA [.core m (takeDue s [q])], seqA [performPend m q]] s) s) = _
  simp only [applyAll_seqA_cons, applyAll_seqA_nil, pureA_eq, applyAll_cons, applyAll_nil]

end Sys2Proof.Machine
end

section
/-! The communication slot and SYNCD (R15, R306, R313 to R331): what each operation does where its check finds no fault, and the
combining of a RECVOP as a fold over its lanes. -/

namespace Sys2Proof.Machine

/-! ### SEND (R15, R232, R315) -/

/-- The packet of a SEND: the bytes of the elements its lanes name, and R315's way or the one R15 makes of it. -/
def sendPkt (s : State) (ms peer : Nat) (bx : Box) (xc at_ way held : Nat) : Pkt where
  kind := 0
  src := s.me
  dst := peerOf s ms peer
  port := 0
  issue := s.cycle
  arrive := at_
  mesh := ms == 1
  seq := 0
  num := held
  op := 0
  addr := way
  data := (laneHits s bx xc 2).flatMap (fun e => bytesOf bx.esize (hitVal s bx e.2))
  tag := none
  tries := 0
  boxes := []
  prod := 0

/-- A SEND that no fence holds: its packet leaves, to arrive at the cycle of R315 and R15. -/
theorem sendAct_free {s : State} {ms peer b xc : Nat} {bx : Box} (hb : s.b s.me b = some bx) (hf : forkBlocked s s.me = false) :
    let t := applyAll (sendAct ms peer b xc s) s
    let a := sendArrival s ms (peerOf s ms peer)
    SameAll s t ∧ tfind t.pkts s.nid = some (sendPkt s ms peer bx xc a.1 (a.1 - s.cycle) (if a.2 then 1 else 0)) ∧
      ⟨a.1, 7, .exchangeArrival s.nid⟩ ∈ t.agenda := by
  obtain ⟨hmet, -, -⟩ := findsErrors_meetHits bx ((xLanes s bx xc).map (·.2)) (s := s) (u := s) rfl
  simp only [sendAct, hb, hf, applyAll_append, Bool.false_eq_true, if_false]
  rw [hmet]
  refine ⟨sameAll_of_visible ?_, ?_, ?_⟩
  · split <;> rfl
  · split <;> exact tfind_tput_same _ _ _
  · split <;> exact (mem_postItem _ _ _).mpr (.inl rfl)

/-- A SEND behind an unsatisfied fence: its bytes are read, and its packet waits at the core. -/
theorem sendAct_held {s : State} {ms peer b xc : Nat} {bx : Box} (hb : s.b s.me b = some bx) (hf : forkBlocked s s.me = true) :
    let t := applyAll (sendAct ms peer b xc s) s
    SameAll s t ∧ tfind t.pkts s.nid = some (sendPkt s ms peer bx xc 0 (sendWay s ms (peerOf s ms peer)) 0) ∧
      (s.upsets = [] → t.agenda = s.agenda) ∧ s.nid ∈ (t.core s.me).heldPkt := by
  have hmet := findsErrors_meetHits bx ((xLanes s bx xc).map (·.2)) (s := s)
    (u := applyAll [.newPkt (sendPkt s ms peer bx xc 0 (sendWay s ms (peerOf s ms peer)) 0),
      .core s.me (fun c => { c with heldPkt := c.heldPkt ++ [s.nid] })] s) rfl
  have heq : applyAll (sendAct ms peer b xc s) s = applyAll (meetHits bx ((xLanes s bx xc).map (·.2)) s)
      (applyAll [.newPkt (sendPkt s ms peer bx xc 0 (sendWay s ms (peerOf s ms peer)) 0),
        .core s.me (fun c => { c with heldPkt := c.heldPkt ++ [s.nid] })] s) := by
    simp only [sendAct, hb, hf, applyAll_append, if_true]
    rfl
  simp only [heq]
  obtain ⟨hrest, -, hnone⟩ := hmet
  refine ⟨sameAll_of_visible ?_, ?_, fun hu => (congrArg State.agenda (hnone hu)).trans rfl, ?_⟩
  · rw [hrest]; rfl
  · rw [hrest]; exact tfind_tput_same _ _ _
  · rw [hrest]; simp [State.core]

/-- R315's time of the way, and what R15 makes of it: never earlier, the same where no packet under way asks for a link of
its own, later where one asks in the same cycle. -/
theorem sendArrival_bounds (s : State) (ms p : Nat) :
    let least := if ms = 0 then s.cycle + 6 else s.cycle + 8 + 2 * hops (coreStn s.me) (coreStn p)
    let a := (sendArrival s ms p).1
    least ≤ a ∧ (ms = 0 ∨ (∀ e ∈ s.pkts, meets s s.me p e.2 = (false, false)) → a = least) ∧
      (ms ≠ 0 → (∃ e ∈ s.pkts, (meets s s.me p e.2).2 = true) → least < a) := by
  by_cases hms : ms = 0
  · simp [sendArrival, sendWay, hms]
  · have hway : sendWay s ms p = 8 + 2 * hops (coreStn s.me) (coreStn p) := by simp [sendWay, hms]
    have harr : (sendArrival s ms p).1 = s.cycle + sendWay s ms p +
        (if (s.pkts.map (fun e => meets s s.me p e.2)).any (·.2) then 1 + Config.freeNat s.fresh
          else if (s.pkts.map (fun e => meets s s.me p e.2)).any (·.1) then Config.freeNat s.fresh else 0) := by
      simp only [sendArrival, beq_iff_eq, hms, if_false]
      split
      · exact Nat.add_assoc _ _ _
      · split <;> rfl
    simp only [harr, hway, hms, if_false, false_or]
    refine ⟨by omega, fun hnone => ?_, fun _ hmeet => ?_⟩
    · have hno : ∀ g : Bool × Bool → Bool, g (false, false) = false →
          (s.pkts.map (fun e => meets s s.me p e.2)).any g = false := by
        intro g hg
        simp only [List.any_map, List.any_eq_false]
        intro e he
        simp [hnone e he, hg]
      rw [hno _ rfl, hno _ rfl]
      exact (Nat.add_assoc _ _ _).symm
    · obtain ⟨e, he, hmet⟩ := hmeet
      have hany : (s.pkts.map (fun e => meets s s.me p e.2)).any (·.2) = true := by
        simp only [List.any_map, List.any_eq_true]
        exact ⟨e, he, hmet⟩
      simp only [hany, if_true]
      omega

/-! ### RECV and RECVOP issued (R315, R317) -/

/-- What a receive puts ahead of its core's later accesses is in that core's record alone (R317). -/
theorem applyAll_afterU (s u : State) (pk : Pkt) :
    ∃ l, applyAll (afterU s pk) u = { u with cores := l } ∧
      ∀ n, (tget Core.start l n).pend = (u.core n).pend := by
  simp only [afterU]
  split
  · exact ⟨_, rfl, fun _ => rfl⟩
  · refine ⟨_, rfl, fun n => ?_⟩
    by_cases hn : n = s.me
    · subst hn
      rw [tget_tput_same]
    · rw [tget_tput_other _ _ _ _ _ hn]
      rfl

/-- A receive that takes packet k and puts a result on its way. -/
theorem receive_spec (s : State) (k : Nat) (pk : Pkt) (q : Pend) :
    let t := applyAll (.delPkt k :: pushPend s.me q :: afterU s pk) s
    SameAll s t ∧ tfind t.pkts k = none ∧ (t.core s.me).pend = (s.core s.me).pend ++ [q] := by
  obtain ⟨l, heq, hpend⟩ := applyAll_afterU s (applyAll [.delPkt k, pushPend s.me q] s) pk
  have ht : applyAll (.delPkt k :: pushPend s.me q :: afterU s pk) s =
      { applyAll [.delPkt k, pushPend s.me q] s with cores := l } := heq
  simp only [ht]
  exact ⟨sameAll_of_visible rfl, tfind_tdel_same s.pkts k, (hpend s.me).trans (core_pushPend_pend _ _ _)⟩

/-- A result of the slot now issuing that raises no flag. -/
theorem plainResult_mkPend (s : State) (lat : Nat) (wr : List Wr) (lv : Option VWord) (again : Again) (sf : Bool) :
    PlainResult s lat wr lv (mkPend s lat wr lv 0 none again sf) :=
  ⟨rfl, rfl, rfl, rfl, rfl, rfl⟩

/-! ### Timetables and queued operations (R320, R325, R330) -/

/-- TTARM: the counts are cleared, the entries stand armed, and nothing a program can see changes (R320). -/
theorem ttarmAct_spec (xb tt : Nat) (s : State) :
    let t := applyAll (ttarmAct xb tt s) s
    SameAll s t ∧ (t.core s.me).ttDone = 0 ∧ (t.core s.me).ttLate = 0 ∧ (t.core s.me).ttMiss = 0 ∧
      (t.core s.me).ttStray = 0 ∧ (t.core s.me).tt = some ⟨(s.x s.me xb).toNat,
        (ttWords s (s.core s.me).ctx tt).map ttEntry, issuePos s.cycle s.slot⟩ := by
  obtain ⟨l, hesc⟩ := applyAll_escapeU (s.core s.me).task s
  simp only [ttarmAct, applyAll_append, hesc]
  generalize hus : (List.range _).flatMap _ = us
  have hposts : ∀ u ∈ us, ∃ i, u = Upd.post i := by
    intro u hu
    rw [← hus, List.mem_flatMap] at hu
    obtain ⟨j, -, hj⟩ := hu
    split at hj
    · simp at hj
    · split at hj
      · simp only [List.mem_cons, List.not_mem_nil, or_false] at hj
        rcases hj with rfl | rfl <;> exact ⟨_, rfl⟩
      · exact ⟨_, List.mem_singleton.mp hj⟩
  rw [(applyAll_posts hposts _).1]
  exact ⟨sameAll_of_visible rfl, by simp [State.core]⟩

/-- LSEND: one more is under way, as an operation on its three boxes (R325). -/
theorem lsendAct_spec {s : State} {bd bs bc : Nat} {d a c : Box} (hd : s.b s.me bd = some d) (hs : s.b s.me bs = some a)
    (hc : s.b s.me bc = some c) :
    let t := applyAll (lsendAct bd bs bc s) s
    SameAll s t ∧ (t.core s.me).lsOut = (s.core s.me).lsOut + 1 ∧
      ∃ o, tfind t.ops s.nid = some o ∧ o.kind = .lsend ∧ o.boxes = [d, a, c] := by
  obtain ⟨l, hesc⟩ := applyAll_escapeU (s.core s.me).task s
  simp only [lsendAct, hd, hs, hc, applyAll_append, hesc]
  split <;> exact ⟨sameAll_of_visible rfl, by simp [State.core, postU], _, tfind_tput_same _ _ _, rfl, rfl⟩

/-- COLL: one more is queued and counted at its scope, as an operation that waits; only RBSEQ may change (R330). -/
theorem collAct_spec {s : State} {bd bs bq : Nat} {b a q : Box} (sc bin rm : Nat) (hb : s.b s.me bd = some b)
    (ha : s.b s.me bs = some a) (hq : s.b s.me bq = some q) :
    let t := applyAll (collAct bd bs bq sc bin rm s) s
    SameMem s t ∧ SameRegs s t ∧ (t.core s.me).collQ = (s.core s.me).collQ + 1 ∧
      tget 0 (t.core s.me).collSeq sc = tget 0 (s.core s.me).collSeq sc + 1 ∧
      ∃ o, tfind t.ops s.nid = some o ∧ o.kind = .coll ∧ o.boxes.take 2 = [b, a] ∧ o.st = .waiting := by
  have hesc : ∃ l, applyAll (if scopeLevel sc < 3 then [] else escapeU (s.core s.me).task) s = { s with tasks := l } := by
    split
    · exact ⟨_, rfl⟩
    · exact applyAll_escapeU _ s
  obtain ⟨l, hesc⟩ := hesc
  simp only [collAct, hb, ha, hq, applyAll_append, hesc]
  split <;> exact ⟨sameMem_of_files rfl rfl rfl, sameRegs_of_files rfl rfl rfl rfl rfl rfl, by simp [State.core],
    by simp [State.core], _, tfind_tput_same _ _ _, rfl, rfl, rfl⟩

/-! ### RECVOP's combining (R202, R218, R315) -/

/-- One lane of a RECVOP: its element u combined with the lane's value v, by a routine for operation 3 (R315). -/
def laneComb (op fmt enb : Nat) (rtn : List Nat) (u v : Nat) : Nat :=
  if op = 3 then (rtApply ⟨false, enb, false⟩ rtn [u, v]).q.getD 0 0 else (combine op fmt u v).1

/-- Does that combination fault: a routine that stops, or an enabled flag (R122, R202)? -/
def combFaults (op fmt enb : Nat) (rtn : List Nat) (u v : Nat) : Prop :=
  if op = 3 then (rtApply ⟨false, enb, false⟩ rtn [u, v]).why ≠ 0 else (combine op fmt u v).2 &&& enb ≠ 0

section
variable (comb : Nat → Nat → Nat) (faults : Nat → Nat → Prop) (cell val old : Nat → Nat)

/-- The element at key k after the first n lanes: the values of its lanes combined in order (R315). -/
def elemAfter (n k : Nat) : Nat := ((List.range n).filter (fun j => cell j = k)).foldl (fun u j => comb u (val j)) (old k)

theorem elemAfter_succ (n k : Nat) : elemAfter comb cell val old (n + 1) k =
    if cell n = k then comb (elemAfter comb cell val old n k) (val n) else elemAfter comb cell val old n k := by
  simp only [elemAfter, List.range_succ, List.filter_append, List.foldl_append, List.filter_cons, List.filter_nil,
    decide_eq_true_eq]
  split <;> rfl

/-- An element no lane has named yet is as it was. -/
theorem elemAfter_untouched {n k : Nat} (h : ∀ i, i < n → cell i ≠ k) : elemAfter comb cell val old n k = old k := by
  induction n with
  | zero => rfl
  | succ n ih => rw [elemAfter_succ, if_neg (h n (by omega)), ih (fun i hi => h i (by omega))]

/-- The last lane of an element leaves it as it stays. -/
theorem elemAfter_last {n i : Nat} (hi : i < n) (h : ∀ j, i < j → j < n → cell j ≠ cell i) :
    elemAfter comb cell val old n (cell i) = comb (elemAfter comb cell val old i (cell i)) (val i) := by
  induction n with
  | zero => omega
  | succ n ih =>
    rw [elemAfter_succ]
    by_cases hin : i = n
    · rw [hin, if_pos rfl]
    · rw [if_neg (h n (by omega) (by omega)), ih (by omega) (fun j hj hjn => h j hj (by omega))]

/-- Lane i names an element, and its combination faults. -/
def laneFaults (i : Nat) : Prop := cell i ≠ 0 ∧ faults (elemAfter comb cell val old i (cell i)) (val i)

/-- The table of elements after n lanes: those named, each with its lanes combined. -/
def HoldsElems (n : Nat) (cells : Tab Nat) : Prop := risingFrom 0 cells = true ∧ ∀ k v, tfind cells k = some v ↔
  k ≠ 0 ∧ (∃ i, i < n ∧ cell i = k) ∧ v = elemAfter comb cell val old n k

/-- Has a lane below n faulted? -/
def faultBelow (n : Nat) : Prop := ∃ i, i < n ∧ laneFaults comb faults cell val old i

theorem faultBelow_succ (n : Nat) : faultBelow comb faults cell val old (n + 1) ↔
    faultBelow comb faults cell val old n ∨ laneFaults comb faults cell val old n := by
  constructor
  · rintro ⟨i, hi, h⟩
    by_cases hin : i = n
    · exact .inr (hin ▸ h)
    · exact .inl ⟨i, by omega, h⟩
  · rintro (⟨i, hi, h⟩ | h)
    · exact ⟨i, by omega, h⟩
    · exact ⟨n, by omega, h⟩

variable {comb faults cell val old}

/-- A lane adds only its own key to those named. -/
theorem namedBelow_succ_of_ne {n k : Nat} (h : cell n ≠ k) : (∃ i, i < n + 1 ∧ cell i = k) ↔ ∃ i, i < n ∧ cell i = k := by
  refine ⟨fun ⟨i, hi, he⟩ => ⟨i, ?_, he⟩, fun ⟨i, hi, he⟩ => ⟨i, by omega, he⟩⟩
  have : i ≠ n := fun e => h (e ▸ he)
  omega

/-- A lane that ZERO drops names no element. -/
theorem HoldsElems.skip {n : Nat} {cells : Tab Nat} (h : HoldsElems comb cell val old n cells) (hn : cell n = 0) :
    HoldsElems comb cell val old (n + 1) cells := by
  refine ⟨h.1, fun k v => (h.2 k v).trans (and_congr_right fun hk => ?_)⟩
  have hne : cell n ≠ k := fun e => hk (e.symm.trans hn)
  rw [elemAfter_succ, if_neg hne]
  exact and_congr_left fun _ => (namedBelow_succ_of_ne hne).symm

/-- What a lane reads of its element: what the lanes before it left there. -/
theorem HoldsElems.read {n : Nat} {cells : Tab Nat} (h : HoldsElems comb cell val old n cells) (hn : cell n ≠ 0) :
    (tfind cells (cell n)).getD (old (cell n)) = elemAfter comb cell val old n (cell n) := by
  by_cases hex : ∃ i, i < n ∧ cell i = cell n
  · rw [(h.2 _ _).mpr ⟨hn, hex, rfl⟩]
    rfl
  · have hnone : tfind cells (cell n) = none :=
      Option.eq_none_iff_forall_ne_some.mpr fun v hv => hex ((h.2 _ v).mp hv).2.1
    rw [hnone, elemAfter_untouched]
    · rfl
    · exact fun i hi he => hex ⟨i, hi, he⟩

/-- A lane that is combined leaves its element so. -/
theorem HoldsElems.put {n : Nat} {cells : Tab Nat} (h : HoldsElems comb cell val old n cells) (hn : cell n ≠ 0) :
    HoldsElems comb cell val old (n + 1)
      (tput cells (cell n) (comb (elemAfter comb cell val old n (cell n)) (val n))) := by
  refine ⟨tput_rising _ _ (Nat.zero_le _) h.1, fun k v => ?_⟩
  by_cases hk : k = cell n
  · subst hk
    rw [tfind_tput_same, elemAfter_succ, if_pos rfl, Option.some.injEq, eq_comm]
    exact ⟨fun e => ⟨hn, ⟨n, by omega, rfl⟩, e⟩, fun ⟨_, _, e⟩ => e⟩
  · have hne : cell n ≠ k := fun e => hk e.symm
    rw [tfind_tput_other _ _ _ _ hk, h.2, elemAfter_succ, if_neg hne]
    exact and_congr_right fun _ => and_congr_left fun _ => (namedBelow_succ_of_ne hne).symm
end

/-- How the combining of a RECVOP stands after n lanes: each element named holds its lanes' combination, unless a routine has
stopped; the stop, or the lane of an arithmetic fault, is there as soon as a lane faults. -/
structure CombinedAfter (op : Nat) (comb : Nat → Nat → Nat) (faults : Nat → Nat → Prop) (cell val old : Nat → Nat) (n : Nat)
    (a : Combined) : Prop where
  elems : a.stop = none → HoldsElems comb cell val old n a.cells
  stop : a.stop.isSome = true ↔ op = 3 ∧ faultBelow comb faults cell val old n
  lane : a.lane.isSome = true ↔ op ≠ 3 ∧ faultBelow comb faults cell val old n

section
variable {op : Nat} {comb : Nat → Nat → Nat} {faults : Nat → Nat → Prop} {cell val old : Nat → Nat} {n : Nat}
  {a a' : Combined}

/-- One lane more: what it adds to the stop and to the lane at fault. -/
theorem CombinedAfter.next (h : CombinedAfter op comb faults cell val old n a)
    (elems : a'.stop = none → HoldsElems comb cell val old (n + 1) a'.cells)
    (stop : a'.stop.isSome = true ↔ a.stop.isSome = true ∨ op = 3 ∧ laneFaults comb faults cell val old n)
    (lane : a'.lane.isSome = true ↔ a.lane.isSome = true ∨ op ≠ 3 ∧ laneFaults comb faults cell val old n) :
    CombinedAfter op comb faults cell val old (n + 1) a' := by
  refine ⟨elems, ?_, ?_⟩
  · rw [stop, h.stop, faultBelow_succ, and_or_left]
  · rw [lane, h.lane, faultBelow_succ, and_or_left]

/-- Nothing is done for a lane that ZERO drops, nor once a routine has stopped. -/
theorem CombinedAfter.skip (h : CombinedAfter op comb faults cell val old n a) (hskip : cell n = 0 ∨ a.stop.isSome = true) :
    CombinedAfter op comb faults cell val old (n + 1) a := by
  rcases hskip with hzero | hstop
  · have hno : ¬ laneFaults comb faults cell val old n := fun hf => hf.1 hzero
    exact h.next (fun hs => (h.elems hs).skip hzero) (by simp [hno]) (by simp [hno])
  · obtain ⟨hop, -⟩ := h.stop.mp hstop
    exact h.next (fun hs => absurd hs (Option.ne_none_iff_isSome.mpr hstop)) (by simp [hstop]) (by simp [hop])
end

/-- The combining of a RECVOP after all its lanes (R315): `olds` are the elements as they were. -/
theorem combinedAfter_recvopCombine (s : State) (op rt fmt enb : Nat) (lanes keys olds r : List Nat) (old : Nat → Nat)
    (holds : ∀ i, keys.getD i 0 ≠ 0 → olds.getD i 0 = old (keys.getD i 0)) :
    CombinedAfter op (laneComb op fmt enb r) (combFaults op fmt enb r) (fun i => keys.getD i 0) (fun i => lanes.getD i 0) old
      lanes.length (recvopCombine s op rt fmt enb lanes keys olds r) := by
  unfold recvopCombine
  refine foldl_range_invariant (CombinedAfter op (laneComb op fmt enb r) (combFaults op fmt enb r) (fun i => keys.getD i 0)
    (fun i => lanes.getD i 0) old) _ _ ?_ ?_ _
  · refine ⟨fun _ => ⟨rfl, fun k v => ?_⟩, ?_, ?_⟩ <;> simp [tfind, faultBelow]
  · intro n a h
    by_cases hrun : (keys.getD n 0 == 0 || a.stop.isSome) = true
    · simp only [hrun, if_true]
      exact h.skip (by simpa using hrun)
    · simp only [hrun, Bool.false_eq_true, if_false]
      simp only [Bool.or_eq_true, beq_iff_eq, not_or, Bool.not_eq_true, Option.isSome_eq_false_iff,
        Option.isNone_iff_eq_none] at hrun
      obtain ⟨hcell, hstop⟩ := hrun
      have hread := (h.elems hstop).read hcell
      have hput := (h.elems hstop).put hcell
      have hfaults : laneFaults (laneComb op fmt enb r) (combFaults op fmt enb r) (fun i => keys.getD i 0)
          (fun i => lanes.getD i 0) old n ↔ combFaults op fmt enb r (elemAfter (laneComb op fmt enb r)
            (fun i => keys.getD i 0) (fun i => lanes.getD i 0) old n (keys.getD n 0)) (lanes.getD n 0) :=
        and_iff_right hcell
      rw [holds n hcell, hread]
      generalize elemAfter (laneComb op fmt enb r) (fun i => keys.getD i 0) (fun i => lanes.getD i 0) old n
        (keys.getD n 0) = u at hput hfaults ⊢
      by_cases hop : op = 3
      · subst hop
        simp only [combFaults, if_true, beq_self_eq_true] at hfaults ⊢
        split
        · rename_i hwhy
          refine h.next (fun hs => absurd hs (by simp)) ?_ (by simp)
          rw [hfaults]
          exact ⟨fun _ => .inr ⟨rfl, by simpa using hwhy⟩, fun _ => rfl⟩
        · rename_i hwhy
          refine h.next (fun _ => ?_) ?_ (by simp)
          · simpa [laneComb] using hput
          · rw [hfaults]
            exact (or_iff_left fun hf => hwhy (by simpa using hf.2)).symm
      · simp only [hop, combFaults, if_false, beq_iff_eq] at hfaults ⊢
        refine h.next (fun _ => ?_) (by simp [hop]) ?_
        · simpa [laneComb, hop] using hput
        · rw [hfaults]
          cases a.lane <;> simp [hop]

/-- Of the lanes of an element one is the last. -/
theorem exists_last_lane {cell : Nat → Nat} {n k : Nat} (h : ∃ i, i < n ∧ cell i = k) :
    ∃ i, i < n ∧ cell i = k ∧ ∀ j, i < j → j < n → cell j ≠ cell i := by
  induction n with
  | zero =>
    obtain ⟨i, hi, -⟩ := h
    omega
  | succ n ih =>
    by_cases hn : cell n = k
    · exact ⟨n, by omega, hn, fun j _ _ => by omega⟩
    · obtain ⟨i, hi, hk⟩ := h
      have hin : i ≠ n := fun e => hn (e ▸ hk)
      obtain ⟨l, hl, hlk, hlast⟩ := ih ⟨i, by omega, hk⟩
      refine ⟨l, by omega, hlk, fun j hj hjn => ?_⟩
      by_cases hjn' : j = n
      · rw [hjn', hlk]
        exact hn
      · exact hlast j hj (by omega)

/-- An element held is the combination its last lane made. -/
theorem HoldsElems.mem_iff {comb : Nat → Nat → Nat} {cell val old : Nat → Nat} {n : Nat} {cells : Tab Nat}
    (h : HoldsElems comb cell val old n cells) (e : Nat × Nat) : e ∈ cells ↔
      ∃ i, i < n ∧ cell i ≠ 0 ∧ (∀ j, i < j → j < n → cell j ≠ cell i) ∧
        e = (cell i, comb (elemAfter comb cell val old i (cell i)) (val i)) := by
  obtain ⟨k, v⟩ := e
  rw [← tfind_eq_some_iff h.1, h.2]
  constructor
  · rintro ⟨hk, hex, rfl⟩
    obtain ⟨i, hi, rfl, hlast⟩ := exists_last_lane hex
    exact ⟨i, hi, hk, hlast, by rw [elemAfter_last _ _ _ _ hi hlast]⟩
  · rintro ⟨i, hi, hk, hlast, he⟩
    obtain ⟨rfl, rfl⟩ := Prod.mk.injEq .. ▸ he
    exact ⟨hk, ⟨i, hi, rfl⟩, (elemAfter_last _ _ _ _ hi hlast).symm⟩

/-- The element at a key, key plus one, as the turntable reads it (R218). -/
def elemNow (s : State) (f k : Nat) : Nat := s.turnNat .spad (k - 1) (tySize f / 8)

theorem recvopOlds_getD (s : State) (f : Nat) (keys : List Nat) (i : Nat) (h : keys.getD i 0 ≠ 0) :
    (recvopOlds s f keys []).getD i 0 = elemNow s f (keys.getD i 0) := by
  simp only [List.getD_eq_getElem?_getD] at h ⊢
  simp only [recvopOlds, List.isEmpty_nil, if_true, List.getElem?_map]
  cases hk : keys[i]? with
  | none => exact absurd (by rw [hk]; rfl) h
  | some k =>
    have hne : k ≠ 0 := by simpa only [hk, Option.getD_some] using h
    exact if_neg (mt beq_iff_eq.mp hne)

/-- A RECVOP's second result: where no lane faults, the elements' writes, to be seen by read-modify-writes from now on; where
one does, its fault in their stead (R202, R218, R315). -/
theorem recvopSecond_spec (s : State) {p : Pend} {op rt f enb vis : Nat} {lanes keys r : List Nat}
    (hp : p.again = .recvop op rt f lanes keys [] r) :
    let z := recvopSecond s p enb vis
    let cell := fun i => keys.getD i 0
    let val := fun i => lanes.getD i 0
    let comb := laneComb op f enb r
    let faulty := laneFaults comb (combFaults op f enb r) cell val (elemNow s f)
    z.vis = vis ∧
      ((∀ i, i < lanes.length → ¬ faulty i) → z.flt = none ∧ z.again = .rmw ∧
        ∀ w, w ∈ z.wr ↔ ∃ i, i < lanes.length ∧ cell i ≠ 0 ∧ (∀ j, i < j → j < lanes.length → cell j ≠ cell i) ∧
          w = .mem .spad (cell i - 1)
            (bytesOf (tySize f / 8) (comb (elemAfter comb cell val (elemNow s f) i (cell i)) (val i)))) ∧
      ((∃ i, i < lanes.length ∧ faulty i) → z.wr = [] ∧ ∃ e, z.flt = some e ∧ e.cause = if op = 3 then 8 else 5) := by
  intro z cell val comb faulty
  obtain ⟨helems, hstop, hlane⟩ := combinedAfter_recvopCombine s op rt f enb lanes keys (recvopOlds s f keys []) r
    (elemNow s f) (recvopOlds_getD s f keys)
  have hz : z = recvopSecond s p enb vis := rfl
  simp only [recvopSecond, hp] at hz
  generalize recvopCombine s op rt f enb lanes keys (recvopOlds s f keys []) r = c at helems hstop hlane hz
  change c.stop.isSome = true ↔ op = 3 ∧ ∃ i, i < lanes.length ∧ faulty i at hstop
  change c.lane.isSome = true ↔ op ≠ 3 ∧ ∃ i, i < lanes.length ∧ faulty i at hlane
  cases hs : c.stop with
  | some d =>
    obtain ⟨hop, hbad⟩ := hstop.mp (by simp [hs])
    simp only [hs] at hz
    rw [hz]
    exact ⟨rfl, fun hnone => hbad.elim fun i hi => absurd hi.2 (hnone i hi.1), fun _ =>
      ⟨rfl, _, rfl, by simp [hop, deferredFlt]⟩⟩
  | none =>
    cases hl : c.lane with
    | some i =>
      obtain ⟨hop, hbad⟩ := hlane.mp (by simp [hl])
      simp only [hs, hl] at hz
      rw [hz]
      exact ⟨rfl, fun hnone => hbad.elim fun i hi => absurd hi.2 (hnone i hi.1), fun _ =>
        ⟨rfl, _, rfl, by simp [hop, deferredFlt]⟩⟩
    | none =>
      have hclean : ¬ ∃ i, i < lanes.length ∧ faulty i := fun hbad => by
        by_cases hop : op = 3
        · simpa [hs] using hstop.mpr ⟨hop, hbad⟩
        · simpa [hl] using hlane.mpr ⟨hop, hbad⟩
      simp only [hs, hl] at hz
      rw [hz]
      refine ⟨rfl, fun _ => ⟨rfl, rfl, fun w => ?_⟩, fun hbad => absurd hbad hclean⟩
      simp only [List.mem_map]
      simp only [(helems hs).mem_iff]
      constructor
      · rintro ⟨e, ⟨i, hi, hc, hlast, rfl⟩, rfl⟩
        exact ⟨i, hi, hc, hlast, rfl⟩
      · rintro ⟨i, hi, hc, hlast, rfl⟩
        exact ⟨_, ⟨i, hi, hc, hlast, rfl⟩, rfl⟩

/-- The elements the turntable finds hang on the scratchpads and on what results have read and not yet written (R218). -/
theorem turnNat_congr {s t : State} (hmem : ∀ sp, t.mem sp = s.mem sp) (hrmw : ∀ n, (t.core n).rmwCells = (s.core n).rmwCells)
    (sp : Space) (k n : Nat) : t.turnNat sp k n = s.turnNat sp k n := by
  have hspad : t.spad = s.spad := hmem .spad
  simp only [State.turnNat, State.turnByte, hrmw, hmem, hspad]

/-- A RECVOP's first result is followed by its second, from the elements as they stand (R315). -/
theorem performPend_recvop {s : State} {m op rt f : Nat} {q : Pend} {lanes keys r : List Nat} (hflt : q.flt = none)
    (hq : q.again = .recvop op rt f lanes keys [] r) : performPend m q s =
      pushPend m (recvopSecond s q q.flags (s.cycle + 3)) :: meetRecvop (.recvop op rt f lanes keys [] r) s := by
  unfold performPend
  simp only [hflt, hq]

/-- The writeback of a RECVOP's first result, the only one of its core: it leaves, and the second is on its way. -/
theorem resultWriteback_recvop {s : State} {m op rt f : Nat} {q : Pend} {lanes keys r : List Nat}
    (hp : (s.core m).pend = [q]) (hv : q.vis ≤ s.cycle) (hflt : q.flt = none) (hq : q.again = .recvop op rt f lanes keys [] r) :
    ∃ u, (∀ k, elemNow u f k = elemNow s f k) ∧ Leaves (.resultWriteback m) s (fun t => SameAll s t ∧
      (t.core m).pend = [recvopSecond u q q.flags (s.cycle + 3)]) := by
  have hexec := exec_resultWriteback_single (dueNow_single hp hv)
  generalize hu : (Upd.core m (takeDue s [q])).apply s = u at hexec
  have hcore : u.core m = takeDue s [q] (s.core m) := hu ▸ tget_tput_same _ _ _ _
  have hempty : (u.core m).pend = [] := by simp [hcore, takeDue, hp, hv]
  have hcycle : u.cycle = s.cycle := hu ▸ rfl
  rw [performPend_recvop hflt hq, applyAll_cons, hcycle] at hexec
  refine ⟨u, fun k => turnNat_congr (fun sp => ?_) (fun n => ?_) _ _ _, _, hexec, ?_⟩
  · subst hu
    cases sp <;> rfl
  · by_cases hn : n = m
    · subst hn
      simp [Core.rmwCells, hcore, takeDue, hp, hv, Pend.rmwCells, hq]
    · have hother : u.core n = s.core n := hu ▸ tget_tput_other _ _ _ _ _ hn
      rw [hother]
  · obtain ⟨hmet, -, -⟩ := findsErrors_meetRecvop op rt f lanes keys [] r (s := u)
      (u := (pushPend m (recvopSecond u q q.flags (s.cycle + 3))).apply u) rfl
    rw [hmet]
    refine ⟨sameAll_of_visible (hu ▸ rfl), (core_pushPend_pend _ _ _).trans ?_⟩
    rw [hempty, List.nil_append]

/-! ### XSTAT and SYNCD (R306, R331) -/

/-- XSTAT reads the status word two cycles later. -/
theorem xstat_yields (s : State) {sel port : Nat} (d : Nat) (hsel : sel < 4) (hport : sel = 3 ∨ port = 0) :
    YieldsX (.xstat d sel port) s 2 d false (xstatWord s sel port) := by
  have hchk : reasonIf s [(sel != 3 && port != 0, 2), (3 < sel, 3)] = none := by
    have h3 : ¬ 3 < sel := by omega
    rcases hport with rfl | rfl <;> simp [reasonIf, h3]
  obtain ⟨p, hp, hres⟩ := emitX_spec 2 d false (xstatWord s sel port) s
  refine ⟨p, ?_, hres⟩
  show done (guarded _ _) s = _
  rw [done_eq, guarded_none hchk, hp]

/-- SYNCD at a level of the domain holds issue. -/
theorem exec_syncd {s : State} {l : Nat} (h : scopeLevel l ≤ domLvl s s.me) :
    exec (.syncd l) s = .next (s.coreTo s.me { s.core s.me with hold := .syncd (scopeLevel l) }) := by
  show done (guarded _ _) s = _
  rw [done_eq, guarded_none (if_neg (Nat.not_lt.mpr h))]
  rfl

/-- Settles O39: a SEND by whether a fence holds it, its arrival by the packets it meets, a receive by the result it puts on its
way, RECVOP's combining by an invariant over its lanes, and the others by what their updates leave. -/
theorem exchangeOperations : Obligations.ExchangeOperations := by
  unfold Obligations.ExchangeOperations
  intro s ms peer b xc op rt k d sel port xb tt bd bs bc sc bin rm l bx by_ bz pk hb hbd hbs hbc
  refine ⟨fun hchk => ?_, sendArrival_bounds s ms (peerOf s ms peer), fun hchk harr => ?_, fun hchk harr => ?_,
    fun m q f lanes keys r hp hv hflt hq => ?_, xstat_yields s d, exec_syncd,
    fun hchk => leaves_of_check rfl hchk (ttarmAct_spec xb tt s),
    fun hchk => leaves_of_check rfl hchk (lsendAct_spec hbd hbs hbc),
    fun hchk => leaves_of_check rfl hchk (collAct_spec sc bin rm hbd hbs hbc)⟩
  · refine leaves_of_check (a := sendAct ms peer b xc) rfl hchk ?_
    cases hf : forkBlocked s s.me with
    | false =>
      obtain ⟨hsame, hpkt, hpost⟩ := sendAct_free (ms := ms) (peer := peer) (xc := xc) hb hf
      exact ⟨hsame, _, hpkt, rfl, rfl, rfl, fun _ => ⟨rfl, hpost⟩, fun h => absurd h (by simp)⟩
    | true =>
      obtain ⟨hsame, hpkt, hheld⟩ := sendAct_held (ms := ms) (peer := peer) (xc := xc) hb hf
      exact ⟨hsame, _, hpkt, rfl, rfl, rfl, fun h => absurd h (by simp), fun _ => hheld⟩
  · refine leaves_of_check (a := recvAct ms peer b xc) rfl hchk ?_
    simp only [recvAct, hb, harr]
    obtain ⟨hsame, hpkt, hpend⟩ := receive_spec s k pk _
    exact ⟨hsame, hpkt, _, hpend, plainResult_mkPend s 2 _ none .value false⟩
  · refine leaves_of_check (a := recvopAct ms peer b xc op rt) rfl hchk ?_
    simp only [recvopAct, hb, harr]
    obtain ⟨hsame, hpkt, hpend⟩ := receive_spec s k pk _
    exact ⟨hsame, hpkt, _, hpend, rfl, rfl, rfl, rfl, rfl⟩
  · obtain ⟨u, hu, t, hexec, hsame, hpend⟩ := resultWriteback_recvop hp hv hflt hq
    have hold : elemNow u f = elemNow s f := funext hu
    have hsecond := recvopSecond_spec u (enb := q.flags) (vis := s.cycle + 3) hq
    rw [hold] at hsecond
    exact ⟨t, hexec, hsame, _, hpend, hsecond⟩

end Sys2Proof.Machine
end

section
/-! Far requests (R23, R228, R268, R269): a state in which a far LD is served while its core still lists it as held. -/

namespace Sys2Proof.Machine

/-- A far LD of core 0 that waits at vault 3. -/
def heldRead : Req where
  kind := 0
  core := 0
  op := none
  task := 0
  vault := 3
  addr := 64
  len := 4
  data := []
  issue := 2
  arrive := 10
  reg := 5
  slot := 1
  size := 32
  sgn := true
  nb := false
  pc := 0
  sup := false
  elem := 0
  page := 0
  sealed := []
  st := 2
  done := 0

/-- The box of vault 3 serves the far LD in cycle 10, while core 0 still lists it as held. -/
def heldWhileServed : State := { State.reset with
  cycle := 10
  cores := [(0, { Core.start with run := .issuing, heldReq := [7] })]
  vaults := [(3, { Vault.start with waiting := [7], serve := some (7, 4, 4, 20) })]
  reqs := [(7, heldRead)]
  nid := 8 }

/-- Where a request stands after an instruction. -/
def standsAfter (i : Instr) (s : State) (r : Nat) : Option Nat :=
  match exec i s with
  | .next t => (tfind t.reqs r).map (·.st)
  | _ => none

theorem standsAfter_of_next {i : Instr} {s t : State} (h : exec i s = .next t) (r : Nat) :
    standsAfter i s r = (tfind t.reqs r).map (·.st) := by
  simp [standsAfter, h]

/-- The release of what the core holds sends the performed request once more: it travels again (R228). -/
theorem heldWhileServed_travels_again : standsAfter (.foreignRequestService 3) heldWhileServed 7 = some 1 := by
  decide +kernel

/-- Refutes O35: it does not ask that no core lists the request as held. One that core 0 still lists while vault 3 serves it is
performed, and the release of what the core holds (`letGo`, R228) then sends it once more, so that it does not stand as
performed. -/
theorem not_farRequestEvents : ¬ Obligations.FarRequestEvents := by
  unfold Obligations.FarRequestEvents
  intro h
  obtain ⟨-, -, -, -, -, -, read, -⟩ := h heldWhileServed 7 heldRead (by decide +kernel) rfl
  obtain ⟨t, ht, -, z, hz, hst, -⟩ := read 4 4 20 (by decide +kernel) (by decide) rfl
  have performed : standsAfter (.foreignRequestService 3) heldWhileServed 7 = some 3 :=
    (standsAfter_of_next ht 7).trans (by rw [hz, Option.map_some, hst])
  rw [heldWhileServed_travels_again] at performed
  exact absurd performed (by decide)

end Sys2Proof.Machine
end

section
/-! The encodings (R34, R41, R44, R45, R258): the round trip of every instruction, from the lemma of each. -/

namespace Sys2Proof.Laws

/-- Settles O55: each instruction that has a word by its own lemma; an event has none. -/
theorem roundTrip : Obligations.RoundTrip := by
  unfold Obligations.RoundTrip
  intro i
  cases i with
  -- control slot (R56)
  | nop => exact RoundTrip.nop | br => exact RoundTrip.br _ | brc => exact RoundTrip.brc _ _ _
  | brl => exact RoundTrip.brl _ _ | brx => exact RoundTrip.brx _ | zloop => exact RoundTrip.zloop _ _
  | close => exact RoundTrip.close | waitc => exact RoundTrip.waitc _ _ | waitt => exact RoundTrip.waitt _
  | syncd => exact RoundTrip.syncd _ | setfmt => exact RoundTrip.setfmt _ _
  | setmsk => exact RoundTrip.setmsk _ _ _ _ _ _ _ | spawn => exact RoundTrip.spawn _ _
  | tcall => exact RoundTrip.tcall _ _ _ _ _ | tret => exact RoundTrip.tret | finopen => exact RoundTrip.finopen _
  | finwait => exact RoundTrip.finwait _ | trap => exact RoundTrip.trap _ | svc => exact RoundTrip.svc _
  | eret => exact RoundTrip.eret | mfs => exact RoundTrip.mfs _ _ | mts => exact RoundTrip.mts _ _
  | halt => exact RoundTrip.halt | hdr => exact RoundTrip.hdr _ _ _ _ _ _
  -- S class (R58)
  | mov => exact RoundTrip.mov _ _ _ | movi => exact RoundTrip.movi _ _ | movhi => exact RoundTrip.movhi _ _
  | add => exact RoundTrip.add _ _ _ _ | addi => exact RoundTrip.addi _ _ _ | sub => exact RoundTrip.sub _ _ _ _
  | mul => exact RoundTrip.mul _ _ _ _ | mulh => exact RoundTrip.mulh _ _ _ _ _ | div => exact RoundTrip.div _ _ _ _ _
  | rem => exact RoundTrip.rem _ _ _ _ _ | and => exact RoundTrip.and _ _ _ _ | or => exact RoundTrip.or _ _ _ _
  | xor => exact RoundTrip.xor _ _ _ _ | andn => exact RoundTrip.andn _ _ _ _ | shl => exact RoundTrip.shl _ _ _ _
  | shr => exact RoundTrip.shr _ _ _ _ | sar => exact RoundTrip.sar _ _ _ _ | clz => exact RoundTrip.clz _ _ _
  | popc => exact RoundTrip.popc _ _ _ | bfx => exact RoundTrip.bfx _ _ _ _ _ | bfi => exact RoundTrip.bfi _ _ _ _
  | min => exact RoundTrip.min _ _ _ _ _ | max => exact RoundTrip.max _ _ _ _ _ | cmp => exact RoundTrip.cmp _ _ _ _ _
  | sel => exact RoundTrip.sel _ _ _ _ | fadd => exact RoundTrip.fadd _ _ _ _ _ | fmul => exact RoundTrip.fmul _ _ _ _ _
  | ffma => exact RoundTrip.ffma _ _ _ _ _ | fcmp => exact RoundTrip.fcmp _ _ _ _
  | fcvt => exact RoundTrip.fcvt _ _ _ _ _
  -- F class (R60)
  | fexp2 => exact RoundTrip.fexp2 _ _ _ | flog2 => exact RoundTrip.flog2 _ _ _ | frcp => exact RoundTrip.frcp _ _ _
  | frsq => exact RoundTrip.frsq _ _ _ | fsqrt => exact RoundTrip.fsqrt _ _ _ | fsin => exact RoundTrip.fsin _ _ _
  | fcos => exact RoundTrip.fcos _ _ _ | ftanh => exact RoundTrip.ftanh _ _ _ | fsigm => exact RoundTrip.fsigm _ _ _
  | fdiv => exact RoundTrip.fdiv _ _ _ _
  -- V class (R61)
  | vadd => exact RoundTrip.vadd _ _ _ _ _ | vsub => exact RoundTrip.vsub _ _ _ _ _
  | vmul => exact RoundTrip.vmul _ _ _ _ _ | vfma => exact RoundTrip.vfma _ _ _ _ _
  | vfnma => exact RoundTrip.vfnma _ _ _ _ _ | vmin => exact RoundTrip.vmin _ _ _ _ _
  | vmax => exact RoundTrip.vmax _ _ _ _ _ | vabs => exact RoundTrip.vabs _ _ _ _ | vneg => exact RoundTrip.vneg _ _ _ _
  | vand => exact RoundTrip.vand _ _ _ _ _ | vor => exact RoundTrip.vor _ _ _ _ _
  | vxor => exact RoundTrip.vxor _ _ _ _ _ | vandn => exact RoundTrip.vandn _ _ _ _ _
  | vshl => exact RoundTrip.vshl _ _ _ _ _ | vshr => exact RoundTrip.vshr _ _ _ _ _
  | vsar => exact RoundTrip.vsar _ _ _ _ _ | vcmp => exact RoundTrip.vcmp _ _ _ _ _ _
  | vsel => exact RoundTrip.vsel _ _ _ _ _ | vmov => exact RoundTrip.vmov _ _ _ _
  | vbcast => exact RoundTrip.vbcast _ _ _ _ | vextr => exact RoundTrip.vextr _ _ _ _ _
  | vins => exact RoundTrip.vins _ _ _ _ _ | vpermz => exact RoundTrip.vpermz _ _ _ _ _
  | vrot => exact RoundTrip.vrot _ _ _ _ _ | viota => exact RoundTrip.viota _ _ _ _
  | vredadd => exact RoundTrip.vredadd _ _ _ _ | vredmax => exact RoundTrip.vredmax _ _ _ _
  | vredmin => exact RoundTrip.vredmin _ _ _ _ | vmaxi => exact RoundTrip.vmaxi _ _ _ _
  | vmini => exact RoundTrip.vmini _ _ _ _ | vcvt => exact RoundTrip.vcvt _ _ _ _
  | vqnt => exact RoundTrip.vqnt _ _ _ _ _ | vperm => exact RoundTrip.vperm _ _ _ _ _
  | vdqnt => exact RoundTrip.vdqnt _ _ _ _ _ | vpack => exact RoundTrip.vpack _ _ _ _ _
  | vunpk => exact RoundTrip.vunpk _ _ _ _ _ | vscale => exact RoundTrip.vscale _ _ _ _ _
  | vclamp => exact RoundTrip.vclamp _ _ _ _ _ | pand => exact RoundTrip.pand _ _ _ _
  | por => exact RoundTrip.por _ _ _ _ | pxor => exact RoundTrip.pxor _ _ _ _ | pnot => exact RoundTrip.pnot _ _ _
  | pcnt => exact RoundTrip.pcnt _ _ _ | pset => exact RoundTrip.pset _ _ _
  -- M class (R62)
  | ldw => exact RoundTrip.ldw _ _ _ | ldws => exact RoundTrip.ldws _ _ _ _ | swpw => exact RoundTrip.swpw
  | mma => exact RoundTrip.mma _ _ _ _ _ | mmaz => exact RoundTrip.mmaz _ _ _ _ _ | trd => exact RoundTrip.trd _ _ _
  | twr => exact RoundTrip.twr _ _ _ | tst => exact RoundTrip.tst _ _ _ _ _ | tzero => exact RoundTrip.tzero _
  | outer => exact RoundTrip.outer _ _ _ _ _
  -- L class (R63)
  | ld => exact RoundTrip.ld _ _ _ _ | st => exact RoundTrip.st _ _ _ | vld => exact RoundTrip.vld _ _ _ _ _
  | vst => exact RoundTrip.vst _ _ _ _ | vldx => exact RoundTrip.vldx _ _ _ _ _ | vstx => exact RoundTrip.vstx _ _ _ _
  | ldt => exact RoundTrip.ldt _ _ _ _ | vldt => exact RoundTrip.vldt _ _ _ _ _ | vldz => exact RoundTrip.vldz _ _ _ _ _
  | boxsub => exact RoundTrip.boxsub _ _ _ _ _ | boxinf => exact RoundTrip.boxinf _ _ _ _
  | boxmov => exact RoundTrip.boxmov _ _ | fence => exact RoundTrip.fence _ _ | pub => exact RoundTrip.pub _
  -- E class (R64)
  | cpy => exact RoundTrip.cpy _ _ _ _ _ _ _ _ | gath => exact RoundTrip.gath _ _ _
  | scac => exact RoundTrip.scac _ _ _ _ _ _ | fold => exact RoundTrip.fold _ _ _ _ _ _
  | scan => exact RoundTrip.scan _ _ _ _ _ _ _ _ | zip => exact RoundTrip.zip _ _ _ _ _
  | vrun => exact RoundTrip.vrun _ _ _ | vstop => exact RoundTrip.vstop _ | rbfill => exact RoundTrip.rbfill _
  | dlvset => exact RoundTrip.dlvset _ _ _ _ | dlvwait => exact RoundTrip.dlvwait _ _
  -- X class (R65)
  | send => exact RoundTrip.send _ _ _ _ | recv => exact RoundTrip.recv _ _ _ _
  | recvop => exact RoundTrip.recvop _ _ _ _ _ _ | coll => exact RoundTrip.coll _ _ _ _ _ _
  | ttarm => exact RoundTrip.ttarm _ _ | lsend => exact RoundTrip.lsend _ _ _ | xstat => exact RoundTrip.xstat _ _ _
  -- vault commands (R70, R258)
  | vaultHalt => exact RoundTrip.vaultHalt _ | act => exact RoundTrip.act _ _ _ _ _
  | rd => exact RoundTrip.rd _ _ _ _ _ _ _ | rda => exact RoundTrip.rda _ _ _ _ _ _ _
  | wr => exact RoundTrip.wr _ _ _ _ _ _ _ | wra => exact RoundTrip.wra _ _ _ _ _ _ _
  | pre => exact RoundTrip.pre _ _ _ _ | prea => exact RoundTrip.prea _ _ | refpb => exact RoundTrip.refpb _ _ _ _
  | refab => exact RoundTrip.refab _ _ | wait => exact RoundTrip.wait _ _ | loop => exact RoundTrip.loop _ _ _
  | jump => exact RoundTrip.jump _ _ | start => exact RoundTrip.start _ _ | vopen => exact RoundTrip.vopen _ _
  | tagw => exact RoundTrip.tagw _ _ _
  -- events
  | _ => exact RoundTrip.of_event rfl

end Sys2Proof.Laws
end

section
/-! What a step is made of (R51, R361; log 7): every act of the machine is updates of the state it acts in, and a step is
updates once the event that runs has left the agenda. What every update keeps, every step keeps. -/

namespace Sys2Proof.Machine

/-! ### Updates from one state to another -/

/-- Updates lead from s to t. -/
def Reaches (s t : State) : Prop := ∃ us, t = applyAll us s

/-- The outcome is a next state to which updates lead from s. -/
def ByUpdates (s : State) (o : Host.Outcome State Fault Refusal) : Prop := ∃ us, o = .next (applyAll us s)

theorem Reaches.refl (s : State) : Reaches s s := ⟨[], rfl⟩

theorem Reaches.trans {s t u : State} : Reaches s t → Reaches t u → Reaches s u := by
  rintro ⟨us, rfl⟩ ⟨vs, rfl⟩
  exact ⟨us ++ vs, (applyAll_append us vs s).symm⟩

theorem reaches_apply (u : Upd) (s : State) : Reaches s (u.apply s) := ⟨[u], rfl⟩

theorem reaches_atSlot (s : State) (n i w : Nat) : Reaches s (atSlot s n i w) :=
  reaches_apply (.iss ⟨n, i, s.iss.vault, w⟩) s

theorem Reaches.next {s t : State} : Reaches s t → ByUpdates s (.next t) := by
  rintro ⟨us, rfl⟩
  exact ⟨us, rfl⟩

theorem Reaches.byUpdates {s t : State} {o : Host.Outcome State Fault Refusal} (h : Reaches s t) :
    ByUpdates t o → ByUpdates s o := by
  rintro ⟨us, rfl⟩
  exact (h.trans ⟨us, rfl⟩).next

theorem byUpdates_exec (i : Instr) (s : State) : ByUpdates s (exec i s) := exec_applyAll i s

theorem byUpdates_done (a : Act) (s : State) : ByUpdates s (done a s) := ⟨a s, rfl⟩

/-! ### A bundle -/

theorem reaches_kernStart (s : State) (n : Nat) : Reaches s (kernStart s n) := by
  unfold kernStart
  dsimp only
  split
  · exact ⟨_, rfl⟩
  · exact .refl s

theorem reaches_shadowed (n : Nat) (s : State) : Reaches s (shadowed n s) := by
  obtain ⟨us, hfmt⟩ := exec_applyAll (.fmtShadowEnd n) s
  obtain ⟨vs, hmsk⟩ := exec_applyAll (.maskSelectorUpdate n) (applyAll us s)
  simp only [shadowed, hfmt, hmsk]
  exact .trans ⟨us, rfl⟩ ⟨vs, rfl⟩

theorem byUpdates_takeDeferred {n : Nat} {s : State} {o : Host.Outcome State Fault Refusal}
    (h : takeDeferred n s = some o) : ByUpdates s o := by
  unfold takeDeferred at h
  split at h <;> cases h
  · split <;> exact byUpdates_exec _ s
  · exact byUpdates_exec _ s
  · exact byUpdates_exec _ s

theorem byUpdates_takeDeferred_getD (n : Nat) (s : State) : ByUpdates s ((takeDeferred n s).getD (.next s)) := by
  cases h : takeDeferred n s with
  | none => exact (Reaches.refl s).next
  | some o => exact byUpdates_takeDeferred h

theorem byUpdates_runOps (n : Nat) (b : BitVec 256) (l : List (Nat × Instr)) (s : State) :
    ByUpdates s (runOps n b l s) := by
  induction l generalizing s with
  | nil => exact (Reaches.refl s).next
  | cons o r ih =>
    obtain ⟨us, hexec⟩ := exec_applyAll o.2 (atSlot s n o.1 (slotWord b o.1))
    simp only [runOps, hexec]
    exact ((reaches_atSlot s n _ _).trans ⟨us, rfl⟩).byUpdates (ih _)

theorem byUpdates_commitBundle (n : Nat) (b : BitVec 256) (s : State) : ByUpdates s (commitBundle n b s) := by
  obtain ⟨us, hrun⟩ := byUpdates_runOps n b (bundleOps b) s
  simp only [commitBundle, hrun]
  split
  · exact Reaches.byUpdates ⟨us, rfl⟩ (byUpdates_done _ _)
  · exact ⟨us, rfl⟩

theorem byUpdates_issueBundle (n : Nat) (s : State) : ByUpdates s (issueBundle n s) := by
  have hstart := (reaches_shadowed n s).trans (reaches_kernStart (shadowed n s) n)
  unfold issueBundle
  dsimp only
  split
  · exact byUpdates_done _ s
  · split
    · split
      · rename_i h
        exact byUpdates_takeDeferred h
      · exact byUpdates_done _ s
    · split
      · exact byUpdates_done _ s
      · split
        · rename_i h
          exact byUpdates_takeDeferred h
        · exact hstart.byUpdates (byUpdates_commitBundle n _ _)

/-! ### What is due, and a step -/

theorem byUpdates_coreAct (n : Nat) (s : State) : ByUpdates s (coreAct n s) := by
  unfold coreAct
  dsimp only
  split
  · split
    · exact byUpdates_exec _ s
    · split
      · exact ⟨_, rfl⟩
      · exact byUpdates_issueBundle n s
  · split
    · exact byUpdates_exec _ s
    · exact byUpdates_takeDeferred_getD n s
  · split
    · exact byUpdates_exec _ s
    · exact byUpdates_takeDeferred_getD n s
  · exact (Reaches.refl s).next
  · exact byUpdates_takeDeferred_getD n s

theorem byUpdates_runTodo (c : Cand) (i : Option Item) (s : State) : ByUpdates s (runTodo c i s) := by
  unfold runTodo
  split
  · split
    · exact byUpdates_exec _ s
    · exact (Reaches.refl s).next
  · exact byUpdates_exec _ s
  · exact byUpdates_coreAct _ s
  · split
    · split
      · exact (reaches_apply (.iss _) s).byUpdates (byUpdates_exec _ _)
      · exact byUpdates_exec _ s
    · exact byUpdates_exec _ s
  · exact byUpdates_exec _ s

/-- What is left of the agenda is all of it, or all but its head. -/
def Leftover (s : State) (r : List Item) : Prop := r = s.agenda ∨ ∃ i, s.agenda = i :: r

theorem takeHead_leaves (c : Cand) (s : State) :
    ∃ r, Leftover s r ∧ (takeHead c s).2 = { s with agenda := r } := by
  unfold takeHead
  split
  · rename_i hagenda
    exact ⟨_, .inr ⟨_, hagenda⟩, rfl⟩
  · exact ⟨_, .inl rfl, rfl⟩

theorem byUpdates_stepOn (s : State) : ∃ r, Leftover s r ∧ ByUpdates { s with agenda := r } (stepOn s) := by
  unfold stepOn
  split
  · exact ⟨_, .inl rfl, (reaches_apply (.cycle (s.cycle + 1)) s).next⟩
  · rename_i c _
    obtain ⟨r, hleft, hhead⟩ := takeHead_leaves c s
    refine ⟨r, hleft, ?_⟩
    rw [← hhead]
    generalize takeHead c s = h
    obtain ⟨us, hrun⟩ := byUpdates_runTodo c h.1 (applyAll (tick c.due c.ph h.2) h.2)
    simp only [hrun]
    exact Reaches.byUpdates (.trans ⟨_, rfl⟩ ⟨us, rfl⟩) (byUpdates_done scans _)

theorem byUpdates_stepOff (s : State) : ∃ r, Leftover s r ∧ ByUpdates { s with agenda := r } (stepOff s) := by
  unfold stepOff
  split
  · exact ⟨_, .inl rfl, (reaches_apply (.cycle (s.cycle + 1)) s).next⟩
  · rename_i i r hagenda
    have htime := reaches_apply (.cycle (max s.cycle i.due)) { s with agenda := r }
    refine ⟨r, .inr ⟨i, hagenda⟩, ?_⟩
    dsimp only
    split
    · exact htime.byUpdates (byUpdates_exec i.ev _)
    · exact htime.next

/-- Every step is updates of the state, from which the event that runs has been taken. -/
theorem byUpdates_step (s : State) : ∃ r, Leftover s r ∧ ByUpdates { s with agenda := r } (step s) := by
  unfold step
  split
  · exact byUpdates_stepOff s
  · exact byUpdates_stepOn s

/-! ### What every step keeps -/

theorem Leftover.agendaOk {s : State} {r : List Item} (h : Leftover s r) (hs : s.agendaOk = true) :
    ({ s with agenda := r } : State).agendaOk = true := by
  obtain rfl | ⟨i, hi⟩ := h
  · exact hs
  · simp only [State.agendaOk, hi, agendaFrom, Bool.and_eq_true] at hs ⊢
    exact agendaFrom_mono (by omega) hs.2

/-- Settles O57: the event that runs leaves the rest of the agenda in order and no register table changed, and every update
of a step keeps both orders. -/
theorem orderKept : Obligations.OrderKept := by
  unfold Obligations.OrderKept
  intro s t hstep
  obtain ⟨r, hleft, us, hus⟩ := byUpdates_step s
  obtain rfl : applyAll us { s with agenda := r } = t := by simpa [hstep] using hus.symm
  obtain ⟨-, hagenda, hregs⟩ := applyAll_invariants us { s with agenda := r }
  exact ⟨fun hs => hagenda (hleft.agendaOk hs), hregs⟩

end Sys2Proof.Machine
end

section
/-! The step (R30, R54, R361; log 7): the one operation of a bundle with a single word is what issue runs, and an event, a
vault's command or a result that is next is what the step runs. -/

namespace Sys2Proof.Machine

/-! ### The operations of a bundle that holds one word -/

/-- In a bundle whose other slots are empty a slot gives its own word's operation, the control slot a NOP, the others none. -/
theorem slotAt_single {b : BitVec 256} {k : Nat} {i : Instr} (hempty : ∀ j, j < 8 → j ≠ k → slotWord b j = 0)
    (hword : (if k = 0 then decodeControl (slotWord b k) else decodeSlot (slotWord b k) none) = .ok i) {j : Nat} (hj : j < 8) :
    slotAt b j = if j = k then some (.ok i) else if j = 0 then some (.ok .nop) else none := by
  by_cases hjk : j = k
  · subst hjk
    by_cases hj0 : j = 0
    · subst hj0
      simpa [slotAt] using hword
    · have hhdr : isHdr b = false := by simp [isHdr, hempty 0 (by omega) (Ne.symm hj0), bitsOf]
      have hne : slotWord b j ≠ 0 := by
        intro h0
        simp only [hj0, h0, if_false] at hword
        cases hword
      simp only [hj0, if_false] at hword
      simp [slotAt, hj0, hne, extAt, hhdr, hword]
  · have hzero := hempty j hj hjk
    by_cases hj0 : j = 0
    · subst hj0
      simp only [slotAt, hzero, hjk, beq_self_eq_true, if_true, if_false]
      rfl
    · simp [slotAt, hj0, hzero, hjk]

/-- Its operations are its word's and, where that stands in another slot, the NOP of the empty control slot. -/
theorem bundleOps_single {b : BitVec 256} {k : Nat} {i : Instr} (hk : k < 8) (hempty : ∀ j, j < 8 → j ≠ k → slotWord b j = 0)
    (hword : (if k = 0 then decodeControl (slotWord b k) else decodeSlot (slotWord b k) none) = .ok i) :
    bundleOps b = (k, i) :: if k = 0 then [] else [(0, .nop)] := by
  have hslot {j : Nat} (hj : j < 8) := slotAt_single hempty hword hj
  have hplace : k = 0 ∨ k = 1 ∨ k = 2 ∨ k = 3 ∨ k = 4 ∨ k = 5 ∨ k = 6 ∨ k = 7 := by omega
  simp only [bundleOps, List.filterMap_cons, List.filterMap_nil, hslot (j := 0) (by decide), hslot (j := 1) (by decide),
    hslot (j := 2) (by decide), hslot (j := 3) (by decide), hslot (j := 4) (by decide), hslot (j := 5) (by decide),
    hslot (j := 6) (by decide), hslot (j := 7) (by decide)]
  obtain rfl | rfl | rfl | rfl | rfl | rfl | rfl | rfl := hplace <;> rfl

/-! ### Issue -/

theorem holdsIssue_nop (s : State) (n : Nat) : holdsIssue s n .nop = false := rfl

theorem runOps_cons {n k : Nat} {b : BitVec 256} {i : Instr} {s v : State} (r : List (Nat × Instr))
    (h : exec i (atSlot s n k (slotWord b k)) = .next v) : runOps n b ((k, i) :: r) s = runOps n b r v := by
  simp only [runOps, h]

/-- After a bundle's operations issue moves on, unless one of them has moved it. -/
theorem commitBundle_next {n : Nat} {b : BitVec 256} {s t : State} (h : runOps n b (bundleOps b) s = .next t) :
    commitBundle n b s = .next (if ((t.core n).run == .issuing && (t.core n).sup == (s.core n).sup) = true
      then applyAll (endBundle n t) t else t) := by
  simp only [commitBundle, h, done_eq]
  split <;> rfl

theorem exec_nop (s : State) : exec .nop s = .next s := rfl

/-- A bundle that holds one word runs it and moves on. -/
theorem commitBundle_single {n k : Nat} {b : BitVec 256} {i : Instr} {s v : State} (hk : k < 8)
    (hempty : ∀ j, j < 8 → j ≠ k → slotWord b j = 0)
    (hword : (if k = 0 then decodeControl (slotWord b k) else decodeSlot (slotWord b k) none) = .ok i)
    (hexec : exec i (atSlot s n k (slotWord b k)) = .next v) :
    commitBundle n b s = .next (let x := if k = 0 then v else atSlot v n 0 0
      if ((v.core n).run == .issuing && (v.core n).sup == (s.core n).sup) = true then applyAll (endBundle n x) x else x) := by
  have hops := bundleOps_single hk hempty hword
  by_cases hk0 : k = 0
  · rw [if_pos hk0] at hops
    have hrun : runOps n b (bundleOps b) s = .next v := by rw [hops, runOps_cons [] hexec, runOps]
    simp only [commitBundle_next hrun, if_pos hk0]
  · rw [if_neg hk0] at hops
    have hzero : slotWord b 0 = 0 := hempty 0 (by omega) (Ne.symm hk0)
    have hrun : runOps n b (bundleOps b) s = .next (atSlot v n 0 0) := by
      rw [hops, runOps_cons _ hexec, runOps_cons [] (exec_nop _), runOps, hzero]
    have hcore : (atSlot v n 0 0).core n = v.core n := rfl
    simp only [commitBundle_next hrun, hcore, if_neg hk0]

/-- A bundle that is legal, not held and without a fault, where none is due, commits. -/
theorem issueBundle_commits {n : Nat} {s u : State} {b : BitVec 256} (hu : kernStart (shadowed n s) n = u)
    (hb : bundleAt u n (u.core n).pc = b) (hlegal : illegalOf u n b = none)
    (hfree : ∀ o ∈ bundleOps b, holdsIssue u n o.2 = false) (hfault : issueFault u n b = none)
    (hdue : takeDeferred n s = none) : issueBundle n s = commitBundle n b u := by
  have hany : (bundleOps b).any (fun o => holdsIssue u n o.2) = false :=
    List.any_eq_false.mpr fun o ho => ne_true_of_eq_false (hfree o ho)
  simp only [issueBundle, hu, hb, hlegal, hany, hfault, hdue, Bool.false_eq_true, if_false]

/-- A core that no hold stops, with no level exhausted and no kernel to pass over, issues. -/
theorem coreAct_issues {n : Nat} {s : State} (hhold : (s.core n).hold = .none)
    (hlevels : (s.core n).zl.all (fun l => l.left != 0) = true) (hkern : kernSkip s n = none) :
    coreAct n s = issueBundle n s := by
  have hhead : ((s.core n).zl.head?.map (·.left) == some 0) = false := by
    cases hz : (s.core n).zl with
    | nil => rfl
    | cons l r =>
      simp only [hz, List.all_cons, Bool.and_eq_true, bne_iff_ne, ne_eq] at hlevels
      simp [hlevels.1]
  simp only [coreAct, hhold, hhead, hkern, Bool.false_eq_true, if_false]

/-! ### The step -/

/-- A step of a device that has power runs what is next. -/
theorem step_runs {s t : State} {c : Cand} (hpower : s.dev.tripped = false) (hnext : nextUp s = some c)
    (hrun : runTodo c (takeHead c s).1 (applyAll (tick c.due c.ph (takeHead c s).2) (takeHead c s).2) = .next t) :
    step s = done scans t := by
  simp only [step, hpower, stepOn, hnext, hrun, Bool.false_eq_true, if_false]

/-- Settles O53: issue comes down to the bundle's one operation, and the other acts are one instruction each. -/
theorem stepRunsWhatIsNext : Obligations.StepRunsWhatIsNext := by
  unfold Obligations.StepRunsWhatIsNext
  refine ⟨?_, ?_⟩
  · intro s c n k i hpower hnext t u b w hhold hlevels hkern hk hempty hword hlegal hfree hfault hdue
    have hholds : ∀ o ∈ bundleOps b, holdsIssue u n o.2 = false := by
      rw [bundleOps_single hk hempty hword]
      intro o ho
      obtain rfl | ho := List.mem_cons.mp ho
      · exact hfree
      · split at ho
        · cases ho
        · obtain rfl := List.mem_singleton.mp ho
          exact holdsIssue_nop u n
    obtain ⟨us, hexec⟩ := exec_applyAll i (atSlot u n k w)
    refine ⟨_, hexec, step_runs hpower hnext ?_⟩
    show coreAct n t = _
    rw [coreAct_issues hhold hlevels hkern, issueBundle_commits rfl rfl hlegal hholds hfault hdue,
      commitBundle_single hk hempty hword hexec]
  · intro s c ph v q w e r i hpower
    refine ⟨?_, ?_, ?_, ?_⟩
    · intro hnext hagenda t
      obtain ⟨us, hexec⟩ := exec_applyAll e.ev (applyAll (tick c ph t) t)
      refine ⟨_, hexec, step_runs hpower hnext ?_⟩
      simp only [takeHead, hagenda]
      exact hexec
    · intro hnext t hcmd hword
      obtain ⟨us, hexec⟩ := exec_applyAll i { t with iss := { t.iss with vault := v } }
      refine ⟨_, hexec, step_runs hpower hnext ?_⟩
      have hnow : (nextCmd t v).bind (·.2) = some w := by rw [hcmd]; rfl
      show runTodo ⟨c, 3, .command v⟩ none t = _
      simp only [runTodo, hnow, hword, hexec]
    · intro hnext
      obtain ⟨us, hexec⟩ := exec_applyAll (.resultWriteback v) (applyAll (tick c ph s) s)
      exact ⟨_, hexec, step_runs hpower hnext hexec⟩
    · intro hnext
      obtain ⟨us, hexec⟩ := exec_applyAll (.wrUnitRead v) (applyAll (tick c ph s) s)
      exact ⟨_, hexec, step_runs hpower hnext hexec⟩

end Sys2Proof.Machine
end

section
/-! Waits (R36, R38, R283). -/

namespace Sys2Proof.Machine

/-- Settles O23: what holds issue is set and taken away, and nothing else is done. -/
theorem waitsHoldIssue : Obligations.WaitsHoldIssue := by
  unfold Obligations.WaitsHoldIssue
  intro s x n m c v a b d e f g k
  refine ⟨rfl, rfl, rfl, rfl, fun hhold hover => ?_, fun hhold hearly => ?_, fun hhold hover => ?_⟩
  · show done (waitcExpiryAct m) s = _
    simp only [done_eq, waitcExpiryAct, hhold, if_neg (Nat.not_lt.mpr hover)]
    rfl
  · show done (waitcExpiryAct m) s = _
    simp only [done_eq, waitcExpiryAct, hhold, if_pos hearly, applyAll_nil]
  · show done (waittExpiryAct m) s = _
    simp only [done_eq, waittExpiryAct, hhold, if_neg (Nat.not_lt.mpr hover)]
    rfl

end Sys2Proof.Machine
end

section
/-! Branches and their delay bundles (R34, R35). -/

namespace Sys2Proof.Machine

@[simp] theorem tput_tput_same {α : Type} (m : Tab α) (k : Nat) (v w : α) : tput (tput m k v) k w = tput m k w := by
  induction m with
  | nil => simp [tput]
  | cons e r ih =>
    obtain ⟨a, u⟩ := e
    by_cases hak : a = k
    · simp [tput, hak]
    · by_cases hlt : k < a
      · simp [tput, hak, hlt]
      · simp [tput, hak, hlt, ih]

/-! ### The checks of a branch -/

theorem noDelay_none {s : State} (h : (s.core s.me).dly = 0) : noDelay s = none := by
  simp [noDelay, reasonIf, h]

theorem passesEnd_none {s : State} (h : ∀ l ∈ (s.core s.me).zl, ¬(s.pcNow ≤ l.last ∧ l.last < s.pcNow + 2)) :
    passesEnd s = none := by
  have hany : (s.core s.me).zl.any (fun l => s.pcNow ≤ l.last && l.last < s.pcNow + 2) = false := by
    simp only [List.any_eq_false, Bool.and_eq_true, decide_eq_true_eq]
    exact h
  simp only [passesEnd, hany, Bool.false_eq_true, if_false]

theorem brcLegal_none {s : State} {c : Nat} (hc : c < 6) (h : (s.core s.me).dly = 0) :
    andThen (fun s => reasonIf s [(6 ≤ c, 3)]) noDelay s = none := by
  have : ¬ 6 ≤ c := by omega
  simp [andThen, reasonIf, this, noDelay_none h]

theorem brcTakes_ne (v : Word) : brcTakes 1 v = decide (v ≠ 0) := (decide_not (p := v = 0)).symm

/-! ### The branch held -/

/-- The sequencer's record once it holds a branch: taken, to address a, or not, to the bundle behind its delay bundles. -/
def Core.branching (k : Core) (a : Nat) (take : Bool) : Core :=
  { k with dly := 3, tgt := if take then a else k.wrap (k.pc + 3), taken := take }

theorem applyAll_branchTo (a : Nat) (take : Bool) (s : State) :
    applyAll (branchTo a take s) s = s.coreTo s.me ((s.core s.me).branching a take) := rfl

/-- Outside delay bundles and away from a level's END a branch does what it is for. -/
theorem branch_acts {s : State} {legal : State → Option Flt} (act : Act) (hlegal : legal s = none)
    (hends : ∀ l ∈ (s.core s.me).zl, ¬(s.pcNow ≤ l.last ∧ l.last < s.pcNow + 2)) :
    done (checked legal passesEnd act) s = .next (applyAll (act s) s) := by
  rw [done_eq, checked_none hlegal (passesEnd_none hends)]

@[simp] theorem core_coreTo (s : State) (n : Nat) (c : Core) : (s.coreTo n c).core n = c := tget_tput_same _ _ _ _

@[simp] theorem coreTo_coreTo (s : State) (n : Nat) (c d : Core) : (s.coreTo n c).coreTo n d = s.coreTo n d := by
  simp [State.coreTo]

@[simp] theorem me_coreTo (s : State) (n : Nat) (c : Core) : (s.coreTo n c).me = s.me := rfl

theorem apply_pushPend (n : Nat) (p : Pend) (s : State) :
    (pushPend n p).apply s = s.coreTo n { s.core n with pend := (s.core n).pend ++ [p] } := rfl

/-- BRL puts its link on its way, and its branch is held. -/
theorem applyAll_link (d t : Nat) (s : State) :
    applyAll (seqA [fun s => [pushPend s.me (mkPend s 1 [.x d (BitVec.ofNat 64 (s.pcNow + 3))] none 0 none .value false)],
      branchTo t true] s) s = s.coreTo s.me { (s.core s.me).branching t true with
        pend := (s.core s.me).pend ++ [mkPend s 1 [.x d (BitVec.ofNat 64 (s.pcNow + 3))] none 0 none .value false] } := by
  simp only [applyAll_seqA_cons, applyAll_seqA_nil, applyAll_cons, applyAll_nil, applyAll_branchTo, apply_pushPend,
    me_coreTo, core_coreTo, coreTo_coreTo]
  rfl

/-! ### Delay bundles -/

theorem wrap_task {k : Core} (h : k.sup = false) (a : Nat) : k.wrap a = a % 16384 := by
  simp [Core.wrap, h]

/-- A delay bundle with another behind it: issue moves on by one. -/
theorem endBundle_delay {k e : Core} {t : Nat} (he : k.endBundle t = e) (h : 2 ≤ k.dly) :
    e.dly = k.dly - 1 ∧ e.pc = k.wrap (k.pc + 1) ∧ e.nextAt = max k.nextAt (t + 1) ∧ e.sup = k.sup ∧ e.zl = k.zl ∧
      e.tgt = k.tgt ∧ e.taken = k.taken := by
  subst he
  simp [Core.endBundle, h, Core.wrap]

/-- The last delay bundle, outside every level: the target of a branch taken, or the bundle behind. -/
theorem endBundle_redirect {k e : Core} {t : Nat} (he : k.endBundle t = e) (h : k.dly = 1) (hz : k.zl = []) :
    e.dly = 0 ∧ e.taken = false ∧ e.pc = k.wrap (if k.taken then k.tgt else k.pc + 1) ∧ e.nextAt = max k.nextAt (t + 1) := by
  subst he
  cases htaken : k.taken <;> simp [Core.endBundle, Core.advance, h, hz, htaken, Core.wrap]

/-- In task mode and outside every level two delay bundles issue after a branch, then the target or the bundle behind them. -/
theorem delayBundles {k b c d : Core} {t u v : Nat} (hb : k.endBundle t = b) (hc : b.endBundle u = c) (hd : c.endBundle v = d)
    (hsup : k.sup = false) (hz : k.zl = []) (hdly : k.dly = 3) :
    b.dly = 2 ∧ b.pc = (k.pc + 1) % 16384 ∧ c.dly = 1 ∧ c.pc = (k.pc + 2) % 16384 ∧ d.dly = 0 ∧ d.taken = false ∧
      d.pc = (if k.taken then k.tgt % 16384 else (k.pc + 3) % 16384) ∧ t + 1 ≤ b.nextAt ∧ u + 1 ≤ c.nextAt ∧
      v + 1 ≤ d.nextAt := by
  obtain ⟨bdly, bpc, bnext, bsup, bz, btgt, btaken⟩ := endBundle_delay hb (by omega)
  obtain ⟨cdly, cpc, cnext, csup, cz, ctgt, ctaken⟩ := endBundle_delay hc (by omega)
  obtain ⟨ddly, dtaken, dpc, dnext⟩ := endBundle_redirect hd (by omega) (cz.trans (bz.trans hz))
  have hbsup : b.sup = false := bsup.trans hsup
  have hcsup : c.sup = false := csup.trans hbsup
  rw [wrap_task hsup] at bpc
  rw [wrap_task hbsup] at cpc
  rw [wrap_task hcsup, ctaken, btaken, ctgt, btgt] at dpc
  refine ⟨by omega, bpc, by omega, by omega, ddly, dtaken, ?_, by omega, by omega, by omega⟩
  cases htaken : k.taken <;> simp only [htaken, if_true, if_false, Bool.false_eq_true] at dpc ⊢ <;> omega

/-- Settles O21: the branches by the sequencer's record they leave, the delay bundles one at a time. -/
theorem branchesAndDelayBundles : Obligations.BranchesAndDelayBundles := by
  unfold Obligations.BranchesAndDelayBundles
  refine ⟨?_, ?_⟩
  · intro s d x t n k v goes hdly hends
    have hjump := fun (act : Act) => branch_acts act (noDelay_none hdly) hends
    have hbrc : ∀ c, c < 6 → exec (.brc x c t) s = .next (s.coreTo n (goes t (brcTakes c v))) :=
      fun c hc => branch_acts _ (brcLegal_none hc hdly) hends
    refine ⟨hjump _, ?_, hbrc 0 (by decide), ?_, hbrc 2 (by decide), hbrc 3 (by decide), hbrc 4 (by decide),
      hbrc 5 (by decide), ?_⟩
    · have htarget : wbits v 0 14 = v.toNat % 2 ^ 14 := by simp [wbits, bitsOf]
      rw [← htarget]
      exact hjump _
    · rw [← brcTakes_ne]
      exact hbrc 1 (by decide)
    · exact ⟨_, (hjump _).trans (congrArg _ (applyAll_link d t s)), plainResult_mkPend s 1 _ none .value false⟩
  · intro k t u v a hsup hz hdly htgt hpc b c d
    rw [← htgt]
    exact delayBundles rfl rfl rfl hsup hz hdly

end Sys2Proof.Machine
end

section
/-! Results becoming visible (R43, R47, R49, R51). -/

namespace Sys2Proof.Machine

/-! ### Writes of registers -/

/-- A write of a register file: scalar, vector, predicate or box. -/
def Wr.OfRegister (w : Wr) : Prop :=
  (∃ d v, w = .x d v) ∨ (∃ d m v, w = .v d m v) ∨ (∃ d m v, w = .p d m v) ∨ ∃ d b, w = .b d b

/-- What is no register: the cores' records, the latches, the system registers with the device's record, the memories. -/
def State.beside (s : State) := (s.cores, s.latch, (s.sysreg, s.dev), s.spad, s.dram, s.hostm)

theorem performWr_beside {w : Wr} (hw : w.OfRegister) (rmw : Bool) (n : Nat) (s : State) :
    (applyAll (performWr rmw n w s) s).beside = s.beside := by
  obtain ⟨d, v, rfl⟩ | ⟨d, m, v, rfl⟩ | ⟨d, m, v, rfl⟩ | ⟨d, b, rfl⟩ := hw
  · show ((Upd.x n d v).apply s).beside = _
    simp only [Upd.apply]
    split <;> rfl
  · rfl
  · show ((Upd.p n d m v).apply s).beside = _
    simp only [Upd.apply]
    split <;> rfl
  · rfl

/-- What each piece over a list keeps, all of them keep. -/
theorem applyAll_forA_keeps {α : Type} (P : State → Prop) (a : α → Act) (l : List α)
    (h : ∀ x ∈ l, ∀ s, P s → P (applyAll (a x s) s)) (s : State) (hs : P s) : P (applyAll (forA l a s) s) := by
  induction l generalizing s with
  | nil => exact hs
  | cons x r ih =>
    simp only [forA, List.map_cons, applyAll_seqA_cons]
    exact ih (fun y hy => h y (List.mem_cons_of_mem _ hy)) _ (h x List.mem_cons_self s hs)

theorem applyAll_forA_one {α : Type} (a : α → Act) (x : α) (s : State) :
    applyAll (forA [x] a s) s = applyAll (a x s) s := by
  simp only [forA, List.map_cons, List.map_nil, applyAll_seqA_cons, applyAll_seqA_nil]

theorem x_write (n d : Nat) (v : Word) (s : State) (r : Nat) :
    ((Upd.x n d v).apply s).x n r = if r = d ∧ d ≠ 0 then v else s.x n r := by
  by_cases hd : d = 0
  · simp [Upd.apply, hd]
  · by_cases hr : r = d
    · simp [Upd.apply, State.x, hr, hd]
    · have hkey : 64 * n + r ≠ 64 * n + d := by omega
      simp [Upd.apply, State.x, hr, hd, tget_tput_other _ _ _ _ _ hkey]

theorem v_write (n d : Nat) (m v : VWord) (s : State) (r : Nat) :
    ((Upd.v n d m v).apply s).v n r = if r = d then (s.v n d &&& ~~~m) ||| (v &&& m) else s.v n r := by
  by_cases hr : r = d
  · simp [Upd.apply, State.v, hr]
  · have hkey : 64 * n + r ≠ 64 * n + d := by omega
    simp [Upd.apply, State.v, hr, tget_tput_other _ _ _ _ _ hkey]

theorem p_write (n d : Nat) (m v : PWord) (s : State) (r : Nat) :
    ((Upd.p n d m v).apply s).p n r = if r = d ∧ d ≠ 0 then (s.p n d &&& ~~~m) ||| (v &&& m) else s.p n r := by
  by_cases hd : d = 0
  · simp [Upd.apply, hd]
  · by_cases hr : r = d
    · simp [Upd.apply, State.p, hr, hd]
    · have hkey : 16 * n + r ≠ 16 * n + d := by omega
      simp [Upd.apply, State.p, hr, hd, tget_tput_other _ _ _ _ _ hkey]

theorem b_write (n d : Nat) (bx : Option Box) (s : State) : ((Upd.b n d bx).apply s).b n d = bx := by
  cases bx with
  | none => exact tfind_tdel_same _ _
  | some bx => exact tfind_tput_same _ _ _

/-! ### A result without flags -/

/-- The latch of a slot takes a value; slot 0 has none. -/
theorem applyAll_latch (n k : Nat) (v : VWord) (s : State) :
    ∃ l, applyAll (if k == 0 then [] else [.lat n k v]) s = { s with latch := l } ∧
      ∀ j, tget 0 l (8 * n + j) = if j = k ∧ j ≠ 0 then v else s.l n j := by
  by_cases hk : k = 0
  · refine ⟨s.latch, by simp [hk], fun j => ?_⟩
    have hno : ¬(j = k ∧ j ≠ 0) := by omega
    rw [if_neg hno]
    rfl
  · refine ⟨tput s.latch (8 * n + k) v, by simp [hk, Upd.apply], fun j => ?_⟩
    by_cases hj : j = k
    · simp [hj, hk]
    · have hkey : 8 * n + j ≠ 8 * n + k := by omega
      simp [hj, tget_tput_other _ _ _ _ _ hkey, State.l]

/-- A result without flags: its writes, then its slot's latch. -/
theorem performPend_value {n : Nat} {p : Pend} {v : VWord} (s : State) (hflt : p.flt = none) (hagain : p.again = .value)
    (hflags : p.flags = 0) (hlat : p.lat = some v) :
    applyAll (performPend n p s) s = applyAll (if p.slot == 0 then [] else [.lat n p.slot v])
      (applyAll (forA p.wr (performWr false n) s) s) := by
  simp only [performPend, hflt, hagain, hlat, hflags, applyAll_seqA_cons, applyAll_seqA_nil, pureA_eq]
  rfl

/-- Settles O28: the result's writes leave all but the registers, and its latch all but the latches; each kind of write by
its own rule. -/
theorem resultsBecomeVisible : Obligations.ResultsBecomeVisible := by
  unfold Obligations.ResultsBecomeVisible
  intro s n p lv hpend hvis hflt hagain hflags hlat _ hwr
  have hexec := exec_resultWriteback_single (dueNow_single hpend hvis)
  rw [performPend_value _ hflt hagain hflags hlat] at hexec
  generalize hu : (Upd.core n (takeDue s [p])).apply s = u at hexec
  have hbeside : (applyAll (forA p.wr (performWr false n) u) u).beside = u.beside :=
    applyAll_forA_keeps (·.beside = u.beside) (performWr false n) p.wr
      (fun w hw t ht => (performWr_beside (hwr w hw) false n t).trans ht) u rfl
  have hone : ∀ w, p.wr = [w] → applyAll (forA p.wr (performWr false n) u) u = applyAll (performWr false n w u) u :=
    fun w hw => by rw [hw, applyAll_forA_one]
  have hnone : p.wr = [] → applyAll (forA p.wr (performWr false n) u) u = u := fun hw => by rw [hw]; rfl
  generalize applyAll (forA p.wr (performWr false n) u) u = w at hexec hbeside hone hnone
  obtain ⟨l, hlatch, hl⟩ := applyAll_latch n p.slot lv w
  rw [hlatch] at hexec
  subst hu
  simp only [State.beside, Prod.mk.injEq] at hbeside
  obtain ⟨hcores, hlatches, ⟨hsys, hdev⟩, hspad, hdram, hhost⟩ := hbeside
  refine ⟨_, hexec, ?_, sameMem_of_files hspad hdram hhost, sameSys_of_files hsys hdev, fun j _ => ?_, fun d v hw _ r _ => ?_,
    fun d m v hw _ r _ => ?_, fun d m v hw _ r _ => ?_, fun d b hw _ => ?_, fun hw r => ?_⟩
  · show (tget Core.start w.cores n).pend = []
    rw [hcores]
    simp [Upd.apply, takeDue, hpend, hvis]
  · refine (hl j).trans ?_
    simp only [State.l, hlatches]
    rfl
  · exact (congrArg (·.x n r) (hone _ hw)).trans (x_write n d v _ r)
  · exact (congrArg (·.v n r) (hone _ hw)).trans (v_write n d m v _ r)
  · exact (congrArg (·.p n r) (hone _ hw)).trans (p_write n d m v _ r)
  · exact (congrArg (·.b n d) (hone _ hw)).trans (b_write n d b _)
  · rw [hnone hw]
    exact ⟨rfl, rfl, rfl⟩

end Sys2Proof.Machine
end

section
/-! The canonical form of the memories (R208; log 4): every update keeps it, and a step is updates. -/

namespace Sys2Proof.Machine

/-- Settles O56: the event that runs leaves every memory as it is, and every update of a step keeps the form. -/
theorem memoryCanonicalKept : Obligations.MemoryCanonicalKept := by
  unfold Obligations.MemoryCanonicalKept
  intro s t hmem hstep
  obtain ⟨r, -, us, hus⟩ := byUpdates_step s
  obtain rfl : applyAll us { s with agenda := r } = t := by simpa [hstep] using hus.symm
  obtain ⟨hkeeps, -, -⟩ := applyAll_invariants us { s with agenda := r }
  exact hkeeps hmem

end Sys2Proof.Machine
end

section
/-! The issue of engine operations (R190, R216, R234, R237, R243, R244, R249, R252, R255): each forks one thread, at most
posts its start and marks its task as escaped, and an .sr copy and RBFILL advance the core's counters. -/

namespace Sys2Proof.Machine

/-! ### A thread forked -/

/-- An operation as the slot that now issues forks it, before its engine takes it up. -/
def Op.IssuedIn (o : Op) (s : State) : Prop :=
  o.core = s.me ∧ o.issue = s.cycle ∧ o.st = .waiting ∧ o.pc = s.pcNow ∧ o.slot = s.slot

/-- t is s with a thread of one kind forked, and nothing a program can see changed. -/
def Forks (s : State) (k : OpK) (boxes : Op → Prop) (t : State) : Prop :=
  SameAll s t ∧ ∃ o, tfind t.ops s.nid = some o ∧ o.kind = k ∧ o.core = s.me ∧ o.issue = s.cycle ∧ o.st = .waiting ∧
    o.pc = s.pcNow ∧ o.slot = s.slot ∧ boxes o

/-- A start is posted at once, or is left to whatever the operation waits for. -/
theorem start_posts (held : Bool) (due ph : Nat) (ev : Instr) :
    ∀ v ∈ (if held then [] else [postU due ph ev]), ∃ i, v = Upd.post i := by
  intro v hv
  split at hv
  · simp at hv
  · exact ⟨_, List.mem_singleton.mp hv⟩

/-- A task that escapes under a condition is marked, and nothing else changes (R375). -/
theorem applyAll_escapeU_if (c : Bool) (k : Option Nat) (s : State) :
    ∃ l, applyAll (if c then escapeU k else []) s = { s with tasks := l } := by
  split
  · exact applyAll_escapeU k s
  · exact ⟨_, rfl⟩

/-- A new operation, and events posted, on a state that a program sees as s. -/
theorem forks_newOp {s u : State} {o : Op} {us : List Upd} {boxes : Op → Prop} (hvis : u.visible = s.visible)
    (hnid : u.nid = s.nid) (hposts : ∀ v ∈ us, ∃ i, v = .post i) (ho : o.IssuedIn s) (hboxes : boxes o) :
    Forks s o.kind boxes (applyAll (.newOp o :: us) u) := by
  obtain ⟨hcore, hissue, hst, hpc, hslot⟩ := ho
  rw [applyAll_cons, (applyAll_posts hposts _).1]
  refine ⟨sameAll_of_visible hvis, o, ?_, rfl, hcore, hissue, hst, hpc, hslot, hboxes⟩
  show tfind (tput u.ops u.nid o) s.nid = some o
  rw [hnid, tfind_tput_same]

/-- The thread of an operation that its engine's queue takes. -/
def Op.queuedIn (o : Op) (s : State) : Op := { o with phase := if forkBlocked s s.me then 9 else 0 }

/-- An operation that joins its engine's queue is forked (R234). -/
theorem forks_enqueue {s u : State} {o : Op} {boxes : Op → Prop} (delay : Nat) (hvis : u.visible = s.visible)
    (hnid : u.nid = s.nid) (ho : o.IssuedIn s) (hboxes : boxes (o.queuedIn s)) :
    Forks s o.kind boxes (applyAll (enqueue o delay s) u) :=
  forks_newOp (o := o.queuedIn s) hvis hnid (start_posts _ _ _ _) ho hboxes

/-- Joining a queue adds the thread, and a start may be posted. -/
theorem applyAll_enqueue (o : Op) (delay : Nat) (s : State) : ∃ g, applyAll (enqueue o delay s) s =
    { s with ops := tput s.ops s.nid (o.queuedIn s), nid := s.nid + 1, agenda := g } :=
  ⟨_, (applyAll_posts (start_posts _ _ _ _) ((Upd.newOp (o.queuedIn s)).apply s)).1⟩

/-! ### The operations that only fork -/

theorem gathAct_forks {s : State} {d a i : Nat} {bd ba bi : Box} (hd : s.b s.me d = some bd) (ha : s.b s.me a = some ba)
    (hi : s.b s.me i = some bi) :
    Forks s .gath (fun o => o.boxes = [bd, ba, bi] ∧ o.total = bi.count) (applyAll (gathAct d a i s) s) := by
  simp only [gathAct, hd, ha, hi]
  exact forks_enqueue 1 rfl rfl ⟨rfl, rfl, rfl, rfl, rfl⟩ ⟨rfl, rfl⟩

theorem scacAct_forks {s : State} {h i v : Nat} {bh bi bv : Box} (r op bin : Nat) (hh : s.b s.me h = some bh)
    (hi : s.b s.me i = some bi) (hv : s.b s.me v = some bv) :
    Forks s .scac (fun o => o.boxes.take 3 = [bh, bi, bv]) (applyAll (scacAct h i v r op bin s) s) := by
  simp only [scacAct, hh, hi, hv, applyAll_append]
  obtain ⟨l, hesc⟩ := applyAll_escapeU_if (bh.tier == 3 && bh.home != 63) (s.core s.me).task s
  rw [hesc]
  exact forks_enqueue 1 rfl rfl ⟨rfl, rfl, rfl, rfl, rfl⟩ rfl

theorem foldAct_forks {s : State} {d a : Nat} {bd ba : Box} (dim rt v bin : Nat) (hd : s.b s.me d = some bd)
    (ha : s.b s.me a = some ba) :
    Forks s .fold (fun o => o.boxes = [bd, ba]) (applyAll (foldAct d a dim rt v bin s) s) := by
  simp only [foldAct, hd, ha]
  exact forks_enqueue 0 rfl rfl ⟨rfl, rfl, rfl, rfl, rfl⟩ rfl

theorem scanAct_forks {s : State} {d a : Nat} {bd ba : Box} (dim rt v ex bc carry : Nat) (hd : s.b s.me d = some bd)
    (ha : s.b s.me a = some ba) :
    Forks s .scan (fun o => o.boxes.take 2 = [bd, ba]) (applyAll (scanAct d a dim rt v ex bc carry s) s) := by
  simp only [scanAct, hd, ha]
  exact forks_enqueue 0 rfl rfl ⟨rfl, rfl, rfl, rfl, rfl⟩ rfl

theorem zipAct_forks {s : State} {d a : Nat} {bd ba : Box} (b rt v : Nat) (hd : s.b s.me d = some bd)
    (ha : s.b s.me a = some ba) :
    Forks s .zip (fun o => o.boxes.take 2 = [bd, ba]) (applyAll (zipAct d a b rt v s) s) := by
  simp only [zipAct, hd, ha]
  exact forks_enqueue 0 rfl rfl ⟨rfl, rfl, rfl, rfl, rfl⟩ rfl

theorem vrunAct_forks {s : State} {d : Nat} {bd : Box} (xp prog : Nat) (hd : s.b s.me d = some bd) :
    Forks s .vrun (fun o => o.boxes = [bd]) (applyAll (vrunAct d xp prog s) s) := by
  simp only [vrunAct, hd]
  exact forks_newOp rfl rfl (start_posts _ _ _ _) ⟨rfl, rfl, rfl, rfl, rfl⟩ rfl

/-! ### System registers -/

/-- A system register after a write to one. -/
theorem sr_write (n d : Nat) (v : Word) (s : State) {m r : Nat} (hd : d < 4096) (hr : r < 4096) :
    ((Upd.sr n d v).apply s).sr m r = if m = n ∧ r = d then v else s.sr m r := by
  split
  · rename_i h
    obtain ⟨rfl, rfl⟩ := h
    exact tget_tput_same _ _ _ _
  · have hkey : 4096 * m + r ≠ 4096 * n + d := by omega
    exact tget_tput_other _ _ _ _ _ hkey

/-! ### CPY (R237, R238) -/

theorem mem_boardInsert (s : State) (o t : Nat) (l : List Nat) : o ∈ boardInsert s o t l := by
  induction l with
  | nil => simp [boardInsert]
  | cons q r ih =>
    simp only [boardInsert]
    split
    · split
      · exact List.mem_cons_self
      · exact List.mem_cons_of_mem _ ih
    · exact List.mem_cons_of_mem _ ih

/-- The update by which RBSEQ counts an .sr copy. -/
def rbseqU (rm : Nat) (s : State) : List Upd := if rm == 4 then [.sr s.me srRBSEQ (s.sr s.me srRBSEQ + 1)] else []

/-- The system registers once RBSEQ has counted an .sr copy. -/
theorem sr_rbseqU (rm : Nat) (s : State) {m r : Nat} (hr : r < 4096) :
    (applyAll (rbseqU rm s) s).sr m r = if m = s.me ∧ r = srRBSEQ ∧ rm = 4 then s.sr s.me srRBSEQ + 1 else s.sr m r := by
  by_cases hrm : rm = 4
  · simp [rbseqU, hrm, sr_write _ _ _ _ (by decide : srRBSEQ < 4096) hr]
  · simp [rbseqU, hrm]

/-- A core's record once the operation forked next stands on the departure board, before later ticks. -/
def boarded (s : State) (tick : Nat) (c : Core) : Core := { c with board := boardInsert s s.nid tick c.board }

/-- The updates of a copy's issue: its operation, the board, RBSEQ, its task's escape, and its departure posted. -/
theorem cpyAct_eq {s : State} {d a : Nat} {bd ba : Box} (xt tr ch cmp rm : Nat) (hd : s.b s.me d = some bd)
    (ha : s.b s.me a = some ba) :
    ∃ (o : Op) (tick : Nat) (us : List Upd), cpyAct d a xt tr ch cmp rm s =
        [.newOp o, .core s.me (boarded s tick)] ++ rbseqU rm s ++
          (if bd.tier == 5 then escapeU (s.core s.me).task else []) ++ us ∧
      (∀ v ∈ us, ∃ i, v = .post i) ∧ o.kind = .cpy ∧ o.boxes = [ba, bd] ∧ o.tr = tr ∧ o.st = .waiting := by
  simp only [cpyAct, hd, ha]
  exact ⟨_, _, _, rfl, start_posts _ _ _ _, rfl, rfl, rfl, rfl⟩

/-- A copy waits on the departure board as an operation; of what a program can see only RBSEQ changes, with an .sr copy. -/
theorem cpyAct_spec {s : State} {d a : Nat} {bd ba : Box} (xt tr ch cmp rm : Nat) (hd : s.b s.me d = some bd)
    (ha : s.b s.me a = some ba) :
    let t := applyAll (cpyAct d a xt tr ch cmp rm s) s
    SameMem s t ∧ SameRegs s t ∧ t.sysreg = (applyAll (rbseqU rm s) s).sysreg ∧ s.nid ∈ (t.core s.me).board ∧
      ∃ o, tfind t.ops s.nid = some o ∧ o.kind = .cpy ∧ o.boxes = [ba, bd] ∧ o.tr = tr ∧ o.st = .waiting := by
  obtain ⟨o, tick, us, hact, hposts, ho⟩ := cpyAct_eq xt tr ch cmp rm hd ha
  simp only [hact, applyAll_append]
  rw [(applyAll_posts hposts _).1]
  obtain ⟨l, hesc⟩ := applyAll_escapeU_if (bd.tier == 5) (s.core s.me).task (applyAll (rbseqU rm s)
    (applyAll [.newOp o, .core s.me (boarded s tick)] s))
  rw [hesc]
  simp only [rbseqU]
  split <;> exact ⟨sameMem_of_files rfl rfl rfl, sameRegs_of_files rfl rfl rfl rfl rfl rfl, rfl,
    by simp [State.core, boarded, mem_boardInsert], o, tfind_tput_same _ _ _, ho⟩

/-! ### RBFILL (R249) -/

/-- Two words hold the generator's counter. -/
theorem rbCtr_words (c0 c1 : Word) (j : Nat) :
    (BitVec.ofNat 64 (rbCtr c0 c1 j % 2 ^ 64)).toNat + (BitVec.ofNat 64 (rbCtr c0 c1 j / 2 ^ 64)).toNat * 2 ^ 64 =
      (c0.toNat + c1.toNat * 2 ^ 64 + j) % 2 ^ 128 := by
  have hlt : rbCtr c0 c1 j < 2 ^ 128 := Nat.mod_lt _ (by decide)
  show _ = rbCtr c0 c1 j
  simp only [BitVec.toNat_ofNat]
  omega

/-- RBFILL forks a thread for the words that the queue still has room for, and moves RBCTR past their blocks. -/
theorem rbfillAct_spec (e : Nat) (s : State) :
    let t := applyAll (rbfillAct e s) s
    let k := min e (16 - (s.core s.me).rbq.length - (s.core s.me).rbPend)
    SameMem s t ∧ SameRegs s t ∧ (t.core s.me).rbPend = (s.core s.me).rbPend + k ∧
      (t.sr s.me srRBCTR0).toNat + (t.sr s.me (srRBCTR0 + 1)).toNat * 2 ^ 64 =
        ((s.sr s.me srRBCTR0).toNat + (s.sr s.me (srRBCTR0 + 1)).toNat * 2 ^ 64 + 16 * k) % 2 ^ 128 ∧
      ∃ o, tfind t.ops s.nid = some o ∧ o.kind = .rbfill ∧ o.total = k := by
  obtain ⟨g, hfork⟩ := applyAll_enqueue ({ mkOp s .rbfill [] [(s.sr s.me srRBCTR0).toNat,
    (s.sr s.me (srRBCTR0 + 1)).toNat] with total := min e (16 - (s.core s.me).rbq.length - (s.core s.me).rbPend) }) 1 s
  simp only [rbfillAct, applyAll_seqA_cons, applyAll_seqA_nil, pureA_eq, hfork, applyAll_cons, applyAll_nil]
  refine ⟨sameMem_of_files rfl rfl rfl, sameRegs_of_files rfl rfl rfl rfl rfl rfl, by simp [State.core], ?_, _,
    tfind_tput_same _ _ _, rfl, rfl⟩
  simp (disch := decide) only [sr_write]
  simpa using rbCtr_words _ _ _

/-! ### All of them -/

/-- Settles O30: what only forks by the thread it leaves, VSTOP by the one event it posts, CPY and RBFILL by their threads
and the counters they advance. -/
theorem engineOperationsIssue : Obligations.EngineOperationsIssue := by
  unfold Obligations.EngineOperationsIssue
  intro s d a i bd ba bi x y z u w q e hd ha hi
  refine ⟨fun hchk => leaves_of_check rfl hchk (gathAct_forks hd ha hi),
    fun hchk => leaves_of_check rfl hchk (scacAct_forks x y z hd ha hi),
    fun hchk => leaves_of_check rfl hchk (foldAct_forks x y z u hd ha),
    fun hchk => leaves_of_check rfl hchk (scanAct_forks x y z u w q hd ha),
    fun hchk => leaves_of_check rfl hchk (zipAct_forks i y z hd ha),
    fun hchk => leaves_of_check rfl hchk (vrunAct_forks x y hd),
    fun hchk => leaves_of_check rfl hchk ?_,
    fun hchk => leaves_of_check rfl hchk ?_, applyAll (rbfillAct e s) s, rfl, rbfillAct_spec e s⟩
  · simp only [hd]
    exact ⟨sameAll_of_visible rfl, (mem_postItem _ _ _).mpr (.inl rfl)⟩
  · obtain ⟨hmem, hregs, hsys, hboard, hop⟩ := cpyAct_spec x y z u q hd ha
    have hsr : ∀ {m r}, r < 4096 → (applyAll (cpyAct d a x y z u q s) s).sr m r =
        if m = s.me ∧ r = srRBSEQ ∧ q = 4 then s.sr s.me srRBSEQ + 1 else s.sr m r :=
      fun hr => (congrArg (tget 0 · _) hsys).trans (sr_rbseqU q s hr)
    refine ⟨hmem, hregs, fun m r hr hother => ?_, fun hq => ?_, hboard, hop⟩
    · rw [hsr hr, if_neg (fun ⟨hm, hseq, hq⟩ => hother.elim (· hm) (·.elim (· hseq) (· hq)))]
    · rw [hsr (by decide), if_pos ⟨rfl, rfl, hq⟩]

end Sys2Proof.Machine
end

section
/-! Loads and stores of the scratchpads (R225 to R227, R380): every lane is an element the operation names, and what is met of
flipped bits is reported beside the result. -/

namespace Sys2Proof.Machine

/-! ### Operations that pass their check, and lanes -/

/-- An operation that finds no fault leads where its updates lead. -/
theorem exec_of_check {i : Instr} {a : Act} {s : State} (hexec : exec i s = done (guarded (checkOf i) a) s)
    (hchk : checkOf i s = none) : exec i s = .next (applyAll (a s) s) := by
  rw [hexec, done_eq, guarded_none hchk]

theorem lanesOf_eq_map (sz n v : Nat) : lanesOf sz n v = (List.range n).map (fun q => bitsOf v (sz * q) sz) := by
  refine List.ext_getElem (by simp [lanesOf_length]) fun i hi _ => ?_
  rw [lanesOf_length] at hi
  simpa [List.getElem?_eq_getElem, lanesOf_length, hi] using lanesOf_getD sz n v i hi

/-- The elements that the lanes of a vector access name, along dimension 0 from the coordinates on (R226). -/
def laneHit (s : State) (b : Box) (c q : Nat) : Hit :=
  b.resolve (((coordRegs s c b.rank).headD 0 + (q : Int)) :: (coordRegs s c b.rank).tail)

/-- The elements that the lanes of an index vector name (R227). -/
def idxHit (s : State) (b : Box) (i : Src) (q : Nat) : Hit := b.linear (sextOf 32 (bitsOf (s.srcV i).toNat (32 * q) 32))

theorem laneHits_snd (s : State) (b : Box) (c w : Nat) :
    (laneHits s b c w).map (·.2) = (List.range (accLanes b w)).map (laneHit s b c) := by
  simp only [laneHits, List.map_map]
  rfl

theorem idxHits_snd (s : State) (b : Box) (i : Src) (w : Nat) :
    (idxHits s b i w).map (·.2) = (List.range (accLanes b w)).map (idxHit s b i) := by
  simp only [idxHits, lanesOf_eq_map, List.map_map]
  rfl

/-! ### Loads -/

/-- A result put on its way, and then the flipped bits that its reading meets. -/
theorem yieldsRead_of_emit {i : Instr} {a : Act} {s : State} {lat : Nat} {wr : List Wr} {v : VWord} {bx : Box} {hs : List Hit}
    (hexec : exec i s = done (guarded (checkOf i) a) s) (hchk : checkOf i s = none)
    (ha : a s = seqA [emit lat wr v, meetHits bx hs] s) : YieldsRead i s lat wr (some v) := by
  have hnext := exec_of_check hexec hchk
  simp only [ha, applyAll_seqA_cons, applyAll_seqA_nil] at hnext
  exact ⟨_, _, hnext, findsErrors_meetHits bx hs rfl, plainResult_mkPend s lat wr (some v) .value false⟩

/-- LD and LDT of a scratchpad: the element's value after four cycles (R226). -/
theorem yieldsRead_ldAct {i : Instr} {s : State} {d k c : Nat} {nb : Bool} {b : Box} (hb : s.b s.me k = some b)
    (ht : b.tier = 1) (hexec : exec i s = done (guarded (checkOf i) (ldAct d nb k c)) s) (hchk : checkOf i s = none) :
    let v := extendX b.fmt (hitVal s b (b.resolve (coordRegs s c b.rank)))
    YieldsRead i s 4 (if nb then [] else [.x d v]) (some (v.setWidth 1024)) := by
  refine yieldsRead_of_emit hexec hchk ?_ (bx := b) (hs := [b.resolve (coordRegs s c b.rank)])
  simp only [ldAct, hb, ht, beq_self_eq_true, if_true]
  rfl

/-- VLD, VLDT and VLDX: the values of the elements their lanes name (R226, R227). -/
theorem yieldsRead_vldAct {i : Instr} {s : State} {lat d k w : Nat} {nb : Bool} {b : Box}
    {hits : State → Box → List (List Int × Hit)} {f : Nat → Hit} (hb : s.b s.me k = some b)
    (hf : (hits s b).map (·.2) = (List.range (accLanes b w)).map f)
    (hexec : exec i s = done (guarded (checkOf i) (vldAct lat d nb k w hits)) s) (hchk : checkOf i s = none) :
    let v := ofLanes (tySize b.fmt) ((List.range (accLanes b w)).map (fun q => hitVal s b (f q)))
    YieldsRead i s lat (if nb then [] else [.v (s.vp d) (BitVec.ofNat 1024 (2 ^ widthOf w - 1)) (BitVec.ofNat 1024 v)])
      (some (BitVec.ofNat 1024 v)) := by
  have hvals : (hits s b).map (fun e => hitVal s b e.2) = (List.range (accLanes b w)).map (fun q => hitVal s b (f q)) := by
    simpa only [List.map_map, Function.comp_def] using congrArg (List.map (hitVal s b)) hf
  refine yieldsRead_of_emit hexec hchk ?_ (bx := b) (hs := (hits s b).map (·.2))
  simp only [vldAct, hb, hvals]
  rfl

/-- Settles O16: a scalar load by the one element it names, a vector load by the elements of its lanes. -/
theorem localLoads : Obligations.LocalLoads := by
  unfold Obligations.LocalLoads
  intro s d nb k c w i b hb ht
  exact ⟨yieldsRead_ldAct hb ht rfl, yieldsRead_ldAct hb ht rfl, yieldsRead_vldAct hb (laneHits_snd s b c w) rfl,
    yieldsRead_vldAct hb (laneHits_snd s b c w) rfl, yieldsRead_vldAct hb (idxHits_snd s b i w) rfl⟩

/-! ### Stores -/

/-- The write of one lane of a store: the bytes of the element it names, if it names one (R18, R226). -/
def elemWr (s : State) (b : Box) (h : Hit) (v : Nat) : Option Wr :=
  match h with
  | .elem e => match b.place s e false true with
    | .at_ sp key => some (.mem sp key (bytesOf b.esize v))
    | _ => none
  | _ => none

/-- A store's writes, lane by lane. -/
theorem storeWrs_eq {s : State} {b : Box} {hs : List (List Int × Hit)} {n : Nat} {f : Nat → Hit} (val : Nat → Nat)
    (hf : hs.map (·.2) = (List.range n).map f) :
    storeWrs s b hs ((List.range n).map val) = (List.range n).filterMap (fun q => elemWr s b (f q) (val q)) := by
  have hzip : storeWrs s b hs ((List.range n).map val) =
      ((hs.map (·.2)).zip ((List.range n).map val)).filterMap (fun e => elemWr s b e.1 e.2) := by
    rw [List.zip_map_left, List.filterMap_map]
    rfl
  rw [hzip, hf, List.zip_map', List.filterMap_map]
  rfl

/-- A store's result: its writes after two cycles, and no latch. -/
theorem stores_of_emitStore {i : Instr} {a : Act} {s : State} {wr : List Wr} (hexec : exec i s = done (guarded (checkOf i) a) s)
    (hchk : checkOf i s = none) (ha : a s = emitStore wr s) :
    ∃ p, exec i s = .next (s.queued s.me p) ∧ PlainResult s 2 wr none p := by
  have hnext := exec_of_check hexec hchk
  rw [ha] at hnext
  exact ⟨_, hnext, plainResult_mkPend s 2 wr none .value false⟩

/-- ST of a scratchpad writes the one element it names (R226). -/
theorem stores_stAct {i : Instr} {s : State} {v k c : Nat} {b : Box} (hb : s.b s.me k = some b) (ht : b.tier = 1)
    (hexec : exec i s = done (guarded (checkOf i) (stAct v k c)) s) (hchk : checkOf i s = none) :
    ∃ p, exec i s = .next (s.queued s.me p) ∧ PlainResult s 2 ((List.range 1).filterMap (fun _ =>
      elemWr s b (b.resolve (coordRegs s c b.rank)) ((s.x s.me v).toNat % 2 ^ tySize b.fmt))) none p := by
  refine stores_of_emitStore hexec hchk ?_
  simp only [stAct, hb, ht, beq_self_eq_true, if_true]
  exact congrArg (emitStore · s) (storeWrs_eq (n := 1) (f := fun _ => b.resolve (coordRegs s c b.rank))
    (fun _ => (s.x s.me v).toNat % 2 ^ tySize b.fmt) rfl)

/-- VST and VSTX write the elements their lanes name (R226, R227). -/
theorem stores_vstAct {i : Instr} {s : State} {v k w : Nat} {b : Box} {hits : State → Box → List (List Int × Hit)}
    {f : Nat → Hit} (hb : s.b s.me k = some b) (hf : (hits s b).map (·.2) = (List.range (accLanes b w)).map f)
    (hexec : exec i s = done (guarded (checkOf i) (vstAct v k w hits)) s) (hchk : checkOf i s = none) :
    ∃ p, exec i s = .next (s.queued s.me p) ∧ PlainResult s 2 ((List.range (accLanes b w)).filterMap (fun q =>
      elemWr s b (f q) (bitsOf (s.vn v).toNat (tySize b.fmt * q) (tySize b.fmt)))) none p := by
  refine stores_of_emitStore hexec hchk ?_
  simp only [vstAct, hb, lanesOf_eq_map, storeWrs_eq _ hf]

end Sys2Proof.Machine
end

section
/-! Bytes that land in a memory (R51, R218, R294, R296, R380): a write changes its own bytes, and what it leaves beside them
is in the records of cores, tasks and scopes, in the flipped bits and on the agenda. -/

namespace Sys2Proof.Machine

/-! ### Memory after a write -/

theorem memGets_eq_map (m : List Host.Cell) (a n : Nat) : memGets m a n = (List.range n).map (fun j => memGet m (a + j)) := by
  induction n generalizing a with
  | zero => rfl
  | succ n ih =>
    simp only [memGets, ih, List.range_succ_eq_map, List.map_cons, List.map_map, Nat.add_zero, List.cons.injEq, true_and]
    exact List.map_congr_left fun j _ => congrArg (memGet m) (Nat.add_right_comm a 1 j)

/-- A byte of a memory after bytes have been written: one of them, or what it was. -/
theorem memGet_memSets (l : List Byte) {m : List Host.Cell} (a : Nat) (hw : Memory.wf m = true) (z : Nat) :
    memGet (memSets m a l) z = if a ≤ z ∧ z < a + l.length then l.getD (z - a) 0 else memGet m z := by
  split
  · rename_i h
    have hin : z - a < l.length := by omega
    have hread := congrArg (·[z - a]?) (memGets_memSets l a hw)
    simp only [memGets_eq_map, List.getElem?_map, List.getElem?_range hin, Option.map_some, Nat.add_sub_cancel' h.1] at hread
    rw [List.getD_eq_getElem?_getD, ← hread, Option.getD_some]
  · exact memGet_memSets_out l a hw z (by omega)

theorem mem_setMem (s : State) (sp q : Space) (m : List Host.Cell) :
    (s.setMem sp m).mem q = if q = sp then m else s.mem q := by
  cases sp <;> cases q <;> rfl

/-- The same of every memory of the device. -/
theorem memGet_mem_apply {s : State} (hmem : s.memOk = true) (sp : Space) (a : Nat) (bs : List Byte) (q : Space) (z : Nat) :
    memGet (((Upd.mem sp a bs).apply s).mem q) z =
      if q = sp ∧ a ≤ z ∧ z < a + bs.length then bs.getD (z - a) 0 else memGet (s.mem q) z := by
  show memGet ((s.setMem sp (memSets (s.mem sp) a bs)).mem q) z = _
  rw [mem_setMem]
  by_cases hq : q = sp
  · subst hq
    simp only [if_true, true_and]
    exact memGet_memSets bs a (mem_wf s q hmem) z
  · simp [hq]

/-! ### What a write leaves beside its bytes -/

/-- An update of the kinds that a write leaves behind it: of a core's record, without a new result on its way, of a task or a
scope, of the flipped bits, or an event posted. -/
def Upd.IsTrace (u : Upd) : Prop :=
  (∃ m f, u = .core m f ∧ ∀ c : Core, c.pend = [] → (f c).pend = []) ∨ (∃ k f, u = .task k f) ∨ (∃ k x, u = .scope k x) ∨
    (∃ l, u = .upset l) ∨ ∃ i, u = .post i

/-- Traces leave what a program can see, and they put no result on its way. -/
theorem applyAll_traces {us : List Upd} (h : ∀ u ∈ us, u.IsTrace) (s : State) :
    (applyAll us s).visible = s.visible ∧ ∀ n, (s.core n).pend = [] → ((applyAll us s).core n).pend = [] := by
  induction us generalizing s with
  | nil => exact ⟨rfl, fun _ hn => hn⟩
  | cons u r ih =>
    obtain ⟨hvis, hpend⟩ := ih (fun v hv => h v (List.mem_cons_of_mem _ hv)) (u.apply s)
    have hone : (u.apply s).visible = s.visible ∧ ∀ n, (s.core n).pend = [] → ((u.apply s).core n).pend = [] := by
      obtain ⟨m, f, rfl, hf⟩ | ⟨k, f, rfl⟩ | ⟨k, x, rfl⟩ | ⟨l, rfl⟩ | ⟨i, rfl⟩ := h u List.mem_cons_self
      · refine ⟨rfl, fun n hn => ?_⟩
        by_cases hm : n = m
        · subst hm
          exact (congrArg Core.pend (tget_tput_same _ _ _ _)).trans (hf _ hn)
        · exact (congrArg Core.pend (tget_tput_other _ _ _ _ _ hm)).trans hn
      all_goals exact ⟨rfl, fun _ hn => hn⟩
    exact ⟨hvis.trans hone.1, fun n hn => hpend n (hone.2 n hn)⟩

theorem markWrite_traces (t : Option Nat) (sp : Space) (key n : Nat) (s : State) : ∀ u ∈ markWrite t sp key n s, u.IsTrace := by
  have htask : ∀ k f, (Upd.task k f).IsTrace := fun k f => .inr (.inl ⟨k, f, rfl⟩)
  intro u hu
  simp only [markWrite] at hu
  split at hu
  · simp at hu
  · split at hu
    · simp at hu
    · rcases List.mem_append.mp hu with hu | hu
      · split at hu
        · exact List.mem_singleton.mp hu ▸ htask _ _
        · simp at hu
      · obtain ⟨c, -, hu⟩ := List.mem_flatMap.mp hu
        split at hu
        · split at hu
          · exact List.mem_singleton.mp hu ▸ htask _ _
          · simp at hu
        · simp at hu

theorem forgetOld_traces (t : Option Nat) (sp : Space) (key n : Nat) (s : State) : ∀ u ∈ forgetOld t sp key n s, u.IsTrace := by
  intro u hu
  simp only [forgetOld] at hu
  split at hu
  · simp at hu
  · obtain ⟨k, -, hu⟩ := List.mem_flatMap.mp hu
    split at hu
    · split at hu
      · exact List.mem_singleton.mp hu ▸ .inr (.inr (.inl ⟨_, _, rfl⟩))
      · simp at hu
    · simp at hu

theorem rememberU_traces (p : Nat → Scope → Bool) (sp : Space) (key : Nat) (old : List Byte) (s : State) :
    ∀ u ∈ rememberU p sp key old s, u.IsTrace := by
  intro u hu
  simp only [rememberU] at hu
  obtain ⟨e, -, hu⟩ := List.mem_flatMap.mp hu
  split at hu
  · split at hu
    · simp at hu
    · exact List.mem_singleton.mp hu ▸ .inr (.inr (.inl ⟨_, _, rfl⟩))
  · simp at hu

theorem pastU_traces (sp : Space) (key n : Nat) (s : State) : ∀ u ∈ pastU sp key n s, u.IsTrace := by
  intro u hu
  simp only [pastU] at hu
  split at hu
  · exact List.mem_singleton.mp hu ▸ .inl ⟨_, _, rfl, fun _ hc => hc⟩
  · simp at hu

theorem overRmw_traces (sp : Space) (key n : Nat) (s : State) : ∀ u ∈ overRmw sp key n s, u.IsTrace := by
  intro u hu
  simp only [overRmw] at hu
  split at hu
  · refine List.mem_singleton.mp hu ▸ .inl ⟨_, _, rfl, fun c hc => ?_⟩
    simp [hc]
  · simp at hu

theorem healU_traces (sp : Space) (key n : Nat) (s : State) : ∀ u ∈ healU sp key n s, u.IsTrace := by
  intro u hu
  simp only [healU] at hu
  split at hu
  · simp at hu
  · rcases List.mem_append.mp hu with hu | hu
    · split at hu
      · exact List.mem_singleton.mp hu ▸ .inr (.inr (.inr (.inl ⟨_, rfl⟩)))
      · simp at hu
    · exact .inr (.inr (.inr (.inr (findUpsets_posts _ s u hu))))

/-- Bytes kept for a task: their write, and traces (R294, R296). -/
theorem keepU_eq (t : Option Nat) (sp : Space) (key : Nat) (bs : List Byte) (s : State) :
    ∃ us, keepU t sp key bs s = .mem sp key bs :: us ∧ ∀ u ∈ us, u.IsTrace := by
  refine ⟨pastU sp key bs.length s ++ traceU t sp key (memGets (s.mem sp) key bs.length) s, rfl, fun u hu => ?_⟩
  simp only [traceU, List.mem_append] at hu
  obtain hu | (hu | hu) | hu := hu
  · exact pastU_traces sp key bs.length s u hu
  · exact markWrite_traces t sp key _ s u hu
  · exact forgetOld_traces t sp key _ s u hu
  · exact rememberU_traces _ sp key _ s u hu

/-- A store of bytes: their write, and traces (R218, R380). -/
theorem storeU_eq (t : Option Nat) (sp : Space) (key : Nat) (bs : List Byte) (s : State) :
    ∃ us, storeU t sp key bs s = .mem sp key bs :: us ∧ ∀ u ∈ us, u.IsTrace := by
  obtain ⟨us, hkeep, htraces⟩ := keepU_eq t sp key bs s
  refine ⟨us ++ overRmw sp key bs.length s ++ healU sp key bs.length s, ?_, fun u hu => ?_⟩
  · simp [storeU, hkeep]
  · simp only [List.mem_append] at hu
    obtain (hu | hu) | hu := hu
    · exact htraces u hu
    · exact overRmw_traces sp key _ s u hu
    · exact healU_traces sp key _ s u hu

/-- A write of bytes with its traces: what a program sees afterwards but for the bytes, and the results on their way. -/
theorem applyAll_write_traces {us : List Upd} (sp : Space) (a : Nat) (bs : List Byte) (h : ∀ u ∈ us, u.IsTrace) (s : State) :
    let t := applyAll (.mem sp a bs :: us) s
    t.visible = ((Upd.mem sp a bs).apply s).visible ∧ ∀ n, (s.core n).pend = [] → (t.core n).pend = [] := by
  obtain ⟨hvis, hpend⟩ := applyAll_traces h ((Upd.mem sp a bs).apply s)
  exact ⟨hvis, fun n hn => hpend n (by rwa [State.core, mem_cores])⟩

theorem mem_of_visible {s t : State} (h : t.visible = s.visible) (q : Space) : t.mem q = s.mem q := by
  simp only [State.visible, Prod.mk.injEq] at h
  obtain ⟨-, -, hspad, hdram, hhost⟩ := h
  cases q
  · exact hspad
  · exact hdram
  · exact hhost

/-! ### The landing of a store's bytes -/

/-- A result without a latch and without flags: its writes alone. -/
theorem performPend_writes {n : Nat} {p : Pend} (s : State) (hflt : p.flt = none) (hagain : p.again = .value ∨ p.again = .rmw)
    (hlat : p.lat = none) (hflags : p.flags = 0) :
    applyAll (performPend n p s) s = applyAll (forA p.wr (performWr (p.again == .rmw) n) s) s := by
  rcases hagain with hagain | hagain <;>
  · simp only [performPend, hflt, hagain, hlat, hflags, applyAll_seqA_cons, applyAll_seqA_nil, pureA_eq]
    rfl

/-- Bytes of a result are written, with their traces. -/
theorem performWr_mem_eq (rmw : Bool) (n : Nat) (sp : Space) (a : Nat) (bs : List Byte) (s : State) :
    ∃ us, performWr rmw n (.mem sp a bs) s = .mem sp a bs :: us ∧ ∀ u ∈ us, u.IsTrace := by
  cases rmw with
  | true => exact keepU_eq _ sp a bs s
  | false => exact storeU_eq _ sp a bs s

/-- The bytes of a result that is due, and of no other, land; all else a program can see stays (R51, R226, R315). -/
theorem resultWriteback_lands {s : State} {n : Nat} {p : Pend} {sp : Space} {a : Nat} {bs : List Byte}
    (hpend : (s.core n).pend = [p]) (hvis : p.vis ≤ s.cycle) (hflt : p.flt = none)
    (hagain : p.again = .value ∨ p.again = .rmw) (hwr : p.wr = [.mem sp a bs]) (hlat : p.lat = none) (hflags : p.flags = 0) :
    ∃ t, exec (.resultWriteback n) s = .next t ∧ (t.core n).pend = [] ∧ t.visible = ((Upd.mem sp a bs).apply s).visible := by
  have hexec := exec_resultWriteback_single (dueNow_single hpend hvis)
  generalize hu : (Upd.core n (takeDue s [p])).apply s = u at hexec
  obtain ⟨us, hact, htraces⟩ := performWr_mem_eq (p.again == .rmw) n sp a bs u
  rw [performPend_writes u hflt hagain hlat hflags, hwr, applyAll_forA_one, hact] at hexec
  obtain ⟨hseen, hnone⟩ := applyAll_write_traces sp a bs htraces u
  refine ⟨_, hexec, hnone n ?_, hseen.trans ?_⟩
  · subst hu
    refine (congrArg Core.pend (tget_tput_same _ _ _ _)).trans ?_
    simp [takeDue, hpend, hvis]
  · subst hu
    cases sp <;> rfl

/-- Settles O17: at issue the writes that each lane's element makes, and at the landing the write of the bytes with its
traces. -/
theorem localStores : Obligations.LocalStores := by
  unfold Obligations.LocalStores
  refine ⟨fun s v k c w i b hb ht => ⟨stores_stAct hb ht rfl, stores_vstAct hb (laneHits_snd s b c w) rfl,
    stores_vstAct hb (idxHits_snd s b i w) rfl⟩, fun s n p sp a bs hmem hpend hvis hflt hagain hwr hlat hflags => ?_⟩
  obtain ⟨t, hexec, hnone, hseen⟩ := resultWriteback_lands hpend hvis hflt hagain hwr hlat hflags
  have hbyte : ∀ q z, memGet (t.mem q) z =
      if q = sp ∧ a ≤ z ∧ z < a + bs.length then bs.getD (z - a) 0 else memGet (s.mem q) z := fun q z => by
    rw [mem_of_visible hseen, memGet_mem_apply hmem]
  simp only [State.visible, Prod.mk.injEq, mem_xreg, mem_vreg, mem_preg, mem_breg, mem_latch, mem_tile, mem_sysreg,
    mem_dev] at hseen
  obtain ⟨⟨hx, hv, hp, hb, hl, htile⟩, ⟨hsys, hdev⟩, -⟩ := hseen
  refine ⟨t, hexec, hnone, sameRegs_of_files hx hv hp hb hl htile, sameSys_of_files hsys hdev, fun j hj => ?_,
    fun q z hout => ?_⟩
  · rw [hbyte, if_pos ⟨rfl, by omega, by omega⟩, Nat.add_sub_cancel_left]
  · rw [hbyte, if_neg]
    rintro ⟨hq, hlo, hhi⟩
    exact hout.elim (· hq) (by omega)

end Sys2Proof.Machine
end

section
/-! Far accesses of the L class (R228): each is one request, and nothing a program can see changes at issue. -/

namespace Sys2Proof.Machine

/-- A far request that is sent, or held at its core: it is the device's newest, and nothing a program can see changes. -/
theorem applyAll_sendFar (r : Req) (s u : State) :
    let t := applyAll (sendFar r s) u
    t.visible = u.visible ∧ t.iss = u.iss ∧ t.cycle = u.cycle ∧ t.nid = u.nid + 1 ∧
      ∃ st a, t.reqs = tput u.reqs u.nid { r with st := st, arrive := a } := by
  simp only [sendFar]
  split <;> exact ⟨rfl, rfl, rfl, rfl, _, _, rfl⟩

/-- An operation that sends one far request, and may mark its task as escaped (R228, R375). -/
theorem starts_of_sendFar {i : Instr} {a : Act} {s : State} {r : Req} (c : Bool) (k : Option Nat)
    (hexec : exec i s = done (guarded (checkOf i) a) s) (hchk : checkOf i s = none)
    (ha : a s = (if c then escapeU k else []) ++ sendFar r s) :
    ∃ t q, Starts i s t ∧ tfind t.reqs s.nid = some q ∧ q.kind = r.kind ∧ q.core = r.core ∧ q.op = r.op ∧ q.vault = r.vault ∧
      q.addr = r.addr ∧ q.len = r.len ∧ q.data = r.data ∧ q.issue = r.issue := by
  have hnext := exec_of_check hexec hchk
  obtain ⟨l, hesc⟩ := applyAll_escapeU_if c k s
  rw [ha, applyAll_append, hesc] at hnext
  obtain ⟨hvis, -, -, -, st, at_, hreqs⟩ := applyAll_sendFar r s { s with tasks := l }
  refine ⟨_, { r with st := st, arrive := at_ }, ⟨hnext, sameAll_of_visible hvis⟩, ?_, rfl, rfl, rfl, rfl, rfl, rfl, rfl, rfl⟩
  rw [hreqs, tfind_tput_same]

/-- LD and LDT of a vault: a read of the element's bytes goes out (R228). -/
theorem ldAct_far {s : State} {d k c key : Nat} {nb : Bool} {b : Box} {e : Int} (hb : s.b s.me k = some b) (ht : b.tier ≠ 1)
    (he : b.resolve (coordRegs s c b.rank) = .elem e) (hp : b.place s e true false = .at_ .dram key) :
    ldAct d nb k c s = sendFar (farReq s 0 key b.esize [] d b nb (b.kindOf s e) []) s := by
  simp [ldAct, hb, ht, he, hp]

/-- ST of a vault: a write of the element's bytes goes out, and outside its core's own home the task escapes (R228, R375). -/
theorem stAct_far {s : State} {v k c key : Nat} {b : Box} {e : Int} (hb : s.b s.me k = some b) (ht : b.tier ≠ 1)
    (he : b.resolve (coordRegs s c b.rank) = .elem e) (hp : b.place s e false true = .at_ .dram key) :
    stAct v k c s = (if b.tier == 3 && b.home != 63 then escapeU (s.core s.me).task else []) ++
      sendFar (farReq s 1 key b.esize (bytesOf b.esize ((s.x s.me v).toNat % 2 ^ tySize b.fmt)) 0 b true (b.kindOf s e) []) s := by
  simp [stAct, hb, ht, he, hp]

end Sys2Proof.Machine
end

section
/-! The decoder FIFO (R231): a record's lanes stand in order behind its mask word. -/

namespace Sys2Proof.Machine

/-! ### Lanes of a number -/

/-- Lane j of a number made of lanes. -/
theorem bitsOf_ofLanes (sz : Nat) (l : List Nat) (j : Nat) : bitsOf (ofLanes sz l) (sz * j) sz = l.getD j 0 % 2 ^ sz := by
  induction l generalizing j with
  | nil => simp [ofLanes, bitsOf]
  | cons v r ih =>
    have hpos : 0 < 2 ^ sz := Nat.two_pow_pos sz
    cases j with
    | zero => simp [ofLanes, bitsOf, Nat.add_mul_mod_self_left]
    | succ j =>
      have hrest : (v % 2 ^ sz + 2 ^ sz * ofLanes sz r) / 2 ^ sz = ofLanes sz r := by
        rw [Nat.add_mul_div_left _ _ hpos, Nat.div_eq_of_lt (Nat.mod_lt _ hpos), Nat.zero_add]
      rw [List.getD_cons_succ, ← ih j]
      simp only [bitsOf, ofLanes, Nat.mul_succ, Nat.add_comm (sz * j), Nat.pow_add, ← Nat.div_div_eq_div_mul, hrest]

theorem ofNat_emod_toNat (x : Int) : BitVec.ofNat 64 (x % 2 ^ 64).toNat = BitVec.ofInt 64 x := by
  apply BitVec.eq_of_toNat_eq
  have hlt : (x % 2 ^ 64).toNat < 2 ^ 64 := by omega
  rw [BitVec.toNat_ofNat, BitVec.toNat_ofInt, Nat.mod_eq_of_lt hlt]
  rfl

/-! ### A record expanded -/

/-- The ones of a mask word below bit j. -/
def onesBelow (m j : Nat) : Nat := ((List.range j).filter (fun q => m.testBit q)).length

theorem onesBelow_succ (m j : Nat) : onesBelow m (j + 1) = onesBelow m j + if m.testBit j then 1 else 0 := by
  simp only [onesBelow, List.range_succ, List.filter_append, List.length_append, List.filter_cons, List.filter_nil]
  split <;> rfl

/-- Lane j of the record at element k: the next of its elements where the mask word has a one, zero elsewhere (R231). -/
def recLane (at_ : Int → Nat) (k : Int) (j : Nat) : Nat :=
  if (at_ k).testBit j then at_ (k + 1 + onesBelow (at_ k) j) else 0

theorem recLane_mod (at_ : Int → Nat) (k : Int) (j : Nat) :
    recLane at_ k j % 2 ^ 32 = if (at_ k).testBit j then at_ (k + 1 + onesBelow (at_ k) j) % 2 ^ 32 else 0 := by
  simp only [recLane]
  split <;> rfl

/-- The record's lanes, read in order, and the element behind the last that was read. -/
theorem recLanes_foldl (at_ : Int → Nat) (k : Int) (n : Nat) :
    (List.range n).foldl (fun (a : List Nat × Int) j =>
        if (at_ k).testBit j then (a.1 ++ [at_ a.2], a.2 + 1) else (a.1 ++ [0], a.2)) ([], k + 1) =
      ((List.range n).map (recLane at_ k), k + 1 + onesBelow (at_ k) n) := by
  refine foldl_range_invariant (fun n a => a = ((List.range n).map (recLane at_ k), k + 1 + (onesBelow (at_ k) n : Int))) _ _
    (by simp [onesBelow]) (fun n a ha => ?_) n
  subst ha
  rw [onesBelow_succ, List.range_succ, List.map_append, List.map_singleton]
  by_cases hbit : (at_ k).testBit n = true
  · simp [hbit, recLane, Int.add_assoc]
  · simp [hbit, recLane]

/-- What a load of one element of a rank-1 box at this moment returns. -/
def wordAt (s : State) (b : Box) (q : Int) : Nat := hitVal s b (b.resolve [q])

/-- A record passes its check: no ones at or above the lanes, and its elements all in the box (R231). -/
def recordFits (s : State) (b : Box) (k : Int) (n : Nat) : Prop :=
  wordAt s b k < 2 ^ n ∧ k < b.ext.headD 0 ∧ k + onesBelow (wordAt s b k) 32 ≤ (b.ext.headD 0 : Int) - 1

theorem expandZ_fits {s : State} {b : Box} {k : Int} {n : Nat} (h : recordFits s b k n) :
    expandZ s b k n = some ((List.range n).map (recLane (wordAt s b) k),
      ((k + 1 + onesBelow (wordAt s b k) n) % 2 ^ 64).toNat) := by
  obtain ⟨hmask, hfirst, hlast⟩ := h
  have hread := congrArg (fun r : List Nat × Int => (r.1, (r.2 % 2 ^ 64).toNat)) (recLanes_foldl (wordAt s b) k n)
  refine (if_neg ?_).trans (congrArg some hread)
  simp only [wordAt, onesBelow] at hmask hlast
  simp only [Bool.or_eq_true, bne_iff_ne, decide_eq_true_eq, ne_eq, Nat.div_eq_of_lt hmask, not_true_eq_false, false_or]
  omega

theorem expandZ_misfits {s : State} {b : Box} {k : Int} {n : Nat} (h : ¬ recordFits s b k n) : expandZ s b k n = none := by
  refine if_pos ?_
  simp only [Bool.or_eq_true, bne_iff_ne, decide_eq_true_eq]
  refine Classical.byContradiction fun hnot => ?_
  simp only [not_or, ne_eq, Decidable.not_not] at hnot
  obtain ⟨⟨hmask, hfirst⟩, hlast⟩ := hnot
  exact h ⟨Nat.lt_of_div_eq_zero (Nat.two_pow_pos n) hmask, Int.not_le.mp hfirst, Int.not_lt.mp hlast⟩

/-- No vector name reaches physical register 64 (R48), which stands for none in a VLDZ's result. -/
theorem vp_lt {s : State} {d : Nat} : s.vp d < 64 := by
  simp only [State.vp, vphys]
  split <;> omega

/-- The result of a VLDZ that passes its check (R231). -/
theorem vldzResult_fits {s : State} {p : Pend} {b : Box} {k : Int} {d w : Nat} (nb : Bool) (h : recordFits s b k (widthOf w / 32)) :
    let q := vldzResult s p b k (if nb then 64 else s.vp d) w
    let v := ofLanes 32 ((List.range (widthOf w / 32)).map (recLane (wordAt s b) k))
    q.flt = none ∧ q.lat = some (BitVec.ofNat 1024 v) ∧
      q.wr = (if nb then [] else [.v (s.vp d) (BitVec.ofNat 1024 (2 ^ widthOf w - 1)) (BitVec.ofNat 1024 v)]) ++
        [.sr srDZNEXT (BitVec.ofInt 64 (k + 1 + onesBelow (wordAt s b k) (widthOf w / 32)))] := by
  have hphys : s.vp d ≠ 64 := Nat.ne_of_lt vp_lt
  simp only [vldzResult, expandZ_fits h, ofNat_emod_toNat]
  cases nb <;> simp [hphys]

/-- The result of a VLDZ that fails its check: the expansion fault alone (R231). -/
theorem vldzResult_misfits {s : State} {p : Pend} {b : Box} {k : Int} {w : Nat} (d : Nat)
    (h : ¬ recordFits s b k (widthOf w / 32)) :
    let q := vldzResult s p b k d w
    q.wr = [] ∧ q.lat = none ∧ ∃ f, q.flt = some f ∧ f.cause = 10 := by
  have hnone := expandZ_misfits h
  refine ⟨?_, ?_, ?_⟩ <;> simp [vldzResult, hnone, deferredFlt]

theorem vldzResult_vis (s : State) (p : Pend) (b : Box) (k : Int) (d w : Nat) : (vldzResult s p b k d w).vis = p.vis := by
  simp only [vldzResult]
  split <;> rfl

/-- Settles O18: a far access by its one request; a record by the lanes that its fold reads, or by its check. -/
theorem farAccessesAndRecords : Obligations.FarAccessesAndRecords := by
  unfold Obligations.FarAccessesAndRecords
  refine ⟨fun s d v nb k c key b e hb htier he => ?_, fun s d nb k c w b _ hb hchk => ?_⟩
  · have ht : b.tier ≠ 1 := by omega
    exact ⟨fun hp => ⟨fun hchk => starts_of_sendFar false none rfl hchk (ldAct_far hb ht he hp),
      fun hchk => starts_of_sendFar false none rfl hchk (ldAct_far hb ht he hp)⟩,
      fun hp hchk => starts_of_sendFar _ _ rfl hchk (stAct_far hb ht he hp)⟩
  · have hnext := exec_of_check (a := vldzAct d nb k c w) rfl hchk
    simp only [vldzAct, hb, applyAll_seqA_cons, applyAll_seqA_nil, pureA_eq] at hnext
    refine ⟨_, _, hnext, findsErrors_meetHits b _ rfl, vldzResult_vis .., fun hfits => ?_, vldzResult_misfits _⟩
    obtain ⟨hflt, hlat, hwr⟩ := vldzResult_fits nb hfits
    refine ⟨hflt, _, hlat, hwr, fun j hj => ?_⟩
    rw [bitsOf_ofLanes, List.getD_eq_getElem?_getD, List.getElem?_map, List.getElem?_range hj]
    exact recLane_mod (wordAt s b) (s.coord c) j

end Sys2Proof.Machine
end

section
/-! DLVSET at a T3 home (R247, R415): the words of the record go out as far writes, those that follow one another in a column
as one. -/

namespace Sys2Proof.Machine

/-! ### Several pieces in a row -/

/-- Among pieces that each lead from a state to one related to it, every piece runs somewhere on the way. -/
theorem applyAll_forA_passes {α : Type} {R : State → State → Prop} (hrefl : ∀ s, R s s)
    (htrans : ∀ {s t u}, R s t → R t u → R s u) (a : α → Act) (l : List α) (h : ∀ x s, R s (applyAll (a x s) s)) (s : State) :
    R s (applyAll (forA l a s) s) ∧ ∀ x ∈ l, ∃ u, R s u ∧ R (applyAll (a x u) u) (applyAll (forA l a s) s) := by
  induction l generalizing s with
  | nil => exact ⟨hrefl s, by simp⟩
  | cons y r ih =>
    obtain ⟨hall, hpass⟩ := ih (applyAll (a y s) s)
    simp only [forA, List.map_cons, applyAll_seqA_cons] at hall hpass ⊢
    refine ⟨htrans (h y s) hall, fun x hx => ?_⟩
    rcases List.mem_cons.mp hx with rfl | hx
    · exact ⟨s, hrefl s, hall⟩
    · obtain ⟨u, hu, hrest⟩ := hpass x hx
      exact ⟨u, htrans (h y s) hu, hrest⟩

/-! ### Requests sent one after another -/

theorem mem_tput_self {α : Type} (m : Tab α) (k : Nat) (v : α) : (k, v) ∈ tput m k v := by
  induction m with
  | nil => simp [tput]
  | cons e r ih =>
    simp only [tput]
    split
    · simp
    · split <;> simp [ih]

theorem mem_tput_of_mem {α : Type} {m : Tab α} {k : Nat} {e : Nat × α} (v : α) (he : e ∈ m) (hk : e.1 ≠ k) : e ∈ tput m k v := by
  induction m with
  | nil => simp at he
  | cons y r ih =>
    simp only [tput]
    split
    · rename_i hy
      rcases List.mem_cons.mp he with rfl | he
      · exact absurd (beq_iff_eq.mp hy) hk
      · exact List.mem_cons_of_mem _ he
    · split
      · exact List.mem_cons_of_mem _ he
      · rcases List.mem_cons.mp he with rfl | he
        · exact List.mem_cons_self
        · exact List.mem_cons_of_mem _ (ih he)

/-- A request with a property stands among those numbered so far. -/
def HasReq (s : State) (P : Req → Prop) : Prop := ∃ e ∈ s.reqs, e.1 < s.nid ∧ P e.2

/-- t is s with requests added, in the same cycle and for the same operation, and nothing a program can see changed. -/
def AddsReqs (s t : State) : Prop :=
  t.visible = s.visible ∧ t.iss = s.iss ∧ t.cycle = s.cycle ∧ ∀ P, HasReq s P → HasReq t P

theorem AddsReqs.refl (s : State) : AddsReqs s s := ⟨rfl, rfl, rfl, fun _ h => h⟩

theorem AddsReqs.trans {s t u : State} : AddsReqs s t → AddsReqs t u → AddsReqs s u := by
  rintro ⟨hvis, hiss, hcyc, hkeep⟩ ⟨hvis', hiss', hcyc', hkeep'⟩
  exact ⟨hvis'.trans hvis, hiss'.trans hiss, hcyc'.trans hcyc, fun P hp => hkeep' P (hkeep P hp)⟩

/-- A far request sent is added to those there are. -/
theorem addsReqs_sendFar (r : Req) (s u : State) :
    AddsReqs u (applyAll (sendFar r s) u) ∧
      HasReq (applyAll (sendFar r s) u) (fun q => ∃ st a, q = { r with st := st, arrive := a }) := by
  obtain ⟨hvis, hiss, hcyc, hnid, st, a, hreqs⟩ := applyAll_sendFar r s u
  refine ⟨⟨hvis, hiss, hcyc, ?_⟩, (u.nid, { r with st := st, arrive := a }), ?_, ?_, st, a, rfl⟩
  · rintro P ⟨e, he, hlt, hP⟩
    refine ⟨e, ?_, by omega, hP⟩
    rw [hreqs]
    exact mem_tput_of_mem _ he (Nat.ne_of_lt hlt)
  · rw [hreqs]
    exact mem_tput_self _ _ _
  · show u.nid < _
    omega

/-- A far write of the operation that issues in s: bytes at a key, sealed or not. -/
def IsFarWrite (s : State) (key : Nat) (bs : List Byte) (under : List Nat) (q : Req) : Prop :=
  q.kind = 1 ∧ q.core = s.me ∧ q.op = none ∧ q.issue = s.cycle ∧ q.sealed = under ∧ q.vault * 2 ^ 31 + q.addr = key ∧ q.data = bs

theorem AddsReqs.isFarWrite_eq {s t : State} (h : AddsReqs s t) : IsFarWrite t = IsFarWrite s := by
  obtain ⟨-, hiss, hcyc, -⟩ := h
  funext key bs under q
  simp only [IsFarWrite, State.me, hiss, hcyc]

/-- Far words sent for the elements of a list, where an element has one: each is among the requests afterwards. -/
theorem farWords_sent {α : Type} (b : Box) (word : α → Option (Nat × List Byte × List Nat)) (a : α → Act)
    (ha : ∀ x, a x = match word x with
      | some w => farWord b w.1 w.2.1 w.2.2
      | none => pureA []) (l : List α) (s : State) :
    AddsReqs s (applyAll (forA l a s) s) ∧ ∀ x ∈ l, ∀ w, word x = some w →
      HasReq (applyAll (forA l a s) s) (IsFarWrite s w.1 w.2.1 w.2.2) := by
  have hone : ∀ x s, AddsReqs s (applyAll (a x s) s) := fun x s => by
    rw [ha]
    split
    · exact (addsReqs_sendFar _ s s).1
    · exact AddsReqs.refl s
  obtain ⟨hall, hpass⟩ := applyAll_forA_passes AddsReqs.refl AddsReqs.trans a l hone s
  refine ⟨hall, fun x hx w hw => ?_⟩
  obtain ⟨u, hu, -, -, -, hkeep⟩ := hpass x hx
  refine hkeep _ ?_
  rw [ha, hw, ← hu.isFarWrite_eq]
  obtain ⟨-, e, he, hlt, st, at_, hreq⟩ := addsReqs_sendFar (farReq u 1 w.1 w.2.1.length w.2.1 0 b true 3 w.2.2) u u
  refine ⟨e, he, hlt, ?_⟩
  rw [hreq]
  exact ⟨rfl, rfl, rfl, rfl, rfl, Nat.div_add_mod' w.1 (2 ^ 31), rfl⟩

/-! ### Runs within a column (R415) -/

/-- A run holds bytes from a key on. -/
def WRun.Holds (a : WRun) (k : Nat) (bs : List Byte) : Prop :=
  ∃ before behind, a.bytes = before ++ bs ++ behind ∧ a.key + before.length = k

/-- Adding a run keeps what the others hold, and holds its own bytes. -/
theorem addRun_holds (outs : List WRun) (r : WRun) :
    (∀ k bs, (∃ a ∈ outs, a.Holds k bs) → ∃ a ∈ addRun outs r, a.Holds k bs) ∧
      ∃ a ∈ addRun outs r, a.Holds r.key r.bytes := by
  have hself : r.Holds r.key r.bytes := ⟨[], [], by simp, rfl⟩
  cases hl : outs.getLast? with
  | none =>
    obtain rfl := List.getLast?_eq_none_iff.mp hl
    exact ⟨by simp, r, by simp [addRun], hself⟩
  | some a =>
    obtain ⟨ys, rfl⟩ := List.getLast?_eq_some_iff.mp hl
    by_cases hj : (a.key + a.bytes.length == r.key && a.key / 64 == (r.key + r.bytes.length - 1) / 64) = true
    · have hrun : addRun (ys ++ [a]) r = ys ++ [{ a with src := r.src, bytes := a.bytes ++ r.bytes }] := by
        simp [addRun, hj]
      rw [hrun]
      simp only [Bool.and_eq_true, beq_iff_eq] at hj
      refine ⟨?_, _, List.mem_append_right _ List.mem_cons_self, a.bytes, [], by simp, hj.1⟩
      rintro k bs ⟨x, hx, before, behind, hbytes, hkey⟩
      rcases List.mem_append.mp hx with hx | hx
      · exact ⟨x, List.mem_append_left _ hx, before, behind, hbytes, hkey⟩
      · obtain rfl := List.mem_singleton.mp hx
        exact ⟨_, List.mem_append_right _ List.mem_cons_self, before, behind ++ r.bytes, by simp [hbytes], hkey⟩
    · have hrun : addRun (ys ++ [a]) r = ys ++ [a] ++ [r] := by
        simp [addRun, hj]
      rw [hrun]
      exact ⟨fun k bs ⟨x, hx, h⟩ => ⟨x, List.mem_append_left _ hx, h⟩, r, List.mem_append_right _ List.mem_cons_self, hself⟩

/-- The runs of the words that lie in vaults unsealed, and the word each is for. -/
def wordRuns (l : List WRun) (places : List (Place × Nat)) : List WRun :=
  places.foldl (fun l e => match e.1 with
    | .at_ .dram k => addRun l ⟨k, 0, 0, bytesOf 4 e.2⟩
    | _ => l) l

theorem wordRuns_holds (l : List WRun) (places : List (Place × Nat)) :
    (∀ k bs, (∃ a ∈ l, a.Holds k bs) → ∃ a ∈ wordRuns l places, a.Holds k bs) ∧
      ∀ k v, (Place.at_ .dram k, v) ∈ places → ∃ a ∈ wordRuns l places, a.Holds k (bytesOf 4 v) := by
  induction places generalizing l with
  | nil => exact ⟨fun _ _ h => h, by simp⟩
  | cons e r ih =>
    simp only [wordRuns, List.foldl_cons]
    obtain ⟨hkeep, hmem⟩ := ih (match e.1 with
      | .at_ .dram k => addRun l ⟨k, 0, 0, bytesOf 4 e.2⟩
      | _ => l)
    refine ⟨fun k bs h => hkeep k bs ?_, fun k v hin => ?_⟩
    · split
      · exact (addRun_holds l _).1 k bs h
      · exact h
    · rcases List.mem_cons.mp hin with rfl | hin
      · exact hkeep k (bytesOf 4 v) (addRun_holds l ⟨k, 0, 0, bytesOf 4 v⟩).2
      · exact hmem k v hin

/-! ### DLVSET -/

theorem bytesOf_length (n v : Nat) : (bytesOf n v).length = n := by
  induction n generalizing v with
  | zero => rfl
  | succ n ih => simp [bytesOf, ih]

theorem dlvsetWords_eq (s : State) (xp xn : Nat) :
    dlvsetWords s xp xn = [(s.x s.me xp).toNat % 2 ^ 28 + 2 ^ 31, (s.x s.me xn).toNat, 0, 0] := by
  simp [dlvsetWords, wbits, bitsOf]

theorem mem_counterWr {s : State} {b : Box} {w v : Nat} {x : Wr} : x ∈ counterWr s b w v ↔
    ∃ i sp k, b.elemIdx w = some i ∧ b.place s i true true = .at_ sp k ∧ x = .mem sp k (bytesOf 4 v) := by
  simp only [counterWr]
  split
  · rename_i i hi
    split
    · rename_i sp k hp
      rw [List.mem_singleton]
      refine ⟨fun hx => ⟨i, sp, k, hi, hp, hx⟩, ?_⟩
      rintro ⟨i', sp', k', hi', hp', hx⟩
      obtain rfl := Option.some.inj (hi.symm.trans hi')
      obtain ⟨rfl, rfl⟩ := Place.at_.inj (hp.symm.trans hp')
      exact hx
    · rename_i hnot
      refine ⟨fun hx => absurd hx List.not_mem_nil, ?_⟩
      rintro ⟨i', sp, k, hi', hp, -⟩
      obtain rfl := Option.some.inj (hi.symm.trans hi')
      exact absurd hp (hnot sp k)
  · rename_i hi
    refine ⟨fun hx => absurd hx List.not_mem_nil, ?_⟩
    rintro ⟨i, -, -, hi', -, -⟩
    exact absurd (hi.symm.trans hi') (Option.some_ne_none i).symm

/-- DLVSET at a T1 home: the writes of its words that have a place, as a store's (R247). -/
theorem dlvset_local {s : State} {bc xe xp xn : Nat} {b : Box} (hb : s.b s.me bc = some b) (ht : b.tier = 1)
    (hchk : checkOf (.dlvset bc xe xp xn) s = none) :
    ∃ p, exec (.dlvset bc xe xp xn) s = .next (s.queued s.me p) ∧ PlainResult s 2 ((List.range 4).flatMap (fun j =>
      counterWr s b (4 * (s.x s.me xe).toNat + j) ((dlvsetWords s xp xn).getD j 0))) none p := by
  refine stores_of_emitStore (a := dlvsetAct bc xe xp xn) rfl hchk ?_
  simp only [dlvsetAct, hb, ht, beq_self_eq_true, if_true]

/-- The places of the words of a record, with the words. -/
def recordPlaces (s : State) (b : Box) (r : Nat) (ws : List Nat) : List (Place × Nat) :=
  (List.range 4).filterMap (fun j => (b.elemIdx (r + j)).map (fun i => (b.place s i true true, ws.getD j 0)))

theorem mem_recordPlaces {s : State} {b : Box} {r j : Nat} {i : Int} (ws : List Nat) (hj : j < 4) (hi : b.elemIdx (r + j) = some i) :
    (b.place s i true true, ws.getD j 0) ∈ recordPlaces s b r ws :=
  List.mem_filterMap.mpr ⟨j, List.mem_range.mpr hj, by simp [hi]⟩

/-- The far word of a run of words. -/
def runWord (r : WRun) : Option (Nat × List Byte × List Nat) := some (r.key, r.bytes, [])

/-- The far word of a word under seal, to the hub (R356). -/
def sealedWord (e : Place × Nat) : Option (Nat × List Byte × List Nat) :=
  match e.1 with
  | .sealed k entry phys shadow base => some (2 ^ 31 * 160, bytesOf 4 e.2, [k, entry, phys, shadow, base])
  | _ => none

/-- It is sent for a word under seal, and nothing for another. -/
def sendSealed (b : Box) (e : Place × Nat) : Act :=
  match e.1 with
  | .sealed k entry phys shadow base => farWord b (2 ^ 31 * 160) (bytesOf 4 e.2) [k, entry, phys, shadow, base]
  | _ => pureA []

theorem sendSealed_eq (b : Box) (e : Place × Nat) : sendSealed b e = match sealedWord e with
    | some w => farWord b w.1 w.2.1 w.2.2
    | none => pureA [] := by
  obtain ⟨pl, v⟩ := e
  cases pl <;> rfl

/-- DLVSET at a T3 home: every word of its record that has a place in a vault stands in a run sent, and every sealed one is
sent by itself (R247, R356, R415). -/
theorem dlvset_far {s : State} {bc xe xp xn : Nat} {b : Box} (hb : s.b s.me bc = some b) (ht : b.tier ≠ 1) :
    let t := applyAll (dlvsetAct bc xe xp xn s) s
    let ps := recordPlaces s b (4 * (s.x s.me xe).toNat) (dlvsetWords s xp xn)
    AddsReqs s t ∧
      (∀ k v, (Place.at_ .dram k, v) ∈ ps → ∃ a : WRun, a.Holds k (bytesOf 4 v) ∧ HasReq t (IsFarWrite s a.key a.bytes [])) ∧
      ∀ k u ph sh bs v, (Place.sealed k u ph sh bs, v) ∈ ps →
        HasReq t (IsFarWrite s (2 ^ 31 * 160) (bytesOf 4 v) [k, u, ph, sh, bs]) := by
  intro t ps
  have hact : dlvsetAct bc xe xp xn s = seqA [
      forA (wordRuns [] ps) (fun r => farWord b r.key r.bytes []),
      forA ps (sendSealed b)] s := by
    simp only [dlvsetAct, hb, beq_iff_eq, ht, if_false]
    rfl
  have ht : t = applyAll (dlvsetAct bc xe xp xn s) s := rfl
  simp only [hact, applyAll_seqA_cons, applyAll_seqA_nil] at ht
  obtain ⟨hruns, hrun⟩ := farWords_sent b runWord (fun r => farWord b r.key r.bytes []) (fun _ => rfl) (wordRuns [] ps) s
  obtain ⟨hsealed, hseal⟩ := farWords_sent b sealedWord (sendSealed b) (sendSealed_eq b) ps
    (applyAll (forA (wordRuns [] ps) (fun r => farWord b r.key r.bytes []) s) s)
  rw [← ht] at hsealed hseal
  rw [hruns.isFarWrite_eq] at hseal
  refine ⟨hruns.trans hsealed, fun k v hin => ?_, fun k u ph sh bs v hin => hseal _ hin _ rfl⟩
  obtain ⟨a, ha, hholds⟩ := (wordRuns_holds [] ps).2 k v hin
  obtain ⟨-, -, -, hkeep⟩ := hsealed
  exact ⟨a, hholds, hkeep _ (hrun a ha _ rfl)⟩

end Sys2Proof.Machine
end

section
/-! The hold of a DLVWAIT (R248): when it ends, and with which fault. -/

namespace Sys2Proof.Machine

theorem core_apply_core (n : Nat) (f : Core → Core) (s : State) : ((Upd.core n f).apply s).core n = f (s.core n) :=
  tget_tput_same _ _ _ _

/-- DLVWAIT holds issue on its box, and posts its deadline where it has one. -/
theorem dlvwaitAct_spec {s : State} {bc xd : Nat} {b : Box} (hb : s.b s.me bc = some b) :
    let t := applyAll (dlvwaitAct bc xd s) s
    let d := (s.x s.me xd).toNat
    SameAll s t ∧ (t.core s.me).hold = .dlv b bc d ∧ (d ≠ 0 →
      ⟨if d ≤ s.ctime then s.cycle + 1 else s.cycle + (d - s.ctime), 3, .dlvwaitDeadline s.me⟩ ∈ t.agenda) := by
  simp only [dlvwaitAct, hb]
  by_cases hd : (s.x s.me xd).toNat = 0
  · simp only [hd, beq_self_eq_true, if_true]
    exact ⟨sameAll_of_visible rfl, by simp [State.core], by simp⟩
  · simp only [beq_iff_eq, hd, if_false]
    exact ⟨sameAll_of_visible rfl, by simp [State.core, postU], fun _ => (mem_postItem _ _ _).mpr (.inl rfl)⟩

/-- The end of a DLVWAIT's hold with a fault: the records are copied to the save area, and the fault is due (R248, R366). -/
def dlvFaultAct (n : Nat) (f : Flt) (b : Box) : Act := fun s =>
  .core n (fun c => c.release s.cycle) :: .fresh :: dlvRecord s n f b :: dueFor n (s.core n).task s.cycle f none (s.core n).sup s

/-- In task mode it leaves the core without a hold and the fault due, and neither memory nor a register changes. -/
theorem dlvFaultAct_spec {s : State} {n : Nat} (f : Flt) (b : Box) (hsup : (s.core n).sup = false) :
    let t := applyAll (dlvFaultAct n f b s) s
    SameMem s t ∧ SameRegs s t ∧ (t.core n).hold = .none ∧ ∃ d ∈ (t.core n).due, d.flt.cause = f.cause ∧ d.since = s.cycle := by
  simp only [dlvFaultAct, dueFor, beq_self_eq_true, if_true, dlvRecord, areaU, applyAll_cons, applyAll_nil, core_apply_core]
  generalize (List.range (4 * counterRecs b)).map (counterWord s b) = words
  refine ⟨sameMem_of_files (by simp) (by simp) (by simp),
    sameRegs_of_files (by simp) (by simp) (by simp) (by simp) (by simp) (by simp), ?_,
    ⟨s.cycle, f, none, (s.core n).sup⟩, List.mem_append_right _ List.mem_cons_self, rfl, rfl⟩
  show (((Upd.core n fun c => c.release s.cycle).apply s).core n).hold = .none
  rw [core_apply_core, Core.release, hsup]
  rfl

section
variable {s : State} {n reg d : Nat} {c : Box} (hheld : (s.core n).held = .dlv c reg d)
include hheld

/-- A release once a flag is set is a delivery fault. -/
theorem dlvwaitRelease_flagged (hf : dlvFlagged s c = true) :
    exec (.dlvwaitRelease n) s = done (dlvFaultAct n (dlvFlt s n 0x0E reg 0 c) c) s := by
  show Host.Outcome.next (applyAll (dlvwaitReleaseAct n s) s) = _
  simp only [dlvwaitReleaseAct, hheld, hf, if_true]
  rfl

/-- A release once every record is full ends the hold. -/
theorem dlvwaitRelease_done (hf : dlvFlagged s c = false) (hd : dlvDone s c = true) :
    exec (.dlvwaitRelease n) s = .next (s.coreTo n ((s.core n).release s.cycle)) := by
  show Host.Outcome.next (applyAll (dlvwaitReleaseAct n s) s) = _
  simp only [dlvwaitReleaseAct, hheld, hf, hd, if_true, Bool.false_eq_true, if_false]
  rfl

/-- A release before that does nothing. -/
theorem dlvwaitRelease_waits (hf : dlvFlagged s c = false) (hd : dlvDone s c = false) :
    exec (.dlvwaitRelease n) s = .next s := by
  show Host.Outcome.next (applyAll (dlvwaitReleaseAct n s) s) = _
  simp only [dlvwaitReleaseAct, hheld, hf, hd, Bool.false_eq_true, if_false]
  rfl

/-- A deadline that is reached first is a deadline fault. -/
theorem dlvwaitDeadline_reached (h0 : d ≠ 0) (hct : d ≤ s.ctime) (hd : dlvDone s c = false) (hf : dlvFlagged s c = false) :
    exec (.dlvwaitDeadline n) s = done (dlvFaultAct n (dlvFlt s n 0x0F reg d c) c) s := by
  have hnot : ¬ s.ctime < d := Nat.not_lt.mpr hct
  show Host.Outcome.next (applyAll (dlvwaitDeadlineAct n s) s) = _
  simp only [dlvwaitDeadlineAct, hheld, hf, hd, beq_iff_eq, h0, hnot, decide_false, Bool.or_false, if_false]
  rfl

/-- A deadline after the records are full, or a flag is set, does nothing. -/
theorem dlvwaitDeadline_late (h : dlvDone s c = true ∨ dlvFlagged s c = true) : exec (.dlvwaitDeadline n) s = .next s := by
  show Host.Outcome.next (applyAll (dlvwaitDeadlineAct n s) s) = _
  rcases h with h | h <;>
  · simp only [dlvwaitDeadlineAct, hheld, h, Bool.or_true, Bool.true_or, if_true]
    rfl

end

end Sys2Proof.Machine
end

section
/-! Deliveries counted in a box of a scratchpad (R218, R247): its words are disjoint, and a delivery writes one or two. -/

namespace Sys2Proof.Machine

/-! ### Numbers of four bytes -/

theorem natOf_bytesOf (n v : Nat) : natOf (bytesOf n v) = v % 256 ^ n := by
  induction n generalizing v with
  | zero => simp [bytesOf, natOf, Nat.mod_one]
  | succ n ih => simp [bytesOf, natOf, ih, Nat.pow_succ', Nat.mod_mul]

theorem take_bytesOf (n v : Nat) : (bytesOf n v).take n = bytesOf n v :=
  List.take_of_length_le (Nat.le_of_eq (bytesOf_length n v))

theorem natOf_lt (l : List Byte) : natOf l < 256 ^ l.length := by
  induction l with
  | nil => simp [natOf]
  | cons b r ih =>
    have hb : b.toNat < 256 := b.isLt
    simp only [natOf, List.length_cons, Nat.pow_succ']
    omega

/-! ### The words of a counter box -/

/-- A counter box of w words in a scratchpad (R247). -/
structure Box.IsCounter (c : Box) (w : Nat) : Prop where
  tier : c.tier = 1
  fmt : c.fmt = 11
  str : c.str = [1]
  ext : c.ext = [w]
  idx : 0 ≤ c.idx
  fits : c.org + 4 * (c.idx.toNat + w) ≤ 2 ^ 22

/-- Where word j of it stands. -/
def Box.wordKey (c : Box) (j : Nat) : Nat := skey c.home (c.org + 4 * (c.idx.toNat + j))

section
variable {c : Box} {w j : Nat} (hc : c.IsCounter w) (hj : j < w)
include hc

theorem Box.IsCounter.esize_eq : c.esize = 4 := by
  rw [Box.esize, hc.fmt]
  rfl

include hj

theorem Box.IsCounter.elemIdx_eq : c.elemIdx j = some (c.idx + j) := by
  have hin : inBounds [w] [(j : Int)] = true := by simp [inBounds, hj]
  have hres : c.resolve (coordsOf [w] j) = .elem (c.idx + j) := by
    simp only [Box.resolve, hc.ext, hc.str, coordsOf, hin, if_true, dot, Nat.mod_eq_of_lt hj, Int.one_mul, Int.add_zero]
  simp only [Box.elemIdx, hc.ext, hres]

theorem Box.IsCounter.place_eq (s : State) (rd wr : Bool) : c.place s (c.idx + j) rd wr = .at_ .spad (c.wordKey j) := by
  have hidx := hc.idx
  have hfits := hc.fits
  have hoff : (c.org : Int) + c.offset (c.idx + j) = ((c.org + 4 * (c.idx.toNat + j) : Nat) : Int) := by
    simp only [Box.offset, hc.fmt, hc.esize_eq, Nat.reduceBEq, Bool.false_eq_true, if_false]
    omega
  simp only [Box.place, hc.tier, hoff, hc.esize_eq, Int.toNat_natCast]
  refine if_pos ?_
  simp only [Bool.and_eq_true, decide_eq_true_eq]
  omega

/-- A word of the box is its four bytes. -/
theorem counterWord_eq (s : State) : counterWord s c j = natOf (memGets s.spad (c.wordKey j) 4) := by
  simp only [counterWord, hc.elemIdx_eq hj, Option.bind_some, Box.read, hc.place_eq hj, Option.getD_some, Box.bitsAt, hc.fmt,
    hc.esize_eq, Nat.reduceBEq, Bool.false_eq_true, if_false]
  rfl

theorem counterWord_lt (s : State) : counterWord s c j < 2 ^ 32 := by
  rw [counterWord_eq hc hj]
  simpa [memGets_eq_map] using natOf_lt (memGets s.spad (c.wordKey j) 4)

/-- Where no core has a result on its way the turntable reads what stands there (R218). -/
theorem turnWord_eq {s : State} (hstill : s.still) : turnWord s c j = counterWord s c j := by
  have hbyte : ∀ k, s.turnByte .spad k = memGet s.spad k := fun k => by
    obtain ⟨hpend, himg⟩ := hstill (k / 2 ^ 22)
    simp only [State.turnByte, Core.rmwCells, hpend, himg]
    rfl
  simp only [turnWord, hc.elemIdx_eq hj, hc.place_eq hj, counterWord_eq hc hj, State.turnNat, hbyte, memGets_eq_map]

theorem counterWr_eq (s : State) (v : Nat) : counterWr s c j v = [.mem .spad (c.wordKey j) (bytesOf 4 v)] := by
  simp only [counterWr, hc.elemIdx_eq hj, hc.place_eq hj]

/-- A word written: the box's other words stay. -/
theorem counterWord_wrU {u : State} (hmem : u.memOk = true) (t : Option Nat) (v : Nat) {k : Nat} (hk : k < w) :
    counterWord (applyAll (wrU t (.mem .spad (c.wordKey j) (bytesOf 4 v)) u) u) c k =
      if k = j then v % 2 ^ 32 else counterWord u c k := by
  obtain ⟨us, hact, htraces⟩ := storeU_eq t .spad (c.wordKey j) (bytesOf 4 v) u
  have hspad : ∀ z, memGet (applyAll (wrU t (.mem .spad (c.wordKey j) (bytesOf 4 v)) u) u).spad z =
      if c.wordKey j ≤ z ∧ z < c.wordKey j + 4 then (bytesOf 4 v).getD (z - c.wordKey j) 0 else memGet u.spad z := fun z => by
    obtain ⟨hseen, -⟩ := applyAll_write_traces .spad (c.wordKey j) (bytesOf 4 v) htraces u
    have hbyte := memGet_mem_apply hmem .spad (c.wordKey j) (bytesOf 4 v) .spad z
    rw [← mem_of_visible hseen, ← hact] at hbyte
    simp only [bytesOf_length, true_and] at hbyte
    exact hbyte
  rw [counterWord_eq hc hk, counterWord_eq hc hk, memGets_eq_map, memGets_eq_map]
  by_cases hkj : k = j
  · subst hkj
    rw [if_pos rfl]
    refine Eq.trans (congrArg natOf ?_) (natOf_bytesOf 4 v)
    refine List.ext_getElem (by simp [bytesOf_length]) fun i hi _ => ?_
    have hi4 : i < 4 := by simpa using hi
    simp [hspad, hi4, bytesOf_length]
  · rw [if_neg hkj]
    congr 1
    refine List.map_congr_left fun i hi => ?_
    have hi4 := List.mem_range.mp hi
    rw [hspad, if_neg]
    simp only [Box.wordKey, skey]
    omega

end

/-! ### A delivery -/

theorem memOk_applyAll {us : List Upd} {s : State} (h : s.memOk = true) : (applyAll us s).memOk = true :=
  (applyAll_invariants us s).1 h

section
variable {s : State} {c : Box} {w producer : Nat} (hc : c.IsCounter w) (hstill : s.still)
include hc hstill

/-- Record k of the box names the producer, as the turntable finds it. -/
theorem names_iff {k : Nat} (hk : 4 * k < w) :
    (turnWord s c (4 * k) == producer + 2 ^ 31) = true ↔ counterWord s c (4 * k) = producer + 2 ^ 31 := by
  rw [turnWord_eq hc hk hstill, beq_iff_eq]

/-- The record that a delivery falls in is the first that names its producer. -/
theorem counterRec_eq_some {rec : Nat} (hrec : 4 * rec + 3 < w) (hnames : counterWord s c (4 * rec) = producer + 2 ^ 31)
    (hfirst : ∀ k, k < rec → ¬ counterWord s c (4 * k) = producer + 2 ^ 31) : counterRec s c producer none = some rec := by
  simp only [counterRec, counterRecs, hc.ext, List.headD_cons, List.find?_range_eq_some]
  refine ⟨(names_iff hc hstill (by omega)).mpr hnames, List.mem_range.mpr (by omega), fun k hk => ?_⟩
  rw [Bool.not_eq_true', Bool.eq_false_iff, ne_eq, names_iff hc hstill (by omega)]
  exact hfirst k hk

theorem counterRec_eq_none (hnone : ∀ k, k < w / 4 → ¬ counterWord s c (4 * k) = producer + 2 ^ 31) :
    counterRec s c producer none = none := by
  simp only [counterRec, counterRecs, hc.ext, List.headD_cons, List.find?_range_eq_none]
  intro k hk
  rw [Bool.not_eq_true', Bool.eq_false_iff, ne_eq, names_iff hc hstill (by omega)]
  exact hnone k hk

/-- A delivery adds its bytes to the third word of its record, and flags a count past what is expected in the fourth. -/
theorem deliver_counts (hmem : s.memOk = true) (bytes : Nat) {rec : Nat} (hrec : 4 * rec + 3 < w)
    (hfound : counterRec s c producer none = some rec) {j : Nat} (hj : j < w) :
    counterWord (applyAll (deliver none c producer bytes none s) s) c j =
      if j = 4 * rec + 2 then (counterWord s c j + bytes) % 2 ^ 32
      else if j = 4 * rec + 3 ∧ counterWord s c (4 * rec + 1) < counterWord s c (4 * rec + 2) + bytes then
        counterWord s c j ||| 1
      else counterWord s c j := by
  have h1 : 4 * rec + 1 < w := by omega
  have h2 : 4 * rec + 2 < w := by omega
  have hcount := counterWord_wrU hc h2 hmem none ((counterWord s c (4 * rec + 2) + bytes) % 2 ^ 32) hj
  have hflag : (counterWord s c (4 * rec + 3) ||| 1) % 2 ^ 32 = counterWord s c (4 * rec + 3) ||| 1 :=
    Nat.mod_eq_of_lt (Nat.or_lt_two_pow (counterWord_lt hc hrec s) (by decide))
  simp only [deliver, hfound, turnWord_eq hc h1 hstill, turnWord_eq hc h2 hstill, turnWord_eq hc hrec hstill,
    counterWr_eq hc h2, counterWr_eq hc hrec]
  by_cases hbig : counterWord s c (4 * rec + 1) < counterWord s c (4 * rec + 2) + bytes
  · have hboth := counterWord_wrU hc hrec (memOk_applyAll hmem) none (counterWord s c (4 * rec + 3) ||| 1) hj
      (u := applyAll (wrU none (.mem .spad (c.wordKey (4 * rec + 2))
        (bytesOf 4 ((counterWord s c (4 * rec + 2) + bytes) % 2 ^ 32))) s) s)
    simp only [hbig, if_true, and_true, forA, List.map_cons, List.map_nil, List.cons_append, List.nil_append,
      applyAll_seqA_cons, applyAll_seqA_nil, hboth, hcount, hflag, Nat.mod_mod]
    by_cases hj3 : j = 4 * rec + 3
    · have hne : ¬ j = 4 * rec + 2 := by omega
      rw [if_pos hj3, if_neg hne, if_pos hj3, hj3]
    · simp only [hj3, if_false]
      split
      · rename_i hj2
        rw [hj2]
      · rfl
  · simp only [hbig, if_false, and_false, List.append_nil, applyAll_forA_one, hcount, Nat.mod_mod]
    split
    · rename_i hj2
      rw [hj2]
    · rfl

/-- A delivery whose producer no record names is flagged in the fourth word of record 0. -/
theorem deliver_strays (hmem : s.memOk = true) (bytes : Nat) (hw : 3 < w) (hfound : counterRec s c producer none = none)
    {j : Nat} (hj : j < w) : counterWord (applyAll (deliver none c producer bytes none s) s) c j =
      if j = 3 then counterWord s c j ||| 2 else counterWord s c j := by
  have hflag : (counterWord s c 3 ||| 2) % 2 ^ 32 = counterWord s c 3 ||| 2 :=
    Nat.mod_eq_of_lt (Nat.or_lt_two_pow (counterWord_lt hc hw s) (by decide))
  simp only [deliver, hfound, turnWord_eq hc hw hstill, counterWr_eq hc hw, applyAll_forA_one,
    counterWord_wrU hc hw hmem none _ hj, hflag]
  split
  · rename_i hj3
    rw [hj3]
  · rfl

end

/-- Settles O31: DLVSET by the writes or the requests of its words, DLVWAIT by the hold it sets and how that ends, and a delivery
by the words it writes. -/
theorem countedDelivery : Obligations.CountedDelivery := by
  unfold Obligations.CountedDelivery
  intro s bc xe xp xn n reg dl b c hb
  refine ⟨fun ht hchk => ?_, fun ht hchk => leaves_of_check (a := dlvsetAct bc xe xp xn) rfl hchk ?_,
    fun hchk => leaves_of_check rfl hchk (dlvwaitAct_spec hb), fun hheld hsup =>
      ⟨fun hf => ?_, dlvwaitRelease_done hheld, dlvwaitRelease_waits hheld, fun h0 hct hd hf => ?_, dlvwaitDeadline_late hheld⟩,
    fun w producer bytes rec htier _ hfmt hstr hext hidx hfits hmem hstill => ?_⟩
  · obtain ⟨p, hexec, hvis, hwr, hlat, -, -, hflt⟩ := dlvset_local hb ht hchk
    refine ⟨p, hexec, hvis, hlat, hflt, fun x => ?_⟩
    rw [hwr, dlvsetWords_eq]
    simp only [List.mem_flatMap, List.mem_range, mem_counterWr]
    constructor
    · rintro ⟨j, hj, i, sp, k, hi, hp, rfl⟩
      exact ⟨j, sp, k, hj, ⟨i, hi, hp⟩, rfl⟩
    · rintro ⟨j, sp, k, hj, ⟨i, hi, hp⟩, rfl⟩
      exact ⟨j, hj, i, sp, k, hi, hp, rfl⟩
  · obtain ⟨⟨hseen, -⟩, hruns, hsealed⟩ := dlvset_far (xe := xe) (xp := xp) (xn := xn) hb ht
    rw [dlvsetWords_eq] at hruns hsealed
    refine ⟨sameAll_of_visible hseen, fun j k hj ⟨i, hi, hp⟩ => ?_, fun j k u ph sh bs hj ⟨i, hi, hp⟩ => ?_⟩
    · obtain ⟨a, ⟨before, behind, hbytes, hkey⟩, e, he, -, hkind, hcore, hop, hissue, hunder, haddr, hdata⟩ :=
        hruns k _ (hp ▸ mem_recordPlaces _ hj hi)
      refine ⟨before.length, e, he, hkind, hcore, hop, hissue, hunder, by rw [haddr, hkey], ?_⟩
      rw [hdata, hbytes, List.append_assoc, List.drop_left]
      exact List.take_left' (bytesOf_length 4 _)
    · obtain ⟨e, he, -, hkind, hcore, hop, hissue, hunder, haddr, hdata⟩ :=
        hsealed k u ph sh bs _ (hp ▸ mem_recordPlaces _ hj hi)
      refine ⟨e, he, hkind, hcore, hop, hissue, hunder, (Nat.add_zero _).trans haddr, ?_⟩
      rw [hdata, List.drop_zero]
      exact take_bytesOf 4 _
  · exact ⟨_, dlvwaitRelease_flagged hheld hf, dlvFaultAct_spec _ c hsup⟩
  · exact ⟨_, dlvwaitDeadline_reached hheld h0 hct hd hf, dlvFaultAct_spec _ c hsup⟩
  · have hc : c.IsCounter w := ⟨htier, hfmt, hstr, hext, hidx, hfits⟩
    refine ⟨fun hrec hnames hfirst j hj => ?_, fun hnone hw j hj => ?_⟩
    · exact deliver_counts hc hstill hmem bytes hrec (counterRec_eq_some hc hstill hrec hnames hfirst) hj
    · exact deliver_strays hc hstill hmem bytes hw (counterRec_eq_none hc hstill hnone) hj

end Sys2Proof.Machine
end
